-- ==== Sys2Proof/Word.lean ====
section
/-! DEFINITION. The word types of the CL2460 model: what the manual treats as bits or as a name of a fixed width. -/

namespace Sys2Proof

/-- A byte of a Module Line frame, of the profile image or of a completion (section 2.1). -/
abbrev Byte := BitVec 8

/-- A sector of 512 bytes (section 2.2). Byte `i` of the sector stands in bits `8*i+7 .. 8*i`. -/
abbrev Sector := BitVec 4096

/-- A programme id (section 2.4): a 32-bit number, 0 meaning "no programme". -/
abbrev ProgId := BitVec 32

/-- One half of a programme key (section 2.3): 128 bits. -/
abbrev KeyHalf := BitVec 128

/-- The generation of a key slot (R25): it wraps from 255 to 0. -/
abbrev Generation := BitVec 8

/-- A set of alert causes in the encoding of R175: bit 0 KeyMiss to bit 6 ProfileFault. -/
abbrev AlertSet := BitVec 8

/-- A 256-bit programme key (section 2.3): a data half and a tweak half. -/
structure Key where
  data  : KeyHalf
  tweak : KeyHalf
  deriving DecidableEq, Repr

/-- The 512 zero bytes of a zero-fill sector (section 2.3). -/
abbrev zeroSector : Sector := 0#4096

end Sys2Proof
end

