-- ==== Sys2Proof/Syntax.lean ====
section
/-! DEFINITION. The commands of the CL2460: one constructor of `Instr` for each row of spec/opcode_table.json, with the
operands that the row's event carries. A request row of the Module Line carries no operand of its own: its arguments are
the bytes of the request frame that SEND placed in progress (R165), and the step takes that frame. -/

namespace Sys2Proof

/-- Names one record of the Command Table (R91): the record of a host tag, or the sole record. -/
inductive RecordKey where
  | tag (t : Nat)
  | sole
  deriving DecidableEq, Repr

/-- The two low-power depths of a link (R73). -/
inductive Depth where
  | partialDepth
  | slumber
  deriving DecidableEq, Repr

/-- How the I2C read of the profile memory ended (R172): it was not acknowledged, or it gave these bytes. -/
inductive ProfileRead where
  | noAcknowledge
  | bytes (image : List Byte)
  deriving DecidableEq, Repr

/-- One constructor per row of the command table. A downstream tag is `some t` for a queued command on tag `t` and `none`
for the non-queued command. -/
inductive Instr where
  -- resets, links and start-up
  /-- POWER_ON_RESET (R172). -/
  | powerOnReset
  /-- PROFILE_LOAD_END (R173), with what the I2C read gave. -/
  | profileLoadEnd (r : ProfileRead)
  /-- PROFILE_LOAD_TIMEOUT (R172). -/
  | profileLoadTimeout
  /-- RESET_ASSERTED (R89). -/
  | resetAsserted
  /-- RESET_DEASSERTED (R89). -/
  | resetDeasserted
  /-- LINK_RESET (R88). -/
  | linkReset
  /-- LOCKDOWN (R43): the input is found asserted. -/
  | lockdown
  /-- UPSTREAM_LINK_ESTABLISHED (R73). -/
  | upstreamLinkEstablished
  /-- UPSTREAM_LINK_LOST (R73). -/
  | upstreamLinkLost
  /-- SYSTEM_PORT_READY (R74). -/
  | systemPortReady
  /-- DOWNSTREAM_LINK_UP (R83). -/
  | downstreamLinkUp
  /-- DISK_READY_SIGNATURE (R83), with the signature and status the disk presents. -/
  | diskReadySignature (signature : List Byte)
  /-- DOWNSTREAM_LINK_LOST (R86). -/
  | downstreamLinkLost
  /-- DISK_SELF_RESET (R86). -/
  | diskSelfReset
  -- arrivals of host commands
  /-- READ (R94): a queued read on `tag`; a count field of 0 means 65 536 sectors (R75). -/
  | read (tag lba countField : Nat)
  /-- WRITE (R94): a queued write. -/
  | write (tag lba countField : Nat)
  /-- SOLE_READ (R94): a non-queued read. -/
  | soleRead (lba countField : Nat)
  /-- SOLE_WRITE (R94): a non-queued write. -/
  | soleWrite (lba countField : Nat)
  /-- FLUSH (R79), with the command frame that is forwarded unchanged. -/
  | flush (frame : List Byte)
  /-- IDENTIFY (R78), with the command frame that is forwarded unchanged. -/
  | identify (frame : List Byte)
  /-- PASS_NO_DATA (R79), with the command frame that is forwarded unchanged. -/
  | passNoData (frame : List Byte)
  /-- UNKNOWN_COMMAND (R75): the tag of the frame, or `none` for a non-queued frame. -/
  | unknownCommand (tag : Option Nat)
  -- holds and their releases
  /-- DRAIN_RELEASE (R22). -/
  | drainRelease (k : RecordKey)
  /-- PENDING_DEFINITION_APPLIED (R22), for the entry of this index. -/
  | pendingDefinitionApplied (index : Nat)
  /-- KEYWAIT_RECHECK (R39). -/
  | keywaitRecheck (k : RecordKey)
  /-- KEYWAIT_TIMER_EXPIRY (R38). -/
  | keywaitTimerExpiry (k : RecordKey)
  /-- RINGORDER_RELEASE (R66). -/
  | ringorderRelease (k : RecordKey)
  /-- OVERRUN_RELEASE (R68). -/
  | overrunRelease (k : RecordKey)
  /-- OVERRUN_TIMER_EXPIRY (R69). -/
  | overrunTimerExpiry (k : RecordKey)
  /-- TAGWAIT_GRANT (R82). -/
  | tagwaitGrant
  /-- SOLEWAIT_RELEASE (R100). -/
  | solewaitRelease
  /-- SECOND_PART_ISSUE (R105). -/
  | secondPartIssue (k : RecordKey)
  -- events of the disk
  /-- REQUEST_FOR_WRITE_DATA (R102): the disk asks for `n` sectors of the command on this tag. -/
  | requestForWriteData (tag : Option Nat) (n : Nat)
  /-- DISK_READ_DATA (R118): a data frame whose first sector is the `offset`-th of its downstream command. -/
  | diskReadData (tag : Option Nat) (offset : Nat) (data : List Sector)
  /-- DOWNSTREAM_COMMAND_END (R106): good or not, the disk's error byte and the failing disk LBA it names (R84). -/
  | downstreamCommandEnd (tag : Option Nat) (good : Bool) (error : Byte) (lba : Nat)
  /-- DISK_FAILURE (R84), with the disk's error byte. -/
  | diskFailure (error : Byte)
  /-- KEEP_READ_END (R142). -/
  | keepReadEnd (good : Bool) (error : Byte) (lba : Nat)
  /-- KEEP_WRITE_END (R143). -/
  | keepWriteEnd (good : Bool) (error : Byte) (lba : Nat)
  -- the upstream link
  /-- HOST_WRITE_DATA (R119): a write data sector arrives for this record. -/
  | hostWriteData (k : RecordKey) (data : Sector)
  /-- WRITE_DATA_REQUEST (R119). -/
  | writeDataRequest
  /-- READ_DATA_BURST (R80). -/
  | readDataBurst
  /-- COMPLETION (R109). -/
  | completion
  -- the engine and the keep unit
  /-- GRANT_START (R125). -/
  | grantStart
  /-- GRANT_END (R115). -/
  | grantEnd
  /-- IDLE_GATE_OPEN (R138). -/
  | idleGateOpen
  /-- BUFFER_REQUEST_MET (R120). -/
  | bufferRequestMet
  /-- KEEP_CHUNK_START (R141). -/
  | keepChunkStart
  -- link power
  /-- LOW_POWER_REQUEST (R85). -/
  | lowPowerRequest (d : Depth)
  /-- DOWNSTREAM_LOW_POWER (R85). -/
  | downstreamLowPower
  /-- DISK_LOW_POWER_ANSWER (R85): the disk accepts or declines. -/
  | diskLowPowerAnswer (accepted : Bool)
  /-- DISK_LOW_POWER_REQUEST (R85). -/
  | diskLowPowerRequest (d : Depth)
  /-- HOST_WAKE (R85). -/
  | hostWake
  /-- DISK_WAKE (R85). -/
  | diskWake
  -- the retention clock
  /-- SECOND_COUNTED (R155). -/
  | secondCounted
  /-- MINUTE_TICK (R157). -/
  | minuteTick
  -- the Module Line
  /-- SEND (R165): the bytes that followed the code byte 3Ch. -/
  | send (frame : List Byte)
  /-- FETCH (R166): how many reply bytes the security module clocked after the code byte C3h. -/
  | fetch (clocked : Nat)
  /-- MALFORMED_FRAME (R176): the malformed frame in progress is taken. -/
  | malformedFrame
  /-- UNKNOWN_REQUEST (R165): the frame in progress of an unknown type is taken. -/
  | unknownRequest
  /-- SET_CLOCK (R159). -/
  | setClock
  /-- TRIM_CLOCK (R158). -/
  | trimClock
  /-- LOAD_KEY (R30). -/
  | loadKey
  /-- DROP_KEY (R31). -/
  | dropKey
  /-- SET_DEADLINE (R32). -/
  | setDeadline
  /-- PUT_REGION_NOW (R20). -/
  | putRegionNow
  /-- PUT_REGION_BOUNDARY (R21). -/
  | putRegionBoundary
  /-- FREE_REGION_NOW (R24). -/
  | freeRegionNow
  /-- FREE_REGION_BOUNDARY (R24). -/
  | freeRegionBoundary
  /-- SHAPE_RING (R50). -/
  | shapeRing
  /-- OPEN_RING (R51). -/
  | openRing
  /-- SWITCH_RING (R52). -/
  | switchRing
  /-- CLOSE_RING (R54). -/
  | closeRing
  /-- SUBMIT_KEEP (R136). -/
  | submitKeep
  /-- CANCEL_KEEP (R148). -/
  | cancelKeep
  /-- READ_STATUS_ALERTS (R169). -/
  | readStatusAlerts
  /-- READ_STATUS_CLOCK (R154). -/
  | readStatusClock
  /-- READ_STATUS_KEY_TABLE (R26). -/
  | readStatusKeyTable
  /-- READ_STATUS_REGION (R1). -/
  | readStatusRegion
  /-- READ_STATUS_RING (R46). -/
  | readStatusRing
  /-- READ_STATUS_KEEP_QUEUE (R131). -/
  | readStatusKeepQueue
  /-- READ_STATUS_OUTCOME_LIST (R133). -/
  | readStatusOutcomeList
  /-- READ_STATUS_MISS_LIST (R37). -/
  | readStatusMissList
  /-- READ_STATUS_PROFILE_IN_USE (R173). -/
  | readStatusProfileInUse
  /-- CLEAR_ALERTS (R171). -/
  | clearAlerts
  /-- MASK_ALERTS (R171). -/
  | maskAlerts
  -- the oscillator
  /-- OSCILLATOR_CYCLE (R155). -/
  | oscillatorCycle
  deriving DecidableEq, Repr

end Sys2Proof
end

