-- ==== Sys2Proof/Decode.lean ====
section
/-! DEFINITION. Commands from bits. No row of spec/opcode_table.json gives bits (the part is a block that takes events), so no
word spells a command. What the manual does encode as bits is a transaction on the Module Line: its first byte names it (R163,
R175). -/

namespace Sys2Proof

/-- The command that a word spells by the table's bits: the table gives no row any bits, so none. -/
def decodeTableWord (_nbits _w : Nat) : Option Instr := none

/-- The code byte of a send (R175). -/
abbrev sendCode : Byte := 0x3C#8

/-- The code byte of a fetch (R175). -/
abbrev fetchCode : Byte := 0xC3#8

/-- The command of a whole transaction, from the bytes that the security module shifted in (R163, R175): a send with the frame
that follows the code byte, or a fetch with the number of bytes clocked after it. A transaction whose first byte is neither
code, or that ended before its first byte was complete, is ignored. -/
def decodeTransaction : List Byte → Option Instr
  | [] => none
  | code :: rest =>
      if code = sendCode then some (.send rest)
      else if code = fetchCode then some (.fetch rest.length)
      else none

end Sys2Proof
end

