-- ==== Sys2Proof/Config.lean ====
section
/-! DEFINITION. What is fixed for the machine: the manual's numeric limits, and the two values that the model leaves
uninterpreted (free values: opaque constants with no body, so that no proof can lean on what they are). -/

namespace Sys2Proof.Config

/-- The sector transform of section 2.3 (AES-128 in XTS mode), left uninterpreted: for each key and each tweak some
permutation of the 512-byte sector. Being an `Equiv.Perm`, decryption (its inverse) restores the sector: the properties 1
and 2 of section 2.3. The tweak is the host-view LBA as a 128-bit number. Assumption log entry 1. -/
opaque sectorTransform : Key → BitVec 128 → Equiv.Perm Sector

/-- The error byte of a DiskError completion whose downstream command ended with no report of the disk (R86, R179 say
"the disk's error byte", and there is none): a free value, one for each use. Assumption log entry 2. -/
opaque missingErrorByte : Nat → Byte

/-- The number of LBAs (section 2.2). -/
abbrev lbaSpace : Nat := 2 ^ 48

/-- Region entries (R1). -/
abbrev regionCount : Nat := 64

/-- Key slots (R25). -/
abbrev slotCount : Nat := 16

/-- Time-shift rings (R46). -/
abbrev ringCount : Nat := 4

/-- Downstream tags (R81). -/
abbrev tagCount : Nat := 32

/-- Sector buffers (R117). -/
abbrev bufferCount : Nat := 64

/-- Limit of the HostRead class and of the HostWrite class (R117). -/
abbrev hostClassLimit : Nat := 32

/-- Limit of the Keep class (R117). -/
abbrev keepClassLimit : Nat := 16

/-- Places of the Miss List (R36). -/
abbrev missPlaces : Nat := 4

/-- Epochs of a ring (R46). -/
abbrev epochPlaces : Nat := 4

/-- Runs of a command that is not Fragmented (R12). -/
abbrev runLimit : Nat := 4

/-- Jobs of the Keep Queue (R131). -/
abbrev keepQueuePlaces : Nat := 4

/-- Entries of the Outcome List (R133). -/
abbrev outcomePlaces : Nat := 4

/-- Sectors of a keep chunk (R139), and of one data turn upstream (R80, R119). -/
abbrev burstSectors : Nat := 16

/-- The largest increment of the accumulator plus one second of it (R155): a carry falls at 2^24. -/
abbrev secondUnits : Nat := 2 ^ 24

/-- The saturated minute count (R156). -/
abbrev lastMinute : Nat := 2 ^ 32 - 1

end Sys2Proof.Config
end

