-- ==== Sys2Proof/Machine/State.lean ====
section
/-! DEFINITION. The state of the CL2460, block by block (the owners are those of section 3 of the manual's opening file),
the queue of waiting commands, the log of what the part put on its wires, and the state right after power-on reset. -/

namespace Sys2Proof.Machine

/-! ## Outcomes that stop the machine -/

/-- Reasons to stop with a fault. The manual gives every command an effect in every state, so there is no constructor: no
meaning of this model ends in a fault. -/
inductive Fault where
  deriving DecidableEq, Repr

/-- Reasons to refuse a command. -/
inductive Refusal where
  /-- Raised by an arm of `exec` whose command has no meaning yet (safe: the machine stops). No arm raises it. -/
  | notModelled (mnemonic : String)
  deriving DecidableEq, Repr

/-! ## Region Map (chapter 1) -/

/-- The kind of a definition with the fields that kind carries (R2): `target` absent means identity. -/
inductive DefKind where
  | clear (target : Option Nat)
  | programme (target : Option Nat) (id : ProgId)
  | ring (r : Nat)
  | barred
  | overlay
  deriving DecidableEq, Repr

/-- A region definition (R2). -/
structure Definition where
  kind     : DefKind
  base     : Nat
  /-- k: the definition covers 2^k sectors. -/
  order    : Nat
  readBar  : Bool
  writeBar : Bool
  deriving DecidableEq, Repr

/-- A change staged under Boundary timing (R1): a definition, or a vacate order. -/
inductive Staged where
  | define (d : Definition)
  | vacate
  deriving DecidableEq, Repr

/-- A region entry (R1). It is Active when its active definition is present, Vacant otherwise. -/
structure RegionEntry where
  active   : Option Definition
  staged   : Option Staged
  inFlight : Nat
  deriving DecidableEq, Repr

/-- The Region Map (R1, R23): the 64 entries and the Drain list, oldest first. -/
structure RegionMap where
  entries : Vector RegionEntry 64
  drain   : List RecordKey
  deriving DecidableEq, Repr

/-! ## Key Table (chapter 2) -/

/-- The keep class of a key (R25). -/
inductive KeepClass where
  | keepAllowed
  | keepNever
  deriving DecidableEq, Repr

/-- What a slot holds besides its generation (R25). A key is held while the slot is Live and at no other time. -/
inductive SlotContent where
  | empty
  | live (id : ProgId) (key : Key) (cls : KeepClass) (deadline : Option Nat)
  | expired (id : ProgId) (cls : KeepClass) (deadline : Option Nat)
  deriving DecidableEq, Repr

/-- A key slot (R25). -/
structure Slot where
  content    : SlotContent
  generation : Generation
  deriving DecidableEq, Repr

/-- A captured key (R35): the slot number and the generation it had. -/
structure Capture where
  slot       : Nat
  generation : Generation
  deriving DecidableEq, Repr

/-- The Key Table (R25, R37, R43). `lockdownSeen`: the LOCKDOWN input was found asserted during the profile load. -/
structure KeyTable where
  slots        : Vector Slot 16
  missList     : List ProgId
  lockdown     : Bool
  lockdownSeen : Bool
  deriving DecidableEq, Repr

/-! ## Ring Unit (chapter 3) -/

/-- An epoch (R46). -/
structure Epoch where
  start : Nat
  id    : ProgId
  deriving DecidableEq, Repr

/-- An accepted, unfinished host access on a ring (R63), its virtual range being `[first, first + count)`. The overwritten
range of a write is computed from it and the ring's span (R49). -/
structure Access where
  record : RecordKey
  write  : Bool
  first  : Nat
  count  : Nat
  issued : Bool
  deriving DecidableEq, Repr

/-- A ring descriptor (R46). -/
structure Ring where
  live     : Bool
  /-- PB: disk LBA of the first sector of the span. -/
  base     : Nat
  /-- P: sectors of the span, 0 while unshaped. -/
  span     : Nat
  /-- W: sectors of history the host may read. -/
  trail    : Nat
  /-- C: virtual offset up to which writes have been accepted. -/
  claim    : Nat
  /-- H: virtual offset up to which writes have been issued. -/
  head     : Nat
  /-- F: start of the oldest epoch. -/
  floor    : Nat
  epochs   : List Epoch
  accesses : List Access
  users    : Nat
  deriving DecidableEq, Repr

/-! ## Command Tracker (chapter 5) -/

/-- The kinds of host command (R75). -/
inductive HostKind where
  | read | write | flush | identify | soleRead | soleWrite | passNoData
  deriving DecidableEq, Repr

/-- The reasons a completion can carry (section 4.3, R179). -/
inductive HostReason where
  | unsupported | badTag | notSole | barred | busy | fragmented | discontiguous | shielded | expired | locked | noKey
  | ringIdle | ringStale | ringAhead | ringGap | keyLost
  deriving DecidableEq, Repr

/-- The reason of a key-lost sector (R41). -/
inductive LostReason where
  | expired | keyLost
  deriving DecidableEq, Repr

/-- The outcome of a host command (section 4.3). A DiskError keeps the disk's error byte for the completion (R179) and has
no failing host LBA for Flush, Identify and PassNoData (R78, R79). -/
inductive HostOutcome where
  | good
  | diskError (error : Byte) (lba : Option Nat)
  | refused (r : HostReason)
  | lost (r : LostReason) (lba : Nat)
  deriving DecidableEq, Repr

/-- The kind of a run (R9). -/
inductive RunKind where
  | clear | programme | ring | barred
  deriving DecidableEq, Repr

/-- A run with its captured state (R9). `virt` is the virtual offset of a ring run's first sector, the captured `x - base`
of R10; a ring run with no disk LBA was classified on an Idle ring. -/
structure Run where
  first      : Nat
  count      : Nat
  binding    : Option Nat
  kind       : RunKind
  id         : Option ProgId
  capture    : Option Capture
  disk       : Option Nat
  ring       : Option Nat
  epochStart : Option Nat
  virt       : Option Nat
  split      : Option Nat
  deriving DecidableEq, Repr

/-- A range of disk LBAs. -/
structure DiskRange where
  start : Nat
  count : Nat
  deriving DecidableEq, Repr

/-- The downstream image (R11): one disk range, or two where a wrap falls inside the command. -/
structure Image where
  first  : DiskRange
  second : Option DiskRange
  deriving DecidableEq, Repr

/-- The second-part record of a wrap split (R91, R96). -/
structure Split where
  host  : Nat
  count : Nat
  disk  : Nat
  tag   : Option Nat
  deriving DecidableEq, Repr

/-- The hold timer of a record (R91), with the milliseconds it was started with. Assumption log entry 3. -/
inductive HoldTimer where
  | keyWait (ms : Nat)
  | overrun (ms : Nat)
  deriving DecidableEq, Repr

/-- A write-data request (R91, R102): the host range `[first, first + count)`, of which `invited` sectors have been invited
upstream (R119). -/
structure WriteRequest where
  first   : Nat
  count   : Nat
  invited : Nat
  deriving DecidableEq, Repr

/-- How far one downstream part has come (R91, "parts ended"). An error keeps its failing host LBA and the disk's error
byte. -/
inductive PartStatus where
  | notIssued
  | outstanding
  | good
  | error (lba : Nat) (error : Byte)
  deriving DecidableEq, Repr

/-- The state of an occupied record (R92). -/
inductive RecordState where
  | classify | drain | keyWait | ringOrder | overrun | tagWait | soleWait | issued | due
  deriving DecidableEq, Repr

/-- An occupied record of the Command Table (R91). Besides the fields of R91 it holds what the owners record with the
command: the region indexes it counted (R16), the rings it is counted on (R46), the records whose accesses it waits for in
RingOrder (R66), the sectors invited upstream (R107), whether it is standing (R100) and the command frame as it arrived
(R101). -/
structure Record where
  key        : RecordKey
  kind       : HostKind
  host       : Nat
  count      : Nat
  order      : Nat
  state      : RecordState
  runs       : List Run
  image      : Option Image
  split      : Option Split
  timer      : Option HoldTimer
  awaited    : List ProgId
  downCount  : Nat
  upCount    : Nat
  invited    : Nat
  request    : Option WriteRequest
  part1      : PartStatus
  part2      : PartStatus
  firstLost  : Option (Nat × LostReason)
  outcome    : Option HostOutcome
  counted    : List Nat
  rings      : List Nat
  waitsFor   : List RecordKey
  standing   : Bool
  frame      : List Byte
  deriving DecidableEq, Repr

/-- The Command Tracker: the occupied records in acceptance order, the next acceptance number, and the records in each hold
in the order in which they entered it (R39, R66, R68, R82). -/
structure Tracker where
  records   : List Record
  nextOrder : Nat
  keyWait   : List RecordKey
  ringOrder : List RecordKey
  overrun   : List RecordKey
  tagWait   : List RecordKey
  deriving DecidableEq, Repr

/-! ## The ports (chapter 4) -/

/-- The link state of the System Port (R73). -/
inductive SysLink where
  | down | notReady | ready
  | asleep (d : Depth)
  deriving DecidableEq, Repr

/-- A completion waiting for its turn upstream (R80): that of a Due record, or of a command refused at arrival, which has
no record (R76). -/
inductive DueItem where
  | record (k : RecordKey)
  | arrival (tag : Option Nat) (r : HostReason)
  deriving DecidableEq, Repr

/-- The System Port (R73, R80, R90). `lastServed` is the acceptance number of the command served last in a data turn. -/
structure SystemPort where
  link       : SysLink
  loading    : Bool
  sendOrder  : List DueItem
  lastServed : Option Nat
  deriving DecidableEq, Repr

/-- The link state of the Drive Port (R83). -/
inductive DriveLink where
  | down | starting | ready
  | asleep (d : Depth)
  deriving DecidableEq, Repr

/-- The user of a downstream tag (R81): a host command's first part, its second part, or the keep chunk. -/
inductive TagUser where
  | hostFirst (k : RecordKey)
  | hostSecond (k : RecordKey)
  | keep
  deriving DecidableEq, Repr

/-- What a downstream command does (R101, R141). -/
inductive DownOp where
  | read | write | identify | noData
  deriving DecidableEq, Repr

/-- A downstream command, waiting in the issue order or outstanding at the disk (R83, R84). `passed` counts its sectors
whose data has passed the Drive Port, `asked` those the disk has asked for. `broken` marks a command that has failed under
R84, `discarding` a keep read whose data is discarded (R146, R147). -/
structure DownCmd where
  tag        : Option Nat
  user       : TagUser
  op         : DownOp
  disk       : Nat
  count      : Nat
  host       : Nat
  frame      : List Byte
  passed     : Nat
  asked      : Nat
  broken     : Bool
  discarding : Bool
  deriving DecidableEq, Repr

/-- A frame from the disk. It waits in the Drive Port while a data frame before it is held by flow control (R118). -/
inductive DiskFrame where
  | data (tag : Option Nat) (offset : Nat) (sectors : List Sector)
  | writeRequest (tag : Option Nat) (n : Nat)
  | commandEnd (tag : Option Nat) (good : Bool) (error : Byte) (lba : Nat)
  | failure (error : Byte)
  deriving DecidableEq, Repr

/-- The Drive Port's low-power request to the disk (R85): none made, awaiting its answer, or declined. -/
inductive LowPower where
  | idle
  | asked (d : Depth)
  | declined
  deriving DecidableEq, Repr

/-- A write data frame being sent to the disk (R122): its downstream tag and the sectors still to follow. -/
structure Sending where
  tag  : Option Nat
  left : Nat
  deriving DecidableEq, Repr

/-- The Drive Port (R81, R83). -/
structure DrivePort where
  link        : DriveLink
  signature   : List Byte
  tags        : Vector (Option TagUser) 32
  issueOrder  : List DownCmd
  outstanding : List DownCmd
  inbox       : List DiskFrame
  sending     : Option Sending
  lowPower    : LowPower
  deriving DecidableEq, Repr

/-! ## Transform Engine and Sector Pool (chapter 6) -/

/-- The class of a buffer in use (R117). -/
inductive BufClass where
  | hostRead | hostWrite | keep
  deriving DecidableEq, Repr

/-- The state of a buffer (R117). -/
inductive BufState where
  | free | setAside | taken | queued | done
  deriving DecidableEq, Repr

/-- The owner of a buffer (R117). `ended`: the owner ended while the buffer's sector was in a grant (R129). -/
inductive Owner where
  | none
  | record (k : RecordKey)
  | keep
  | ended
  deriving DecidableEq, Repr

/-- The treatment of a buffer's sector (R117). -/
inductive Treatment where
  | protect | clear | zeroSource
  deriving DecidableEq, Repr

/-- A sector buffer (R117). A keep buffer also carries its source tweak and source pair (R142). `discard`: the sector was
invited for a withdrawn exchange (R119). -/
structure Buffer where
  state     : BufState
  cls       : Option BufClass
  owner     : Owner
  lba       : Nat
  treatment : Treatment
  data      : Sector
  srcTweak  : Nat
  srcPair   : Option Capture
  discard   : Bool
  deriving DecidableEq, Repr

/-- What becomes of a grant's result when the grant ends: placed in the buffer (R115), discarded and the buffer released
(R129), or discarded and the buffer queued again as zero source (R123). -/
inductive GrantFate where
  | place | discard | requeue
  deriving DecidableEq, Repr

/-- The grant in progress (R115): its buffer (absent after a line reset, R130), the result, the result's fate, and the reason
for which the check at its start found a host sector key-lost (R116), which the record takes when the result is placed. -/
structure Grant where
  buffer : Option Nat
  result : Sector
  fate   : GrantFate
  lost   : Option LostReason
  deriving DecidableEq, Repr

/-- The host side granted most recently (R124). -/
inductive Side where
  | read | writeSide
  deriving DecidableEq, Repr

/-- The Transform Engine (R115, R117, R123, R124). The engine is busy while a grant is in progress. -/
structure Engine where
  pool       : Vector Buffer 64
  readQ      : List Nat
  writeQ     : List Nat
  keepQ      : List Nat
  grant      : Option Grant
  readStreak : Nat
  keepStreak : Nat
  lastSide   : Side
  deriving DecidableEq, Repr

/-! ## Keep Unit (chapter 7) -/

/-- The error policy of a keep job (R131). -/
inductive ErrorPolicy where
  | halt | skip
  deriving DecidableEq, Repr

/-- The phase of a job's chunk (R131). -/
inductive Phase where
  | idle | reading | transforming | writing
  deriving DecidableEq, Repr

/-- The reason of a Failed job (R133). -/
inductive FailReason where
  | diskError | keyLost | expired | keepRule | mismatch | ringStopped | lockdown
  deriving DecidableEq, Repr

/-- The outcome of a keep job (R133). -/
inductive JobOutcome where
  | finished
  | truncated
  | failed (r : FailReason)
  | cancelled
  deriving DecidableEq, Repr

/-- A destination extent (R131). -/
structure Extent where
  host  : Nat
  count : Nat
  disk  : Nat
  deriving DecidableEq, Repr

/-- A keep job (R131). `upto` is its end b and `acceptedUpto` the end set at acceptance, which R143 compares with it. The
job at the head of the Keep Queue is Active, the others are Queued. -/
structure Job where
  id           : Nat
  ring         : Nat
  sourceBase   : Nat
  start        : Nat
  upto         : Nat
  acceptedUpto : Nat
  cursor       : Nat
  segments     : List Epoch
  extents      : List Extent
  destination  : ProgId
  policy       : ErrorPolicy
  skipped      : Nat
  phase        : Phase
  stopOutcome  : Option JobOutcome
  deriving DecidableEq, Repr

/-- An entry of the Outcome List (R133). -/
structure OutcomeEntry where
  id      : Nat
  ring    : Nat
  outcome : JobOutcome
  cursor  : Nat
  skipped : Nat
  deriving DecidableEq, Repr

/-- The Keep Unit's buffer request (R120): outstanding until met. -/
structure KeepRequest where
  count : Nat
  met   : Bool
  deriving DecidableEq, Repr

/-- The keep chunk in flight (R139 to R145): its length, its part tag, the captured pairs of its source segments and of its
destination, the region indexes it counted (R17), whether its source read has ended and whether it is zero source. -/
structure Chunk where
  count      : Nat
  tag        : Nat
  sources    : List (Nat × Capture)
  target     : Capture
  counted    : List Nat
  readEnded  : Bool
  zeroSource : Bool
  deriving DecidableEq, Repr

/-- The Keep Unit (R131 to R138). `gateOpen` is the idle gate as the arrivals and its count leave it; the profile's g = 8
opens it at all times. -/
structure KeepUnit where
  queue    : List Job
  outcomes : List OutcomeEntry
  nextId   : Nat
  gateOpen : Bool
  request  : Option KeepRequest
  chunk    : Option Chunk
  deriving DecidableEq, Repr

/-! ## Retention Clock (chapter 8) -/

/-- The Retention Clock (R154). -/
structure Clock where
  set         : Bool
  accumulator : Nat
  increment   : Nat
  seconds     : Nat
  minute      : Nat
  deriving DecidableEq, Repr

/-! ## Module Line (chapter 9) -/

/-- The line state (R164). -/
inductive LineState where
  | loading | idle | working
  deriving DecidableEq, Repr

/-- The refusal reasons of the Module Line (R168). -/
inductive LineReason where
  | badArgument | duplicate | full | notFound | clockUnset | clockBackward | expired | ringLive | ringIdle | ringTaken
  | notMapped | ringStale | keepRule | mismatch | overlap | busy | locked | unknown
  deriving DecidableEq, Repr

/-- The status of a reply (R168). -/
inductive ReplyStatus where
  | finished
  | staged
  | waiting
  | refused (r : LineReason)
  deriving DecidableEq, Repr

/-- A reply frame (R175). -/
structure Reply where
  status   : ReplyStatus
  sequence : Byte
  body     : List Byte
  deriving DecidableEq, Repr

/-- The unmapped policy (R7). -/
inductive UnmappedPolicy where
  | pass | bar
  deriving DecidableEq, Repr

/-- The policy of the Engine Arbiter (R124). -/
inductive ArbiterPolicy where
  | fixed | alternate
  deriving DecidableEq, Repr

/-- How the profile load ended (R172). -/
inductive LoadResult where
  | good | absent | faulty
  deriving DecidableEq, Repr

/-- The profile in use (R164, R173): the values in force, which every block reads here, the default marks in the bits of
section 10.3, and the load result. -/
structure Profile where
  /-- R: the count of part tags. -/
  partTags  : Nat
  unmapped  : UnmappedPolicy
  arbiter   : ArbiterPolicy
  /-- M: the hold limit. -/
  holdLimit : Nat
  keyWaitMs : Nat
  overrunMs : Nat
  /-- g: the idle gate choice. -/
  gate      : Nat
  increment : Nat
  alertMask : AlertSet
  marks     : BitVec 16
  result    : LoadResult
  deriving DecidableEq, Repr

/-- The Module Line (R164, R170). A request in progress is kept as the bytes that followed the code byte. -/
structure Line where
  state   : LineState
  request : Option (List Byte)
  reply   : Option Reply
  latched : AlertSet
  enabled : AlertSet
  profile : Profile
  deriving DecidableEq, Repr

/-! ## The wires -/

/-- What the part sends or signals on the upstream link. -/
inductive UpItem where
  /-- A completion in the fields of R179. -/
  | completion (tag : Option Nat) (status error : Byte) (lba count : Nat)
  /-- A burst of read data (R80). -/
  | readData (tag : Option Nat) (lba : Nat) (sectors : List Sector)
  /-- An invitation to send write data (R119). -/
  | invitation (tag : Option Nat) (lba count : Nat)
  /-- The disk's signature, passed on (R74). -/
  | signature (bytes : List Byte)
  /-- A command frame rejected with the link's receive-refusal handshake (R74). -/
  | frameRejected
  /-- The answer to a low-power request (R85). -/
  | lowPowerAnswer (accepted : Bool)
  /-- The System Port wakes the link (R85). -/
  | wake
  deriving DecidableEq, Repr

/-- What the part sends or signals on the downstream link. -/
inductive DownItem where
  /-- A command frame (R101). -/
  | command (tag : Option Nat) (op : DownOp) (disk count : Nat) (frame : List Byte)
  /-- One sector of write data, for this disk LBA (R122). -/
  | writeData (tag : Option Nat) (disk : Nat) (sector : Sector)
  /-- A link reset (R88). -/
  | linkReset
  /-- A low-power request (R85). -/
  | lowPowerRequest (d : Depth)
  /-- The refusal of a low-power request of the disk (R85). -/
  | lowPowerDeclined
  /-- The Drive Port wakes the link (R85). -/
  | wake
  deriving DecidableEq, Repr

/-- The model's own log of what the part put on each wire, oldest first. No rule reads it. Assumption log entry 4. -/
structure Wires where
  up   : List UpItem
  down : List DownItem
  spi  : List (List Byte)
  deriving DecidableEq, Repr

/-! ## The whole part -/

/-- The state of the part, the free-value counter and the wire log (the model's own), and the queue of commands that wait,
first in, first out. -/
structure State where
  regions       : RegionMap
  keys          : KeyTable
  rings         : Vector Ring 4
  tracker       : Tracker
  sys           : SystemPort
  drive         : DrivePort
  engine        : Engine
  keep          : KeepUnit
  clock         : Clock
  line          : Line
  /-- The RESET input has been found asserted and not yet deasserted (R89). -/
  resetAsserted : Bool
  wires         : Wires
  /-- Counts the free values used so far (`Config.missingErrorByte`). -/
  fresh         : Nat
  pending       : List Instr
  deriving DecidableEq, Repr

/-! ## Power-on reset -/

/-- A Vacant entry (R3). -/
def RegionEntry.vacant : RegionEntry := { active := none, staged := none, inFlight := 0 }

/-- An Idle, unshaped ring (R72). -/
def Ring.unshaped : Ring :=
  { live := false, base := 0, span := 0, trail := 0, claim := 0, head := 0, floor := 0, epochs := [], accesses := [], users := 0 }

/-- A Free buffer, its fields cleared (R121). -/
def Buffer.empty : Buffer :=
  { state := .free, cls := none, owner := .none, lba := 0, treatment := .clear, data := zeroSector, srcTweak := 0,
    srcPair := none, discard := false }

/-- The profile values after an Absent or Faulty load (R173): every field at its fault default, every default mark set. -/
def Profile.faultDefaults (result : LoadResult) : Profile :=
  { partTags := 4, unmapped := .pass, arbiter := .alternate, holdLimit := 32, keyWaitMs := 200, overrunMs := 400, gate := 4,
    increment := 512, alertMask := 0x7F#8, marks := 0x1FF#16, result := result }

/-- The state right after power-on reset (R3, R45, R72, R90, R93, R130, R153, R162, R174), the profile load just begun.
Until the load ends, the profile in use and the increment hold what an Absent load gives: DESIGN CHOICE, assumption log
entry 5. -/
def State.reset : State where
  regions       := { entries := Vector.replicate 64 RegionEntry.vacant, drain := [] }
  keys          := { slots := Vector.replicate 16 { content := .empty, generation := 0#8 }, missList := [],
                     lockdown := false, lockdownSeen := false }
  rings         := Vector.replicate 4 Ring.unshaped
  tracker       := { records := [], nextOrder := 0, keyWait := [], ringOrder := [], overrun := [], tagWait := [] }
  sys           := { link := .down, loading := true, sendOrder := [], lastServed := none }
  drive         := { link := .down, signature := [], tags := Vector.replicate 32 none, issueOrder := [], outstanding := [],
                     inbox := [], sending := none, lowPower := .idle }
  engine        := { pool := Vector.replicate 64 Buffer.empty, readQ := [], writeQ := [], keepQ := [], grant := none,
                     readStreak := 0, keepStreak := 0, lastSide := .writeSide }
  keep          := { queue := [], outcomes := [], nextId := 1, gateOpen := true, request := none, chunk := none }
  clock         := { set := false, accumulator := 0, increment := 512, seconds := 0, minute := 0 }
  line          := { state := .loading, request := none, reply := none, latched := 0#8, enabled := 0#8,
                     profile := Profile.faultDefaults .absent }
  resetAsserted := false
  wires         := { up := [], down := [], spi := [] }
  fresh         := 0
  pending       := []

end Sys2Proof.Machine
end

