-- ==== Sys2Proof/Machine/Flags.lean ====
section
/-! DEFINITION. The alert causes and the ALERT output (R170), and the code tables of chapter 10: reply status and refusal
reasons (R175), completion fields and reasons (R179), and the small codes of the status records. -/

namespace Sys2Proof.Machine

/-! ## Alerts -/

/-- The seven alert causes (R170). -/
inductive Cause where
  | keyMiss | keyExpiry | keepEnded | epochCut | lockdown | lineOverlap | profileFault
  deriving DecidableEq, Repr

/-- The bit of a cause in an alert set (R175). -/
def Cause.mask : Cause → AlertSet
  | .keyMiss => 0x01#8
  | .keyExpiry => 0x02#8
  | .keepEnded => 0x04#8
  | .epochCut => 0x08#8
  | .lockdown => 0x10#8
  | .lineOverlap => 0x20#8
  | .profileFault => 0x40#8

/-- A set names something other than the seven causes when bit 7 is set (R175). -/
def AlertSet.beyond (set : AlertSet) : Bool := set &&& 0x80#8 != 0#8

/-- Latches a cause, whether or not it is enabled (R170). -/
def latch (c : Cause) (s : State) : State :=
  { s with line := { s.line with latched := s.line.latched ||| c.mask } }

/-- Latches a cause when the condition holds. -/
def latchIf (b : Bool) (c : Cause) (s : State) : State := bif b then latch c s else s

/-- The level of the ALERT output (R170): high while a latched cause is enabled. -/
def State.alert (s : State) : Bool := s.line.latched &&& s.line.enabled != 0#8

/-! ## Reply codes (R175) -/

/-- Refusal reason codes (R175). -/
def LineReason.code : LineReason → Byte
  | .badArgument => 0x01#8
  | .duplicate => 0x02#8
  | .full => 0x03#8
  | .notFound => 0x04#8
  | .clockUnset => 0x05#8
  | .clockBackward => 0x06#8
  | .expired => 0x07#8
  | .ringLive => 0x08#8
  | .ringIdle => 0x09#8
  | .ringTaken => 0x0A#8
  | .notMapped => 0x0B#8
  | .ringStale => 0x0C#8
  | .keepRule => 0x0D#8
  | .mismatch => 0x0E#8
  | .overlap => 0x0F#8
  | .busy => 0x10#8
  | .locked => 0x11#8
  | .unknown => 0x12#8

/-- The status byte of a reply (R175). -/
def ReplyStatus.code : ReplyStatus → Byte
  | .finished => 0x00#8
  | .staged => 0x01#8
  | .waiting => 0x02#8
  | .refused r => 0x80#8 + r.code

/-! ## Completion codes (R179) -/

/-- Completion reason codes (R179). -/
def HostReason.code : HostReason → Nat
  | .unsupported => 0x01
  | .badTag => 0x02
  | .notSole => 0x03
  | .barred => 0x04
  | .busy => 0x05
  | .fragmented => 0x06
  | .discontiguous => 0x07
  | .shielded => 0x08
  | .expired => 0x09
  | .locked => 0x0A
  | .noKey => 0x0B
  | .ringIdle => 0x0C
  | .ringStale => 0x0D
  | .ringAhead => 0x0E
  | .ringGap => 0x0F
  | .keyLost => 0x10

/-- The reason a Lost completion carries. -/
def LostReason.reason : LostReason → HostReason
  | .expired => .expired
  | .keyLost => .keyLost

/-- The completion of an outcome in the fields of R179. -/
def HostOutcome.report (tag : Option Nat) : HostOutcome → UpItem
  | .good => .completion tag 0x50#8 0x00#8 0 0
  | .diskError e lba => .completion tag 0x51#8 e (lba.getD 0) 0
  | .refused r => .completion tag 0x51#8 0x04#8 0 r.code
  | .lost r lba => .completion tag 0x51#8 0x04#8 lba (0x100 + r.reason.code)

/-! ## Codes of the status records (section 10.3) -/

/-- The code of a keep class (section 10.3). -/
def KeepClass.code : KeepClass → Byte
  | .keepAllowed => 0x00#8
  | .keepNever => 0x01#8

/-- The code of an error policy (section 10.3). -/
def ErrorPolicy.code : ErrorPolicy → Byte
  | .halt => 0x00#8
  | .skip => 0x01#8

/-- The code of a chunk phase (section 10.3). -/
def Phase.code : Phase → Byte
  | .idle => 0x00#8
  | .reading => 0x01#8
  | .transforming => 0x02#8
  | .writing => 0x03#8

/-- The reason code of a Failed job (section 10.3). -/
def FailReason.code : FailReason → Nat
  | .diskError => 1
  | .keyLost => 2
  | .expired => 3
  | .keepRule => 4
  | .mismatch => 5
  | .ringStopped => 6
  | .lockdown => 7

/-- The outcome byte of an Outcome List entry (section 10.3). -/
def JobOutcome.code : JobOutcome → Byte
  | .finished => 0x00#8
  | .truncated => 0x01#8
  | .failed _ => 0x02#8
  | .cancelled => 0x03#8

/-- The reason byte of an Outcome List entry: 0 when not Failed (section 10.3). -/
def JobOutcome.reasonCode : JobOutcome → Nat
  | .failed r => r.code
  | _ => 0

/-- The stop outcome code of a keep job record (section 10.3): 0 for none, 8 plus the reason for Failed. A job is never
given the stop outcome Done, whose code the table leaves out. -/
def stopCode : Option JobOutcome → Nat
  | none => 0
  | some .finished => 0
  | some .truncated => 2
  | some .cancelled => 4
  | some (.failed r) => 8 + r.code

/-- The load result code (section 10.3). -/
def LoadResult.code : LoadResult → Byte
  | .good => 0x00#8
  | .absent => 0x01#8
  | .faulty => 0x02#8

end Sys2Proof.Machine
end

