-- ==== Sys2Proof/Machine/Operands.lean ====
section
/-! DEFINITION. The byte layouts of chapter 10 as the part reads them: little-endian fields, the shape of a request frame
(R176), the request bodies (Table 10-2, R177), the profile image (Table 10-4, R172, R173); and the encoders of requests and
replies. -/

namespace Sys2Proof.Machine

/-! ## Little-endian fields -/

/-- The value of little-endian bytes. -/
def leNat : List Byte → Nat
  | [] => 0
  | b :: bs => b.toNat + 256 * leNat bs

/-- A value in `n` little-endian bytes. -/
def leBytes : Nat → Nat → List Byte
  | 0, _ => []
  | n + 1, v => BitVec.ofNat 8 v :: leBytes n (v / 256)

/-- The bytes at an offset. -/
def bytesAt (body : List Byte) (off size : Nat) : List Byte := (body.drop off).take size

/-- The field of `size` bytes at an offset. -/
def fieldAt (body : List Byte) (off size : Nat) : Nat := leNat (bytesAt body off size)

/-- The byte at an offset, 0 past the end. -/
def byteAt (body : List Byte) (off : Nat) : Byte := body.getD off 0#8

/-- A flag of a byte. -/
def flagAt (body : List Byte) (off bit : Nat) : Bool := (byteAt body off).getLsbD bit

/-- The byte holds no bit but those of the mask. -/
def onlyBits (b mask : Byte) : Bool := b &&& ~~~mask == 0#8

/-- One flag as a byte. -/
def flagByte (b : Bool) : Byte := bif b then 0x01#8 else 0x00#8

/-! ## Request frames -/

/-- A definition as a PUT REGION body carries it (section 10.2), before the checks of R18. -/
structure RawDefinition where
  kind     : Byte
  order    : Nat
  readBar  : Bool
  writeBar : Bool
  hasTarget : Bool
  ring     : Nat
  base     : Nat
  target   : Nat
  id       : ProgId
  deriving DecidableEq, Repr

/-- A request of section 9.2 with its arguments (Table 10-2). -/
inductive Request where
  | setClock (minute : Nat)
  | trimClock (increment : Nat)
  | loadKey (id : ProgId) (key : Key) (cls : Byte) (deadline : Option Nat)
  | dropKey (id : ProgId)
  | setDeadline (id : ProgId) (deadline : Option Nat)
  | putRegion (index : Nat) (boundary : Bool) (d : RawDefinition)
  | freeRegion (index : Nat) (boundary : Bool)
  | shapeRing (ring base span trail : Nat)
  | openRing (ring : Nat) (id : ProgId)
  | switchRing (ring : Nat) (id : ProgId)
  | closeRing (ring : Nat)
  | submitKeep (ring : Nat) (policy : ErrorPolicy) (start length : Nat) (extents : List (Nat × Nat))
  | cancelKeep (id : Nat)
  | readStatus (selector index : Nat)
  | clearAlerts (set : AlertSet)
  | maskAlerts (set : AlertSet)
  deriving DecidableEq, Repr

/-- What the Module Line makes of a frame in progress (R165, R176, R177). -/
inductive Taken where
  | malformed
  | unknownType
  | mismatched
  | request (r : Request)
  deriving DecidableEq, Repr

/-- The frame is malformed (R176). -/
def frameMalformed (f : List Byte) : Bool :=
  decide (f.length < 3) || decide (48 < (byteAt f 2).toNat) || decide (f.length ≠ 3 + (byteAt f 2).toNat)

/-- The type byte of a request frame (R175). -/
def frameType (f : List Byte) : Nat := (byteAt f 0).toNat

/-- The sequence byte a reply echoes (R165): 0 where fewer than 2 bytes followed the code byte (R176). -/
def frameSequence (f : List Byte) : Byte := byteAt f 1

/-- The body of a request frame (R175). -/
def frameBody (f : List Byte) : List Byte := f.drop 3

/-- The type byte names a request of Table 10-2. -/
def knownType (t : Nat) : Bool := decide (1 ≤ t) && decide (t ≤ 16)

/-- The body length that Table 10-2 gives a type; SUBMIT KEEP's follows its count byte. -/
def bodyLength (t : Nat) (body : List Byte) : Nat :=
  match t with
  | 1 => 4
  | 2 => 2
  | 3 => 42
  | 4 => 4
  | 5 => 9
  | 6 => 26
  | 7 => 2
  | 8 => 25
  | 9 => 5
  | 10 => 5
  | 11 => 1
  | 12 => 12 + 9 * (byteAt body 1).toNat
  | 13 => 1
  | 14 => 2
  | 15 => 1
  | _ => 1

/-- The flag, ring and timing bytes of a body hold only what their layouts name (R177). -/
def bodyFlagsFit (t : Nat) (body : List Byte) : Bool :=
  match t with
  | 3 => onlyBits (byteAt body 37) 0x01#8
  | 5 => onlyBits (byteAt body 4) 0x01#8
  | 6 => onlyBits (byteAt body 1) 0x01#8 && onlyBits (byteAt body 4) 0x07#8
  | 7 => onlyBits (byteAt body 1) 0x01#8
  | 12 => onlyBits (byteAt body 0) 0x13#8 && decide (1 ≤ (byteAt body 1).toNat) && decide ((byteAt body 1).toNat ≤ 4)
  | _ => true

/-- The body fits Table 10-2 (R177). -/
def bodyFits (t : Nat) (body : List Byte) : Bool :=
  decide (body.length = bodyLength t body) && bodyFlagsFit t body

/-- A programme id at an offset. -/
def idAt (body : List Byte) (off : Nat) : ProgId := BitVec.ofNat 32 (fieldAt body off 4)

/-- A deadline field that is present when bit 0 of its flag byte is set. -/
def deadlineAt (body : List Byte) (flagOff off : Nat) : Option Nat :=
  bif flagAt body flagOff 0 then some (fieldAt body off 4) else none

/-- The definition of a PUT REGION body (section 10.2). -/
def rawDefinitionAt (body : List Byte) (off : Nat) : RawDefinition :=
  { kind := byteAt body off
    order := (byteAt body (off + 1)).toNat
    readBar := flagAt body (off + 2) 0
    writeBar := flagAt body (off + 2) 1
    hasTarget := flagAt body (off + 2) 2
    ring := (byteAt body (off + 3)).toNat
    base := fieldAt body (off + 4) 8
    target := fieldAt body (off + 12) 8
    id := idAt body (off + 20) }

/-- `n` extents of a SUBMIT KEEP body: host LBA in 6 bytes, length minus 1 in 3 bytes. -/
def extentsAt (body : List Byte) (off : Nat) : Nat → List (Nat × Nat)
  | 0 => []
  | n + 1 => (fieldAt body off 6, fieldAt body (off + 6) 3 + 1) :: extentsAt body (off + 9) n

/-- The request that a body of a known type carries (Table 10-2). -/
def decodeBody (t : Nat) (body : List Byte) : Request :=
  match t with
  | 1 => .setClock (fieldAt body 0 4)
  | 2 => .trimClock (fieldAt body 0 2)
  | 3 => .loadKey (idAt body 0)
      { data := BitVec.ofNat 128 (fieldAt body 4 16), tweak := BitVec.ofNat 128 (fieldAt body 20 16) }
      (byteAt body 36) (deadlineAt body 37 38)
  | 4 => .dropKey (idAt body 0)
  | 5 => .setDeadline (idAt body 0) (deadlineAt body 4 5)
  | 6 => .putRegion (byteAt body 0).toNat (flagAt body 1 0) (rawDefinitionAt body 2)
  | 7 => .freeRegion (byteAt body 0).toNat (flagAt body 1 0)
  | 8 => .shapeRing (byteAt body 0).toNat (fieldAt body 1 8) (fieldAt body 9 8) (fieldAt body 17 8)
  | 9 => .openRing (byteAt body 0).toNat (idAt body 1)
  | 10 => .switchRing (byteAt body 0).toNat (idAt body 1)
  | 11 => .closeRing (byteAt body 0).toNat
  | 12 => .submitKeep ((byteAt body 0).toNat % 4) (bif flagAt body 0 4 then .skip else .halt) (fieldAt body 2 6)
      (fieldAt body 8 4) (extentsAt body 12 (byteAt body 1).toNat)
  | 13 => .cancelKeep (byteAt body 0).toNat
  | 14 => .readStatus (byteAt body 0).toNat (byteAt body 1).toNat
  | 15 => .clearAlerts (byteAt body 0)
  | _ => .maskAlerts (byteAt body 0)

/-- What a frame in progress is: its shape is checked first (R176), then its type (R165), then its body (R177). -/
def decodeFrame (f : List Byte) : Taken :=
  if frameMalformed f then .malformed
  else if !knownType (frameType f) then .unknownType
  else if !bodyFits (frameType f) (frameBody f) then .mismatched
  else .request (decodeBody (frameType f) (frameBody f))

/-! ## The rows of the request steps -/

/-- The step that takes a frame in progress: one for each request row of the command table. -/
inductive RequestRow where
  | malformedFrame | unknownRequest | setClock | trimClock | loadKey | dropKey | setDeadline | putRegionNow
  | putRegionBoundary | freeRegionNow | freeRegionBoundary | shapeRing | openRing | switchRing | closeRing | submitKeep
  | cancelKeep | readStatusAlerts | readStatusClock | readStatusKeyTable | readStatusRegion | readStatusRing
  | readStatusKeepQueue | readStatusOutcomeList | readStatusMissList | readStatusProfileInUse | clearAlerts | maskAlerts
  deriving DecidableEq, Repr

/-- The row of READ STATUS for a selector byte; a selector outside the table is answered by the first row. DESIGN CHOICE,
assumption log entry 6. -/
def statusRow : Nat → RequestRow
  | 1 => .readStatusClock
  | 2 => .readStatusKeyTable
  | 3 => .readStatusRegion
  | 4 => .readStatusRing
  | 5 => .readStatusKeepQueue
  | 6 => .readStatusOutcomeList
  | 7 => .readStatusMissList
  | 8 => .readStatusProfileInUse
  | _ => .readStatusAlerts

/-- The row that takes a well-formed frame of a known type. A body that does not fit is answered by the row its bytes point
to, an odd timing byte by the Now row unless its bit 0 is set (assumption log entry 6). -/
def rowOfType (t : Nat) (body : List Byte) : RequestRow :=
  match t with
  | 1 => .setClock
  | 2 => .trimClock
  | 3 => .loadKey
  | 4 => .dropKey
  | 5 => .setDeadline
  | 6 => bif flagAt body 1 0 then .putRegionBoundary else .putRegionNow
  | 7 => bif flagAt body 1 0 then .freeRegionBoundary else .freeRegionNow
  | 8 => .shapeRing
  | 9 => .openRing
  | 10 => .switchRing
  | 11 => .closeRing
  | 12 => .submitKeep
  | 13 => .cancelKeep
  | 14 => statusRow (byteAt body 0).toNat
  | 15 => .clearAlerts
  | 16 => .maskAlerts
  | _ => .unknownRequest

/-- The row that takes a frame in progress. -/
def rowOf (f : List Byte) : RequestRow :=
  bif frameMalformed f then .malformedFrame else rowOfType (frameType f) (frameBody f)

/-! ## Encoders -/

/-- The type byte of a request (Table 10-2). -/
def Request.type : Request → Byte
  | .setClock _ => 0x01#8
  | .trimClock _ => 0x02#8
  | .loadKey _ _ _ _ => 0x03#8
  | .dropKey _ => 0x04#8
  | .setDeadline _ _ => 0x05#8
  | .putRegion _ _ _ => 0x06#8
  | .freeRegion _ _ => 0x07#8
  | .shapeRing _ _ _ _ => 0x08#8
  | .openRing _ _ => 0x09#8
  | .switchRing _ _ => 0x0A#8
  | .closeRing _ => 0x0B#8
  | .submitKeep _ _ _ _ _ => 0x0C#8
  | .cancelKeep _ => 0x0D#8
  | .readStatus _ _ => 0x0E#8
  | .clearAlerts _ => 0x0F#8
  | .maskAlerts _ => 0x10#8

/-- A deadline as a flag byte and 4 bytes. -/
def deadlineBytes (d : Option Nat) : List Byte := flagByte d.isSome :: leBytes 4 (d.getD 0)

/-- The flags byte of a definition: bit 0 ReadBar, bit 1 WriteBar, bit 2 target present (section 10.2). -/
def definitionFlags (readBar writeBar target : Bool) : Byte :=
  BitVec.ofNat 8 (readBar.toNat + 2 * writeBar.toNat + 4 * target.toNat)

/-- A definition in its 24 bytes (section 10.2). -/
def RawDefinition.encode (d : RawDefinition) : List Byte :=
  [d.kind, BitVec.ofNat 8 d.order, definitionFlags d.readBar d.writeBar d.hasTarget, BitVec.ofNat 8 d.ring]
    ++ leBytes 8 d.base ++ leBytes 8 d.target ++ leBytes 4 d.id.toNat

/-- The extents of a SUBMIT KEEP body. -/
def extentBytes : List (Nat × Nat) → List Byte
  | [] => []
  | (lba, n) :: rest => leBytes 6 lba ++ leBytes 3 (n - 1) ++ extentBytes rest

/-- The body of a request (Table 10-2). -/
def Request.body : Request → List Byte
  | .setClock m => leBytes 4 m
  | .trimClock i => leBytes 2 i
  | .loadKey id key cls d =>
      leBytes 4 id.toNat ++ leBytes 16 key.data.toNat ++ leBytes 16 key.tweak.toNat ++ [cls] ++ deadlineBytes d
  | .dropKey id => leBytes 4 id.toNat
  | .setDeadline id d => leBytes 4 id.toNat ++ deadlineBytes d
  | .putRegion i b d => [BitVec.ofNat 8 i, flagByte b] ++ d.encode
  | .freeRegion i b => [BitVec.ofNat 8 i, flagByte b]
  | .shapeRing r pb p w => [BitVec.ofNat 8 r] ++ leBytes 8 pb ++ leBytes 8 p ++ leBytes 8 w
  | .openRing r id => [BitVec.ofNat 8 r] ++ leBytes 4 id.toNat
  | .switchRing r id => [BitVec.ofNat 8 r] ++ leBytes 4 id.toNat
  | .closeRing r => [BitVec.ofNat 8 r]
  | .submitKeep r p a n es =>
      [BitVec.ofNat 8 (r + 16 * p.code.toNat), BitVec.ofNat 8 es.length] ++ leBytes 6 a ++ leBytes 4 n ++ extentBytes es
  | .cancelKeep id => [BitVec.ofNat 8 id]
  | .readStatus sel i => [BitVec.ofNat 8 sel, BitVec.ofNat 8 i]
  | .clearAlerts set => [set]
  | .maskAlerts set => [set]

/-- A request frame (R175): type, sequence byte, body length, body. -/
def Request.frame (sequence : Byte) (r : Request) : List Byte :=
  [r.type, sequence, BitVec.ofNat 8 r.body.length] ++ r.body

/-- The arguments of a request lie in the fields of Table 10-2. -/
def Request.fits : Request → Bool
  | .setClock m => decide (m < 2 ^ 32)
  | .trimClock i => decide (i < 2 ^ 16)
  | .loadKey _ _ _ d => decide (d.getD 0 < 2 ^ 32)
  | .dropKey _ => true
  | .setDeadline _ d => decide (d.getD 0 < 2 ^ 32)
  | .putRegion i _ d =>
      decide (i < 256) && decide (d.order < 256) && decide (d.ring < 256) && decide (d.base < 2 ^ 64)
        && decide (d.target < 2 ^ 64)
  | .freeRegion i _ => decide (i < 256)
  | .shapeRing r pb p w => decide (r < 256) && decide (pb < 2 ^ 64) && decide (p < 2 ^ 64) && decide (w < 2 ^ 64)
  | .openRing r _ => decide (r < 256)
  | .switchRing r _ => decide (r < 256)
  | .closeRing r => decide (r < 256)
  | .submitKeep r _ a n es =>
      decide (r < 4) && decide (a < 2 ^ 48) && decide (n < 2 ^ 32) && decide (1 ≤ es.length) && decide (es.length ≤ 4)
        && es.all (fun e => decide (e.1 < 2 ^ 48) && decide (1 ≤ e.2) && decide (e.2 ≤ 2 ^ 24))
  | .cancelKeep id => decide (id < 256)
  | .readStatus sel i => decide (sel < 256) && decide (i < 256)
  | .clearAlerts _ => true
  | .maskAlerts _ => true

/-- A reply frame (R175): status, sequence byte, body length in 2 bytes, body. -/
def Reply.frame (r : Reply) : List Byte :=
  [r.status.code, r.sequence] ++ leBytes 2 r.body.length ++ r.body

/-! ## The profile image (Table 10-4) -/

/-- The sum of bytes. -/
def byteSum : List Byte → Nat
  | [] => 0
  | b :: bs => b.toNat + byteSum bs

/-- The load result of a read of the profile memory (R172): a read that did not give all 64 bytes is Absent. -/
def loadResult : ProfileRead → LoadResult
  | .noAcknowledge => .absent
  | .bytes image =>
      if image.length ≠ 64 then .absent
      else if byteSum image % 256 = 0 ∧ byteAt image 0 = 0x01#8 then .good
      else .faulty

/-- The key-wait choice of an image byte in ms (Table 10-4). -/
def keyWaitChoice : Nat → Option Nat
  | 0 => some 50
  | 1 => some 200
  | 2 => some 800
  | 3 => some 3200
  | _ => none

/-- The overrun choice of an image byte in ms (Table 10-4). -/
def overrunChoice : Nat → Option Nat
  | 0 => some 100
  | 1 => some 400
  | 2 => some 1600
  | 3 => some 6400
  | _ => none

/-- A value clamped to a range (R161). -/
def clamp (low high v : Nat) : Nat := if v < low then low else if high < v then high else v

/-- A mark of the profile-in-use report (section 10.3): bit `i` when the field took a default. -/
def markBit (i : Nat) (took : Bool) : BitVec 16 := bif took then 1#16 <<< i else 0#16

/-- The fields of a Good image (R173), each out-of-range field at the value of the table's middle column. -/
def profileOfImage (image : List Byte) : Profile :=
  let r := (byteAt image 1).toNat
  let un := (byteAt image 2).toNat
  let ar := (byteAt image 3).toNat
  let m := (byteAt image 4).toNat
  let kw := keyWaitChoice (byteAt image 5).toNat
  let ov := overrunChoice (byteAt image 6).toNat
  let g := (byteAt image 7).toNat
  let inc := fieldAt image 8 2
  let mask := byteAt image 10
  { partTags := if 2 ≤ r ∧ r ≤ 8 then r else 4
    unmapped := if un = 1 then .bar else .pass
    arbiter := if ar = 0 then .fixed else .alternate
    holdLimit := if m < 8 then 8 else m
    keyWaitMs := kw.getD 200
    overrunMs := ov.getD 400
    gate := if 8 < g then 8 else g
    increment := clamp 256 1023 inc
    alertMask := bif AlertSet.beyond mask then 0x7F#8 else mask
    marks := markBit 0 (decide (r < 2) || decide (8 < r)) ||| markBit 1 (decide (1 < un)) ||| markBit 2 (decide (1 < ar))
      ||| markBit 3 (decide (m < 8)) ||| markBit 4 kw.isNone ||| markBit 5 ov.isNone ||| markBit 6 (decide (8 < g))
      ||| markBit 7 (decide (inc < 256) || decide (1023 < inc)) ||| markBit 8 (AlertSet.beyond mask)
    result := .good }

/-- The profile values in force after a load (R173). -/
def profileOf (r : ProfileRead) : Profile :=
  match r, loadResult r with
  | .bytes image, .good => profileOfImage image
  | _, result => Profile.faultDefaults result

end Sys2Proof.Machine
end

