-- ==== Sys2Proof/Machine/Ops.lean ====
section
/-! DEFINITION. The named operations over the part's structures: reading and writing an entry, a slot, a ring, a record, a
buffer or a downstream tag, taking and releasing buffers (R120, R121), and putting items on the wires. Every meaning is
written over them. -/

namespace Sys2Proof.Machine

/-! ## Ranges -/

/-- The half-open ranges `[a, b)` and `[c, d)` have a value in common. -/
def rangesMeet (a b c d : Nat) : Bool := decide (max a c < min b d)

/-- The distinct values of a list in the order of their first appearance. -/
def distinct {α : Type} [BEq α] (l : List α) : List α :=
  l.foldl (fun acc x => bif acc.contains x then acc else acc ++ [x]) []

/-- The vector of `f` over the places of a vector. -/
def mapVector {α β : Type} {n : Nat} (f : α → β) (v : Vector α n) : Vector β n := ⟨⟨v.toList.map f⟩, by simp⟩

/-! ## Region entries -/

/-- The entry of an index. -/
def State.entry (s : State) (i : Nat) : RegionEntry := s.regions.entries.getD i RegionEntry.vacant

/-- Changes the entry of an index. -/
def mapEntry (i : Nat) (f : RegionEntry → RegionEntry) (s : State) : State :=
  { s with regions := { s.regions with entries := s.regions.entries.setIfInBounds i (f (s.entry i)) } }

/-- Replaces the Drain list. -/
def setDrain (l : List RecordKey) (s : State) : State := { s with regions := { s.regions with drain := l } }

/-- The active definitions with their indexes, lowest index first. -/
def State.activeDefs (s : State) : List (Nat × Definition) :=
  s.regions.entries.toList.zipIdx.filterMap fun (e, i) => e.active.map fun d => (i, d)

/-- Adds one to the in-flight count of each index (R16, R17). -/
def countUp (indexes : List Nat) (s : State) : State :=
  indexes.foldl (fun s i => mapEntry i (fun e => { e with inFlight := e.inFlight + 1 }) s) s

/-- Takes one from the in-flight count of each index (R16, R17). -/
def countDown (indexes : List Nat) (s : State) : State :=
  indexes.foldl (fun s i => mapEntry i (fun e => { e with inFlight := e.inFlight - 1 }) s) s

/-! ## Key slots -/

/-- An Empty slot of generation 0. -/
def Slot.blank : Slot := { content := .empty, generation := 0#8 }

/-- The slot of a number. -/
def State.slot (s : State) (i : Nat) : Slot := s.keys.slots.getD i Slot.blank

/-- Replaces the slot of a number. -/
def setSlot (i : Nat) (x : Slot) (s : State) : State :=
  { s with keys := { s.keys with slots := s.keys.slots.setIfInBounds i x } }

/-- Replaces the Miss List. -/
def setMissList (l : List ProgId) (s : State) : State := { s with keys := { s.keys with missList := l } }

/-- The id a slot holds: absent while Empty (R25). -/
def SlotContent.id? : SlotContent → Option ProgId
  | .empty => none
  | .live id _ _ _ => some id
  | .expired id _ _ => some id

/-! ## Rings -/

/-- The descriptor of a ring. -/
def State.ring (s : State) (r : Nat) : Ring := s.rings.getD r Ring.unshaped

/-- Changes the descriptor of a ring. -/
def mapRing (r : Nat) (f : Ring → Ring) (s : State) : State :=
  { s with rings := s.rings.setIfInBounds r (f (s.ring r)) }

/-- Changes the four descriptors. -/
def mapRings (f : Ring → Ring) (s : State) : State := { s with rings := mapVector f s.rings }

/-- Adds one to the user count of each ring (R46). -/
def usersUp (rings : List Nat) (s : State) : State :=
  rings.foldl (fun s r => mapRing r (fun x => { x with users := x.users + 1 }) s) s

/-- Takes one from the user count of each ring (R46). -/
def usersDown (rings : List Nat) (s : State) : State :=
  rings.foldl (fun s r => mapRing r (fun x => { x with users := x.users - 1 }) s) s

/-! ## Records of the Command Table -/

/-- The tag of a record upstream: the host tag, or the non-queued marking (R91). -/
def tagOf : RecordKey → Option Nat
  | .tag t => some t
  | .sole => none

/-- The occupied record of a key. -/
def State.record? (s : State) (k : RecordKey) : Option Record := s.tracker.records.find? fun r => r.key == k

/-- Changes the record of a key. -/
def mapRecord (k : RecordKey) (f : Record → Record) (s : State) : State :=
  { s with tracker := { s.tracker with records := s.tracker.records.map fun r => bif r.key == k then f r else r } }

/-- The record becomes free: Done (R92). -/
def dropRecord (k : RecordKey) (s : State) : State :=
  { s with tracker := { s.tracker with records := s.tracker.records.filter fun r => !(r.key == k) } }

/-- A host queued command is in flight (R77). -/
def State.queuedInFlight (s : State) : Bool := s.tracker.records.any fun r => !(r.key == .sole)

/-- The sole record is occupied (R77). -/
def State.soleOccupied (s : State) : Bool := s.tracker.records.any fun r => r.key == .sole

/-- A sole command is standing (R100). -/
def State.soleStanding (s : State) : Bool := s.tracker.records.any fun r => r.standing

/-- The first host tag that is no host tag: 32 - R (R81). -/
def State.hostTags (s : State) : Nat := Config.tagCount - s.line.profile.partTags

/-- The record leaves the orders of the holds: its hold has ended. -/
def leaveHolds (k : RecordKey) (s : State) : State :=
  { s with tracker := { s.tracker with
      keyWait := s.tracker.keyWait.filter (· != k)
      ringOrder := s.tracker.ringOrder.filter (· != k)
      overrun := s.tracker.overrun.filter (· != k)
      tagWait := s.tracker.tagWait.filter (· != k) } }

/-- The record enters a hold state. -/
def holdIn (k : RecordKey) (st : RecordState) (s : State) : State := mapRecord k (fun r => { r with state := st }) s

/-- The hold of a record ends: it leaves the orders of the holds, its timer stops and it is in Classify again (R92, R95). -/
def endHold (k : RecordKey) (s : State) : State :=
  leaveHolds k (mapRecord k (fun r => { r with state := .classify, timer := none, awaited := [], waitsFor := [] }) s)

/-- The record becomes Due with an outcome, and its completion waits for its turn upstream (R80, R92, R107). -/
def becomeDue (k : RecordKey) (o : HostOutcome) (s : State) : State :=
  let s := leaveHolds k (mapRecord k (fun r =>
    { r with state := .due, timer := none, awaited := [], waitsFor := [], outcome := some o }) s)
  { s with sys := { s.sys with sendOrder := s.sys.sendOrder ++ [.record k] } }

/-- The record is refused with a reason (R95). -/
def refuse (k : RecordKey) (why : HostReason) (s : State) : State := becomeDue k (.refused why) s

/-- A data read of the host. -/
def HostKind.isRead : HostKind → Bool
  | .read | .soleRead => true
  | _ => false

/-- A data write of the host. -/
def HostKind.isWrite : HostKind → Bool
  | .write | .soleWrite => true
  | _ => false

/-- A kind that carries sectors of the host's address space (R12). -/
def HostKind.isData (k : HostKind) : Bool := k.isRead || k.isWrite

/-! ## Wires -/

/-- Puts an item on the upstream link. -/
def emitUp (x : UpItem) (s : State) : State := { s with wires := { s.wires with up := s.wires.up ++ [x] } }

/-- Puts an item on the downstream link. -/
def emitDown (x : DownItem) (s : State) : State := { s with wires := { s.wires with down := s.wires.down ++ [x] } }

/-- Shifts bytes out on the Module Line. -/
def emitSpi (bytes : List Byte) (s : State) : State := { s with wires := { s.wires with spi := s.wires.spi ++ [bytes] } }

/-! ## Downstream tags and the issue order -/

/-- The user of a downstream tag. -/
def State.tagUser (s : State) (t : Nat) : Option TagUser := s.drive.tags.getD t none

/-- Takes or frees a downstream tag (R81). -/
def setTag (t : Nat) (u : Option TagUser) (s : State) : State :=
  { s with drive := { s.drive with tags := s.drive.tags.setIfInBounds t u } }

/-- Frees a downstream tag, if the command has one. -/
def freeTag (t : Option Nat) (s : State) : State :=
  match t with
  | some t => setTag t none s
  | none => s

/-- The lowest-numbered free part tag (R82). -/
def State.freePartTag (s : State) : Option Nat :=
  ((List.range Config.tagCount).filter fun t => decide (s.hostTags ≤ t)).find? fun t => (s.tagUser t).isNone

/-- The low-power request once the Drive Port has a command to send: a declined one may be made again at the next return to
the quiet condition; one that the disk has yet to answer stands (R85, assumption log entry 25). -/
def LowPower.stirred : LowPower → LowPower
  | .declined => .idle
  | x => x

/-- Hands a downstream command to the Drive Port (R83). -/
def handOver (c : DownCmd) (s : State) : State :=
  { s with drive := { s.drive with issueOrder := s.drive.issueOrder ++ [c], lowPower := s.drive.lowPower.stirred } }

/-- Changes every downstream command, waiting or outstanding, that satisfies a test. -/
def mapDown (p : DownCmd → Bool) (f : DownCmd → DownCmd) (s : State) : State :=
  let g := fun c => bif p c then f c else c
  { s with drive := { s.drive with issueOrder := s.drive.issueOrder.map g, outstanding := s.drive.outstanding.map g } }

/-- Takes every downstream command that satisfies a test out of the Drive Port. -/
def removeDown (p : DownCmd → Bool) (s : State) : State :=
  { s with drive := { s.drive with
      issueOrder := s.drive.issueOrder.filter fun c => !p c
      outstanding := s.drive.outstanding.filter fun c => !p c } }

/-! ## The Sector Pool -/

/-- The buffer of an index. -/
def State.buffer (s : State) (i : Nat) : Buffer := s.engine.pool.getD i Buffer.empty

/-- Replaces a buffer. -/
def setBuffer (i : Nat) (b : Buffer) (s : State) : State :=
  { s with engine := { s.engine with pool := s.engine.pool.setIfInBounds i b } }

/-- Changes a buffer. -/
def mapBuffer (i : Nat) (f : Buffer → Buffer) (s : State) : State := setBuffer i (f (s.buffer i)) s

/-- The indexes of the buffers that satisfy a test, lowest first. -/
def State.buffersWhere (s : State) (p : Buffer → Bool) : List Nat :=
  s.engine.pool.toList.zipIdx.filterMap fun (b, i) => bif p b then some i else none

/-- The number of buffers that satisfy a test. -/
def State.bufferCount (s : State) (p : Buffer → Bool) : Nat := s.engine.pool.toList.countP p

/-- The number of Free buffers. -/
def State.freeBuffers (s : State) : Nat := s.bufferCount fun b => b.state == .free

/-- The number of buffers of a class (R117). -/
def State.classBuffers (s : State) (c : BufClass) : Nat := s.bufferCount fun b => b.cls == some c

/-- The number of buffers set aside for the keep request (R120). -/
def State.setAsideBuffers (s : State) : Nat := s.bufferCount fun b => b.state == .setAside

/-- The sectors for which the pool has room in a host class (R117, R119). -/
def State.hostRoom (s : State) (c : BufClass) : Nat := min (Config.hostClassLimit - s.classBuffers c) s.freeBuffers

/-- The lowest Free buffer. Which Free buffer is taken shows nowhere: DESIGN CHOICE, assumption log entry 7. -/
def State.freeBuffer (s : State) : Option Nat := (s.buffersWhere fun b => b.state == .free).head?

/-- The buffer of an owner that carries a sector, in one of its states. -/
def State.bufferOf (s : State) (o : Owner) (lba : Nat) (p : Buffer → Bool) : Option Nat :=
  (s.buffersWhere fun b => b.owner == o && b.lba == lba && p b).head?

/-- The ready queue of a class (R123) with a buffer joined at its tail. -/
def joinQueue (c : BufClass) (i : Nat) (s : State) : State :=
  match c with
  | .hostRead => { s with engine := { s.engine with readQ := s.engine.readQ ++ [i] } }
  | .hostWrite => { s with engine := { s.engine with writeQ := s.engine.writeQ ++ [i] } }
  | .keep => { s with engine := { s.engine with keepQ := s.engine.keepQ ++ [i] } }

/-- Withdraws a buffer from the ready queues (R123). -/
def withdrawFromQueues (i : Nat) (s : State) : State :=
  { s with engine := { s.engine with
      readQ := s.engine.readQ.filter (· != i)
      writeQ := s.engine.writeQ.filter (· != i)
      keepQ := s.engine.keepQ.filter (· != i) } }

/-- The buffer's sector is in the grant in progress. -/
def State.inGrant (s : State) (i : Nat) : Bool :=
  match s.engine.grant with
  | some g => g.buffer == some i
  | none => false

/-- The fate of the grant in progress. -/
def setGrantFate (f : GrantFate) (s : State) : State :=
  { s with engine := { s.engine with grant := s.engine.grant.map fun g => { g with fate := f } } }

/-- The buffers that the Keep class may still take (R117). A buffer of an ended chunk counts until its grant ends: DESIGN
CHOICE, assumption log entry 15. -/
def State.keepRoom (s : State) : Nat := Config.keepClassLimit - s.classBuffers .keep

/-- A keep request is outstanding and not yet met, and wants more buffers (R120). -/
def State.wantsSetAside (s : State) : Bool :=
  match s.keep.request with
  | some q => !q.met && decide (s.setAsideBuffers < q.count) && decide (0 < s.keepRoom)
  | none => false

/-- A SetAside buffer of the keep request (R120). -/
def Buffer.aside : Buffer := { Buffer.empty with state := .setAside, cls := some .keep, owner := .keep }

/-- Releases a buffer (R121): its fields are cleared and it becomes SetAside while a keep request wants it, else Free. -/
def releaseNow (i : Nat) (s : State) : State :=
  let s := setBuffer i Buffer.empty (withdrawFromQueues i s)
  bif s.wantsSetAside then setBuffer i Buffer.aside s else s

/-- Releases a buffer, or, when its sector is in a grant, orders its release for the end of the grant (R121, R129). -/
def releaseBuffer (i : Nat) (s : State) : State :=
  bif s.inGrant i then setGrantFate .discard s else releaseNow i s

/-- Releases every buffer that satisfies a test. -/
def releaseWhere (p : Buffer → Bool) (s : State) : State :=
  (s.buffersWhere p).foldl (fun s i => releaseBuffer i s) s

/-- The buffers of an owner that ends are withdrawn and released, one in a grant when that grant ends (R129). -/
def releaseOwner (o : Owner) (s : State) : State :=
  (s.buffersWhere fun b => b.owner == o && b.state != .setAside).foldl
    (fun s i => bif s.inGrant i then setGrantFate .discard (mapBuffer i (fun b => { b with owner := .ended }) s)
                else releaseNow i s) s

/-- The Keep Unit withdraws its buffer request, outstanding or met: its SetAside and Taken buffers become Free (R140). -/
def withdrawRequest (s : State) : State :=
  match s.keep.request with
  | none => s
  | some _ =>
      let s := { s with keep := { s.keep with request := none } }
      (s.buffersWhere fun b => b.owner == .keep).foldl (fun s i => releaseNow i s) s

end Sys2Proof.Machine
end

