-- ==== Sys2Proof/Machine/Classify.lean ====
section
/-! DEFINITION. Sector classification (R4 to R8), the cutting of a command into runs (R9, R10), the downstream image (R11)
and the five tests of a command (R12 to R14), over the active definitions, ring descriptors and Keep Queue as they stand. -/

namespace Sys2Proof.Machine

/-! ## One sector -/

/-- The number of sectors a definition covers (R2). -/
def Definition.size (d : Definition) : Nat := 2 ^ d.order

/-- The definition's range holds an LBA (R2, R4). -/
def Definition.covers (d : Definition) (x : Nat) : Bool := decide (d.base ≤ x) && decide (x < d.base + d.size)

/-- The definition's range meets `[x, x + n)`. -/
def Definition.meets (d : Definition) (x n : Nat) : Bool := rangesMeet d.base (d.base + d.size) x (x + n)

/-- The kind never binds (R2). -/
def DefKind.isOverlay : DefKind → Bool
  | .overlay => true
  | _ => false

/-- The kind is Barred. -/
def DefKind.isBarred : DefKind → Bool
  | .barred => true
  | _ => false

/-- The ring that a definition names. -/
def DefKind.ring? : DefKind → Option Nat
  | .ring r => some r
  | _ => none

/-- The matching entries of an LBA, lowest index first (R4). -/
def State.matching (s : State) (x : Nat) : List (Nat × Definition) := s.activeDefs.filter fun e => e.2.covers x

/-- The binding entry of an LBA (R4). -/
def State.binding (s : State) (x : Nat) : Option (Nat × Definition) :=
  (s.matching x).find? fun e => !e.2.kind.isOverlay

/-- The sector is classified Barred: bound by a Barred entry, or unmapped under the Bar policy (R5, R7). -/
def State.barredSector (s : State) (x : Nat) : Bool :=
  match s.binding x with
  | some e => e.2.kind.isBarred
  | none => s.line.profile.unmapped == .bar

/-- The sector has its read bar (R5). -/
def State.readBarred (s : State) (x : Nat) : Bool := s.barredSector x || (s.matching x).any fun e => e.2.readBar

/-- The sector has its write bar (R5). -/
def State.writeBarred (s : State) (x : Nat) : Bool := s.barredSector x || (s.matching x).any fun e => e.2.writeBar

/-- The latest epoch whose start is at or below an offset (R48). -/
def Ring.epochAt (r : Ring) (v : Nat) : Option Epoch := (r.epochs.filter fun e => decide (e.start ≤ v)).getLast?

/-- The disk LBA of a virtual offset: PB + (v mod P) (R48). -/
def Ring.fold (r : Ring) (v : Nat) : Nat := r.base + v % r.span

/-- The lower bound of a Live ring, 0 while Idle (R47). -/
def Ring.lower (r : Ring) : Nat := bif r.live then max r.floor (r.head - r.trail) else 0

/-- What classification finds for one sector (R4 to R8, R10). -/
structure SectorClass where
  binding    : Option Nat
  kind       : RunKind
  id         : Option ProgId
  disk       : Option Nat
  ring       : Option Nat
  epochStart : Option Nat
  virt       : Option Nat
  deriving DecidableEq, Repr

/-- A sector bound by a Ring entry of base `base` at index `i`, naming ring `r` (R10). -/
def State.ringSector (s : State) (i r base x : Nat) : SectorClass :=
  let d := s.ring r
  let v := x - base
  let plain : SectorClass :=
    { binding := some i, kind := .ring, id := none, disk := none, ring := some r, epochStart := none, virt := some v }
  bif !d.live then plain
  else bif decide (v < d.floor) then { plain with disk := some (d.fold v) }
  else { plain with
    disk := some (d.fold v)
    id := (d.epochAt v).map Epoch.id
    epochStart := (d.epochAt v).map Epoch.start }

/-- The classification of one sector (R4, R7, R8, R10). -/
def State.classOf (s : State) (x : Nat) : SectorClass :=
  match s.binding x with
  | none =>
      { binding := none
        kind := if s.line.profile.unmapped = .bar then .barred else .clear
        id := none
        disk := if s.line.profile.unmapped = .bar then none else some x
        ring := none, epochStart := none, virt := none }
  | some (i, d) =>
      match d.kind with
      | .clear t =>
          { binding := some i, kind := .clear, id := none, disk := some (t.getD d.base + (x - d.base)), ring := none,
            epochStart := none, virt := none }
      | .programme t id =>
          { binding := some i, kind := .programme, id := some id, disk := some (t.getD d.base + (x - d.base)), ring := none,
            epochStart := none, virt := none }
      | .ring r => s.ringSector i r d.base x
      | .barred | .overlay =>
          { binding := some i, kind := .barred, id := none, disk := none, ring := none, epochStart := none, virt := none }

/-! ## Pieces of uniform classification -/

/-- Adds a cut point to a rising list without repeats. -/
def insertCut (c : Nat) : List Nat → List Nat
  | [] => [c]
  | d :: ds => if c < d then c :: d :: ds else if c = d then d :: ds else d :: insertCut c ds

/-- The LBAs at which the classification of the sectors around a definition can change: its ends, and for a Ring definition
the floor and the epoch starts of its ring (R4, R10). -/
def State.cutsOf (s : State) (d : Definition) : List Nat :=
  match d.kind.ring? with
  | some r => d.base :: (d.base + d.size) :: (d.base + (s.ring r).floor) :: (s.ring r).epochs.map fun e => d.base + e.start
  | none => [d.base, d.base + d.size]

/-- The cut points strictly inside `[x, x + n)`, rising. -/
def State.cutPoints (s : State) (x n : Nat) : List Nat :=
  ((s.activeDefs.flatMap fun e => s.cutsOf e.2).filter fun c => decide (x < c) && decide (c < x + n)).foldr insertCut []

/-- The pieces of `[x, stop)` between cut points: first LBA and length. -/
def piecesFrom (x stop : Nat) : List Nat → List (Nat × Nat)
  | [] => [(x, stop - x)]
  | c :: cs => (x, c - x) :: piecesFrom c stop cs

/-- The pieces of `[x, x + n)`: within a piece every sector matches the same entries and classifies alike. -/
def State.pieces (s : State) (x n : Nat) : List (Nat × Nat) := piecesFrom x (x + n) (s.cutPoints x n)

/-! ## Runs -/

/-- Two neighbouring sectors belong to one run (R9). -/
def SectorClass.sameRun (a b : SectorClass) : Bool :=
  a.binding == b.binding && a.kind == b.kind && a.epochStart == b.epochStart

/-- A stretch of sectors: first LBA, length, and the class of its first sector. -/
structure Stretch where
  first : Nat
  count : Nat
  cls   : SectorClass
  deriving DecidableEq, Repr

/-- Joins neighbouring stretches of one run (R9). -/
def joinStretches : List Stretch → List Stretch
  | [] => []
  | p :: rest =>
      match joinStretches rest with
      | [] => [p]
      | q :: qs => bif p.cls.sameRun q.cls then { p with count := p.count + q.count } :: qs else p :: q :: qs

/-- The maximal stretches of `[x, x + n)` (R9). -/
def State.stretches (s : State) (x n : Nat) : List Stretch :=
  joinStretches ((s.pieces x n).map fun p => { first := p.1, count := p.2, cls := s.classOf p.1 })

/-- The wrap split point of a ring run with a disk LBA (R10): P - pos where its sectors cross the end of the span, 0 where it
starts at position 0 directly after another run of the same ring. -/
def State.splitPoint (s : State) (before : Option Nat) (t : Stretch) : Option Nat :=
  match t.cls.ring, t.cls.virt, t.cls.disk with
  | some r, some v, some _ =>
      let pos := v % (s.ring r).span
      if (s.ring r).span < pos + t.count then some ((s.ring r).span - pos)
      else if pos = 0 ∧ before = some r then some 0
      else none
  | _, _, _ => none

/-- The run of a stretch, with no key captured (R9). `before` is the ring of the run before it, if any. -/
def State.runOf (s : State) (before : Option Nat) (t : Stretch) : Run :=
  { first := t.first, count := t.count, binding := t.cls.binding, kind := t.cls.kind, id := t.cls.id, capture := none,
    disk := t.cls.disk, ring := t.cls.ring, epochStart := t.cls.epochStart, virt := t.cls.virt,
    split := s.splitPoint before t }

/-- The runs of a list of stretches. -/
def State.runsOf (s : State) (before : Option Nat) : List Stretch → List Run
  | [] => []
  | t :: ts => s.runOf before t :: s.runsOf t.cls.ring ts

/-- The runs of the sectors `[x, x + n)` (R9, R10). -/
def State.classify (s : State) (x n : Nat) : List Run := s.runsOf none (s.stretches x n)

/-! ## The downstream image -/

/-- PB of the ring a run is of. -/
def State.ringBase (s : State) (r : Run) : Nat := (s.ring (r.ring.getD 0)).base

/-- PB + P of the ring a run is of. -/
def State.ringTop (s : State) (r : Run) : Nat := (s.ring (r.ring.getD 0)).base + (s.ring (r.ring.getD 0)).span

/-- The disk end of a run with a disk LBA (R11). -/
def State.diskEnd (s : State) (r : Run) : Nat :=
  match r.split with
  | some (k + 1) => s.ringBase r + (r.count - (k + 1))
  | _ => r.disk.getD 0 + r.count

/-- Two consecutive runs, both with a disk LBA, join (R11). -/
def State.joins (s : State) (a b : Run) : Bool :=
  b.disk == some (s.diskEnd a) || (b.split == some 0 && a.ring == b.ring && s.diskEnd a == s.ringTop a)

/-- Every tested pair of consecutive runs joins; a pair with a run that has no disk LBA is not tested (R11). -/
def State.allJoin (s : State) : List Run → Bool
  | a :: b :: rest => (a.disk.isNone || b.disk.isNone || s.joins a b) && s.allJoin (b :: rest)
  | _ => true

/-- The number of runs that carry a wrap split point. -/
def splitCount (runs : List Run) : Nat := runs.countP fun r => r.split.isSome

/-- The sectors of a command that lie before its wrap, and PB of the ring that wraps (R11). -/
def State.wrapOf (s : State) : List Run → Option (Nat × Nat)
  | [] => none
  | r :: rest =>
      match r.split with
      | some k => some (k, s.ringBase r)
      | none => (s.wrapOf rest).map fun w => (r.count + w.1, w.2)

/-- The downstream image of a command of `n` sectors whose runs pass the Discontiguous test (R11): none where a run has no
disk LBA. -/
def State.imageOf (s : State) (runs : List Run) (n : Nat) : Option Image :=
  bif runs.any (fun r => r.disk.isNone) then none
  else match runs.head?.bind Run.disk with
    | none => none
    | some d =>
        match s.wrapOf runs with
        | some (n1, pb) => some { first := { start := d, count := n1 }, second := some { start := pb, count := n - n1 } }
        | none => some { first := { start := d, count := n }, second := none }

/-! ## The five tests -/

/-- The disk ranges of a run (R14), as start and end. -/
def State.diskRanges (s : State) (r : Run) : List (Nat × Nat) :=
  match r.disk, r.split with
  | none, _ => []
  | some d, some (k + 1) => [(d, s.ringTop r), (s.ringBase r, s.ringBase r + (r.count - (k + 1)))]
  | some d, _ => [(d, d + r.count)]

/-- A range of disk LBAs meets the span of a configured ring other than `own` (R14). -/
def State.meetsSpan (s : State) (own : Option Nat) (a b : Nat) : Bool :=
  (List.range Config.ringCount).any fun q =>
    !(own == some q) && decide ((s.ring q).span ≠ 0) &&
      rangesMeet a b (s.ring q).base ((s.ring q).base + (s.ring q).span)

/-- A run's disk range meets the span of a ring other than its own (R14). -/
def State.shielded (s : State) (r : Run) : Bool := (s.diskRanges r).any fun g => s.meetsSpan r.ring g.1 g.2

/-- A sector of `[x, x + n)` is barred for the direction (R12). -/
def State.barredRange (s : State) (write : Bool) (x n : Nat) : Bool :=
  (s.pieces x n).any fun p => bif write then s.writeBarred p.1 else s.readBarred p.1

/-- A job's extents meet `[x, x + n)`. -/
def Job.touches (j : Job) (x n : Nat) : Bool := j.extents.any fun e => rangesMeet e.host (e.host + e.count) x (x + n)

/-- A sector of `[x, x + n)` is Busy (R6). -/
def State.busyRange (s : State) (x n : Nat) : Bool := s.keep.queue.any fun j => j.touches x n

/-- The first failing test of a classified command, in the order of R12. -/
def State.classifyFailure (s : State) (write : Bool) (x n : Nat) (runs : List Run) : Option HostReason :=
  bif s.barredRange write x n then some .barred
  else bif s.busyRange x n then some .busy
  else bif decide (Config.runLimit < runs.length) then some .fragmented
  else bif !s.allJoin runs || decide (2 ≤ splitCount runs) then some .discontiguous
  else bif runs.any s.shielded then some .shielded
  else none

/-- The indexes of the entries that at least one sector of `[x, x + n)` matches (R16, R17). -/
def State.matchedEntries (s : State) (x n : Nat) : List Nat :=
  (s.activeDefs.filter fun e => e.2.meets x n).map Prod.fst

/-- The rings on which the command is counted: it holds a run of the ring classified while it was Live (R46). -/
def liveRings (runs : List Run) : List Nat :=
  distinct ((runs.filter fun r => r.disk.isSome).filterMap Run.ring)

/-- A sector of `[x, x + n)` lies in the active range of an Active entry that holds a pending definition (R23). -/
def State.meetsStaged (s : State) (x n : Nat) : Bool :=
  s.regions.entries.toList.any fun e =>
    e.staged.isSome && (match e.active with | some d => d.meets x n | none => false)

end Sys2Proof.Machine
end

