-- ==== Sys2Proof/Machine/Lookup.lean ====
section
/-! DEFINITION. The Key Table's answers (R26, R35, R41, R42) and the Miss List's upkeep (R36, R40). -/

namespace Sys2Proof.Machine

/-- The slot that holds an id, with its number (R26). -/
def State.slotOf (s : State) (id : ProgId) : Option (Nat × Slot) :=
  (s.keys.slots.toList.zipIdx.find? fun e => e.1.content.id? == some id).map fun e => (e.2, e.1)

/-- What a lookup of one id finds (R35). -/
inductive Lookup where
  | captured (c : Capture)
  | expired
  | locked
  | miss
  deriving DecidableEq, Repr

/-- The lookup of one id (R35). -/
def State.lookup (s : State) (id : ProgId) : Lookup :=
  match s.slotOf id with
  | some (i, x) =>
      match x.content with
      | .live _ _ _ _ => .captured { slot := i, generation := x.generation }
      | _ => .expired
  | none => bif s.keys.lockdown then .locked else .miss

/-- What a keep query answers (R42). -/
inductive KeepQuery where
  | live (c : Capture) (cls : KeepClass)
  | expired
  | absent
  deriving DecidableEq, Repr

/-- The keep query by programme id (R42). -/
def State.keepQuery (s : State) (id : ProgId) : KeepQuery :=
  match s.slotOf id with
  | some (i, x) =>
      match x.content with
      | .live _ _ cls _ => .live { slot := i, generation := x.generation } cls
      | _ => .expired
  | none => .absent

/-- The id is Live with KeepAllowed (R134). -/
def State.keepAllowed (s : State) (id : ProgId) : Bool :=
  match s.keepQuery id with
  | .live _ .keepAllowed => true
  | _ => false

/-- What the key-lost check finds for a captured pair (R41): the key, or the reason. -/
def State.checkPair (s : State) (c : Capture) : Except LostReason Key :=
  match (s.slot c.slot).content with
  | .live _ key _ _ => bif (s.slot c.slot).generation == c.generation then .ok key else .error .keyLost
  | .expired _ _ _ => .error .expired
  | .empty => .error .keyLost

/-- The programme id of a protected run (R35). -/
def Run.protectedId (r : Run) : Option ProgId :=
  match r.kind with
  | .programme => r.id
  | .ring => r.id
  | _ => none

/-- The distinct ids of a command's protected runs, in the order of the runs. -/
def protectedIds (runs : List Run) : List ProgId := distinct (runs.filterMap Run.protectedId)

/-- The runs with the captures of one round of lookup (R35, R39): earlier captures are replaced. -/
def State.captureRuns (s : State) (runs : List Run) : List Run :=
  runs.map fun r =>
    match r.protectedId with
    | none => r
    | some id =>
        match s.lookup id with
        | .captured c => { r with capture := some c }
        | _ => { r with capture := none }

/-- The run with no key captured. -/
def Run.uncaptured (r : Run) : Run := { r with capture := none }

/-- The result of a command's lookup, by the precedence of R35. -/
inductive LookupResult where
  | refused (why : HostReason)
  | misses (ids : List ProgId)
  | captured
  deriving DecidableEq, Repr

/-- The result of a command's lookup (R35): the missing ids in the order of their first appearance (R36). -/
def State.lookupRuns (s : State) (runs : List Run) : LookupResult :=
  let ids := protectedIds runs
  bif ids.any (fun id => s.lookup id == .expired) then .refused .expired
  else bif ids.any (fun id => s.lookup id == .locked) then .refused .locked
  else
    match ids.filter fun id => s.lookup id == .miss with
    | [] => .captured
    | missing => .misses missing

/-- The commands in KeyWait that wait for an id (R37). -/
def State.waiters (s : State) (id : ProgId) : Nat :=
  s.tracker.records.countP fun r => r.state == .keyWait && r.awaited.contains id

/-- Of the ids a command was waiting for, those for which no command remains in KeyWait leave the Miss List (R40). -/
def dropUnwaited (ids : List ProgId) (s : State) : State :=
  setMissList (s.keys.missList.filter fun id => !(ids.contains id) || decide (s.waiters id ≠ 0)) s

/-- A command at lookup or in KeyWait is refused: it becomes Due, and the ids it waited for are examined (R38 to R40). -/
def refuseKey (k : RecordKey) (why : HostReason) (s : State) : State :=
  let awaited := match s.record? k with | some r => r.awaited | none => []
  dropUnwaited awaited (refuse k why s)

/-- The record enters KeyWait, or stays there under its running timer, waiting for these ids (R36, R39). -/
def enterKeyWait (k : RecordKey) (missing : List ProgId) (s : State) : State :=
  let ms := s.line.profile.keyWaitMs
  let s := mapRecord k (fun r =>
    { r with state := .keyWait, awaited := missing,
             timer := match r.timer with | some t => some t | none => some (.keyWait ms) }) s
  bif s.tracker.keyWait.contains k then s
  else { s with tracker := { s.tracker with keyWait := s.tracker.keyWait ++ [k] } }

/-- Miss handling (R36): refused NoKey where the Miss List has no room for the new ids, else the new ids join it, KeyMiss is
latched if there are any, and the command waits in KeyWait. -/
def missHandling (k : RecordKey) (missing : List ProgId) (s : State) : State :=
  let new := missing.filter fun id => !(s.keys.missList.contains id)
  bif decide (Config.missPlaces - s.keys.missList.length < new.length) then refuseKey k .noKey s
  else
    enterKeyWait k missing (latchIf (!new.isEmpty) .keyMiss (setMissList (s.keys.missList ++ new) s))

end Sys2Proof.Machine
end

