-- ==== Sys2Proof/Machine/Steps.lean ====
section
/-! DEFINITION. The steps of an accepted command (R94, R95), from the Drain check to issue. Each step either holds or refuses
the record, or goes on to the next; they are written last step first. -/

namespace Sys2Proof.Machine

/-! ## Issue (R101) -/

/-- The first downstream command of a record (R101). -/
def Record.firstCommand (r : Record) : DownCmd :=
  let range := match r.image with | some i => i.first | none => { start := 0, count := r.count }
  let cmd : DownCmd :=
    { tag := tagOf r.key, user := .hostFirst r.key, op := .noData, disk := 0, count := 0, host := 0, frame := r.frame,
      passed := 0, asked := 0, broken := false, discarding := false }
  match r.kind with
  | .read | .soleRead => { cmd with op := .read, disk := range.start, count := range.count, host := r.host }
  | .write | .soleWrite => { cmd with op := .write, disk := range.start, count := range.count, host := r.host }
  | .identify => { cmd with op := .identify, count := 1 }
  | .flush | .passNoData => cmd

/-- Drops the epochs that a higher head leaves wholly below the window (R61): the floor and the epochs that remain. -/
def dropEpochs (behind : Nat) : Nat → List Epoch → Nat × List Epoch
  | floor, e :: f :: rest =>
      if f.start ≤ max floor behind then dropEpochs behind f.start (f :: rest) else (floor, e :: f :: rest)
  | floor, epochs => (floor, epochs)

/-- The head of a Live ring rises to the end of an issued write, and epochs are dropped (R60, R61). -/
def Ring.raiseHead (r : Ring) (upto : Nat) : Ring :=
  let head := max r.head upto
  let kept := dropEpochs (head - r.trail) r.floor r.epochs
  { r with head := head, floor := kept.1, epochs := kept.2 }

/-- The accesses of a record on one ring are marked issued; a write's issue moves the head of a Live ring (R60). -/
def Ring.issueAccesses (k : RecordKey) (r : Ring) : Ring :=
  let r' := { r with accesses := r.accesses.map fun a => bif a.record == k then { a with issued := true } else a }
  bif r.live then
    (r.accesses.filter fun a => a.record == k && a.write).foldl (fun x a => x.raiseHead (a.first + a.count)) r'
  else r'

/-- Takes the host tag of a queued command (R81). -/
def takeHostTag (k : RecordKey) (s : State) : State :=
  match tagOf k with
  | some t => setTag t (some (.hostFirst k)) s
  | none => s

/-- Step 9, issue (R101): the record becomes Issued and its first downstream command is handed to the Drive Port. -/
def stepIssue (k : RecordKey) (s : State) : State :=
  match s.record? k with
  | none => s
  | some r =>
      let s := mapRecord k (fun r => { r with state := .issued, part1 := .outstanding }) s
      let s := mapRings (Ring.issueAccesses k) s
      handOver r.firstCommand (takeHostTag k s)

/-! ## SoleWait and TagWait (R99, R100) -/

/-- Step 8, SoleWait (R100): the sole command is standing from here on, a buffer request is withdrawn (R140), and the record
waits for the keep chunk in flight. -/
def stepSoleWait (k : RecordKey) (s : State) : State :=
  bif k == .sole then
    let s := withdrawRequest (mapRecord k (fun r => { r with standing := true }) s)
    bif s.keep.chunk.isSome then holdIn k .soleWait s else stepIssue k s
  else stepIssue k s

/-- The part tag is granted to a record (R99): it is stored in the split and marked in use for the second part. -/
def grantPartTag (k : RecordKey) (t : Nat) (s : State) : State :=
  setTag t (some (.hostSecond k))
    (mapRecord k (fun r => { r with split := r.split.map fun x => { x with tag := some t } }) s)

/-- Step 7, TagWait (R99): a queued command with a split takes the lowest free part tag, or waits behind the records that
wait already (R82). -/
def stepTagWait (k : RecordKey) (s : State) : State :=
  match s.record? k with
  | none => s
  | some r =>
      bif !(k == .sole) && r.split.isSome then
        match s.tracker.tagWait, s.freePartTag with
        | [], some t => stepSoleWait k (grantPartTag k t s)
        | _, _ =>
            holdIn k .tagWait { s with tracker := { s.tracker with tagWait := s.tracker.tagWait ++ [k] } }
      else stepSoleWait k s

/-! ## Overrun (R67) -/

/-- The overwritten range of a write of `[first, first + count)` on a ring of span P meets `[c, d)` (R49): the comparison is
made P sectors up, where nothing is negative. -/
def overwrites (span first count c d : Nat) : Bool := rangesMeet first (first + count) (c + span) (d + span)

/-- A job's uncopied range meets the overwritten range of a write access of the record (R67). -/
def State.blocks (s : State) (k : RecordKey) (j : Job) : Bool :=
  (s.ring j.ring).accesses.any fun a =>
    a.record == k && a.write && overwrites (s.ring j.ring).span a.first a.count j.cursor j.upto

/-- Some job of the Keep Queue blocks the record's writes (R67). -/
def State.blocked (s : State) (k : RecordKey) : Bool := s.keep.queue.any (s.blocks k)

/-- Step 6, Overrun (R67, R69). -/
def stepOverrun (k : RecordKey) (s : State) : State :=
  bif s.blocked k then
    let ms := s.line.profile.overrunMs
    let s := mapRecord k (fun r => { r with state := .overrun, timer := some (.overrun ms) }) s
    { s with tracker := { s.tracker with overrun := s.tracker.overrun ++ [k] } }
  else stepTagWait k s

/-! ## RingOrder (R64, R65) -/

/-- An access that the record's own access on the same ring conflicts with (R64, R65). -/
def conflicts (span : Nat) (own other : Access) : Bool :=
  bif own.write then overwrites span own.first own.count other.first (other.first + other.count)
  else other.write && rangesMeet own.first (own.first + own.count) other.first (other.first + other.count)

/-- The records whose accesses on one ring the record waits for (R64, R65). -/
def Ring.conflictsOf (k : RecordKey) (r : Ring) : List RecordKey :=
  (r.accesses.filter fun o =>
    !(o.record == k) && r.accesses.any fun a => a.record == k && conflicts r.span a o).map Access.record

/-- The records whose accesses the record waits for. -/
def State.conflictsOf (s : State) (k : RecordKey) : List RecordKey :=
  distinct (s.rings.toList.flatMap (Ring.conflictsOf k))

/-- Step 5, RingOrder (R64 to R66). -/
def stepRingOrder (k : RecordKey) (s : State) : State :=
  match s.conflictsOf k with
  | [] => stepOverrun k s
  | waits =>
      let s := mapRecord k (fun r => { r with state := .ringOrder, waitsFor := waits }) s
      { s with tracker := { s.tracker with ringOrder := s.tracker.ringOrder ++ [k] } }

/-! ## Ring acceptance (R56 to R58) -/

/-- An access that a command asks for (R56): `idle` when one of its runs was classified on an Idle ring, `stale` when one
carries no epoch. -/
structure AccessRequest where
  ring  : Nat
  first : Nat
  count : Nat
  idle  : Bool
  stale : Bool
  deriving DecidableEq, Repr

/-- The sectors of a list of runs. -/
def sectorsOf (runs : List Run) : Nat := (runs.map Run.count).sum

/-- The access of a command's runs on one ring (R56): from the first run's offset on, as many offsets as the runs have sectors.
Where a run of an Idle ring stands between two runs of the ring, they are not the one range that R56 takes them for: DESIGN
CHOICE, assumption log entry 51. -/
def accessOn (runs : List Run) (q : Nat) : AccessRequest :=
  let own := runs.filter fun r => r.ring == some q
  { ring := q
    first := (own.head?.bind Run.virt).getD 0
    count := sectorsOf own
    idle := own.any fun r => r.disk.isNone
    stale := own.any fun r => r.epochStart.isNone }

/-- The accesses of a command, in host-LBA order (R56). -/
def accessesOf (runs : List Run) : List AccessRequest := (distinct (runs.filterMap Run.ring)).map (accessOn runs)

/-- The tests of a read access on a Live ring (R57). -/
def Ring.readFailure (r : Ring) (v n : Nat) : Option HostReason :=
  if v < r.lower then some .ringStale
  else if r.head < v + n then some .ringAhead
  else if r.accesses.any (fun a => a.write && !a.issued && overwrites r.span a.first a.count v (v + n)) then some .ringStale
  else none

/-- The tests of a write access on a Live ring (R58). -/
def Ring.writeFailure (r : Ring) (v : Nat) : Option HostReason :=
  if v < r.lower then some .ringStale
  else if r.claim < v then some .ringGap
  else none

/-- The first failing test of an access (R56). -/
def State.accessFailure (s : State) (write : Bool) (q : AccessRequest) : Option HostReason :=
  let r := s.ring q.ring
  if q.idle || !r.live then some .ringIdle
  else if q.stale then some .ringStale
  else bif write then r.writeFailure q.first else r.readFailure q.first q.count

/-- An accepted access joins its ring's list as a held access; a write moves the claim (R56, R58). -/
def acceptAccess (k : RecordKey) (write : Bool) (s : State) (q : AccessRequest) : State :=
  mapRing q.ring (fun r =>
    { r with
      claim := bif write then max r.claim (q.first + q.count) else r.claim
      accesses := r.accesses ++ [{ record := k, write := write, first := q.first, count := q.count, issued := false }] }) s

/-- Step 4, ring acceptance (R56): all the command's accesses pass, or the command is refused with the first failing test. -/
def stepAccept (k : RecordKey) (s : State) : State :=
  match s.record? k with
  | none => s
  | some r =>
      let qs := accessesOf r.runs
      match qs.findSome? (s.accessFailure r.kind.isWrite) with
      | some why => refuse k why s
      | none => stepRingOrder k (qs.foldl (acceptAccess k r.kind.isWrite) s)

/-! ## Key lookup (R35, R36, R39) -/

/-- Step 3, key lookup, and the re-check of a command in KeyWait, which repeats it (R35, R39, R97). A command refused Expired
or Locked keeps no capture, neither of this round nor of an earlier one. -/
def stepLookup (k : RecordKey) (s : State) : State :=
  match s.record? k with
  | none => s
  | some r =>
      match s.lookupRuns r.runs with
      | .refused why => refuseKey k why (mapRecord k (fun r => { r with runs := r.runs.map Run.uncaptured }) s)
      | .misses ids => missHandling k ids (mapRecord k (fun r => { r with runs := s.captureRuns r.runs }) s)
      | .captured => stepAccept k (endHold k (mapRecord k (fun r => { r with runs := s.captureRuns r.runs }) s))

/-! ## Classification and Drain (R12, R23, R96) -/

/-- The second-part record of an image of two ranges (R96). -/
def splitOf (host n : Nat) (i : Image) : Option Split :=
  i.second.map fun x => { host := host + i.first.count, count := n - i.first.count, disk := x.start, tag := none }

/-- The record with what its classification captured (R96). -/
def Record.classified (r : Record) (s : State) : Record :=
  let runs := s.classify r.host r.count
  let image := s.imageOf runs r.count
  { r with
    state := .classify
    runs := runs
    image := image
    split := image.bind (splitOf r.host r.count)
    counted := s.matchedEntries r.host r.count
    rings := liveRings runs }

/-- Step 2, classification (R12, R16, R46, R96). -/
def stepClassify (k : RecordKey) (s : State) : State :=
  match s.record? k with
  | none => s
  | some r =>
      let c := r.classified s
      match s.classifyFailure r.kind.isWrite r.host r.count c.runs with
      | some why => refuse k why s
      | none => stepLookup k (usersUp c.rings (countUp c.counted (mapRecord k (fun x => x.classified s) s)))

/-- Step 1, Drain (R23, R96). -/
def stepDrain (k : RecordKey) (s : State) : State :=
  match s.record? k with
  | none => s
  | some r =>
      bif s.meetsStaged r.host r.count then holdIn k .drain (setDrain (s.regions.drain ++ [k]) s)
      else stepClassify k s

/-- The steps of an accepted command (R94): Flush, Identify and PassNoData pass steps 8 and 9 alone. -/
def startSteps (k : RecordKey) (s : State) : State :=
  match s.record? k with
  | none => s
  | some r => bif r.kind.isData then stepDrain k s else stepSoleWait k s

end Sys2Proof.Machine
end

