-- ==== Sys2Proof/Machine/KeepUnit.lean ====
section
/-! DEFINITION. The Keep Unit's operations (chapter 7): the buffer request (R120, R139), the start, reads and writes of a
chunk (R141 to R145), the ways a job is stopped, truncated and ended (R146 to R151), and the drop of a chunk (R152). -/

namespace Sys2Proof.Machine

/-! ## The queue -/

/-- The Active job: the head of the Keep Queue (R137). -/
def State.activeJob (s : State) : Option Job := s.keep.queue.head?

/-- Changes the Active job. -/
def mapActive (f : Job → Job) (s : State) : State :=
  { s with keep := { s.keep with queue := match s.keep.queue with | j :: rest => f j :: rest | [] => [] } }

/-- Replaces the chunk in flight. -/
def setChunk (c : Option Chunk) (s : State) : State := { s with keep := { s.keep with chunk := c } }

/-- Replaces the buffer request. -/
def setRequest (q : Option KeepRequest) (s : State) : State := { s with keep := { s.keep with request := q } }

/-- The Outcome List entry of a job that ends (R133). -/
def Job.entry (j : Job) (o : JobOutcome) : OutcomeEntry :=
  { id := j.id, ring := j.ring, outcome := o, cursor := j.cursor, skipped := j.skipped }

/-- A job ends (R151): it leaves the queue, its entry is placed first in the Outcome List, and KeepEnded is latched. -/
def endJob (j : Job) (o : JobOutcome) (s : State) : State :=
  latch .keepEnded { s with keep := { s.keep with
    queue := s.keep.queue.filter fun x => decide (x.id ≠ j.id)
    outcomes := (j.entry o :: s.keep.outcomes).take Config.outcomePlaces } }

/-- The Active job, as it now stands, ends. -/
def endActive (o : JobOutcome) (s : State) : State :=
  match s.activeJob with
  | some j => endJob j o s
  | none => s

/-- The chunk in flight ends (R143, R144): its counts, its user count, its part tag and its buffers are given up, and the
phase becomes Idle. -/
def endChunk (s : State) : State :=
  match s.keep.chunk, s.activeJob with
  | some c, some j =>
      mapActive (fun j => { j with phase := .idle })
        (setChunk none (setTag c.tag none (usersDown [j.ring] (countDown c.counted (releaseOwner .keep s)))))
  | _, _ => s

/-! ## Stopping and truncating (R146 to R150) -/

/-- The Active job is given a stop outcome (R147); a job that is stopping already keeps its first one. -/
def stopActive (o : JobOutcome) (s : State) : State :=
  match s.activeJob with
  | none => s
  | some j =>
      bif j.stopOutcome.isSome then s
      else match s.keep.chunk, j.phase with
        | some _, .reading =>
            mapDown (fun c => c.user == .keep) (fun c => { c with discarding := true })
              (releaseOwner .keep (mapActive (fun j => { j with stopOutcome := some o }) s))
        | some _, .transforming => endActive o (endChunk s)
        | some _, .writing => mapActive (fun j => { j with stopOutcome := some o }) s
        | _, _ => endActive o (withdrawRequest s)

/-- The job of an id is given a stop outcome (R147): a Queued job ends at once. -/
def stopJob (o : JobOutcome) (s : State) (id : Nat) : State :=
  match s.keep.queue with
  | [] => s
  | j :: rest =>
      bif j.id == id then stopActive o s
      else match rest.find? fun x => x.id == id with
        | some x => endJob x o s
        | none => s

/-- Every job that satisfies a test is given a stop outcome, in queue order (R149). -/
def stopJobs (p : Job → Bool) (o : JobOutcome) (s : State) : State :=
  ((s.keep.queue.filter p).map Job.id).foldl (stopJob o) s

/-- A job's end is lowered (R150). -/
def lowerEnd (id upto : Nat) (s : State) : State :=
  { s with keep := { s.keep with
      queue := s.keep.queue.map fun x => bif x.id == id then { x with upto := min x.upto upto } else x } }

/-- One job still blocking a write whose Overrun timer has expired is truncated (R150). -/
def truncateJob (s : State) (id : Nat) : State :=
  match s.keep.queue with
  | [] => s
  | j :: rest =>
      bif j.id == id then
        bif j.stopOutcome.isSome then s
        else match s.keep.chunk, j.phase with
          | some _, .reading => stopActive .truncated (lowerEnd id j.cursor s)
          | some c, .transforming => lowerEnd id (j.cursor + c.count) s
          | some c, .writing => lowerEnd id (j.cursor + c.count) s
          | _, _ => stopActive .truncated (lowerEnd id j.cursor s)
      else match rest.find? fun x => x.id == id with
        | some x => endJob x .truncated (lowerEnd id x.start s)
        | none => s

/-! ## The next chunk (R139) -/

/-- The extent that holds the `i`-th destination sector, and the place in it (R131). -/
def extentAt : List Extent → Nat → Option (Extent × Nat)
  | [], _ => none
  | e :: es, i => if i < e.count then some (e, i) else extentAt es (i - e.count)

/-- The destination of the job's cursor: its host-view LBA, its disk LBA, and the sectors left in its extent. -/
def Job.target (j : Job) : Option (Nat × Nat × Nat) :=
  (extentAt j.extents (j.cursor - j.start)).map fun e => (e.1.host + e.2, e.1.disk + e.2, e.1.count - e.2)

/-- The length of the job's next chunk (R139). -/
def State.chunkLength (s : State) (j : Job) : Nat :=
  let r := s.ring j.ring
  let left := match j.target with | some (_, _, n) => n | none => 0
  min (min Config.burstSectors (j.upto - j.cursor)) (min (r.span - j.cursor % r.span) left)

/-- The idle gate is open for the Active job (R138): the choice g = 8, the gate itself, or a write held in Overrun that
counts the job among its blocking jobs. -/
def State.gateFor (s : State) (j : Job) : Bool :=
  decide (s.line.profile.gate = 8) || s.keep.gateOpen || s.tracker.overrun.any fun k => s.blocks k j

/-- The Drive Port is Ready or Asleep (R82, R139). -/
def State.driveUsable (s : State) : Bool :=
  match s.drive.link with
  | .ready => true
  | .asleep _ => true
  | _ => false

/-- The six conditions of R139 for placing the job's buffer request. -/
def State.mayPlace (s : State) (j : Job) : Bool :=
  j.stopOutcome.isNone && decide (j.cursor < j.upto) && s.keep.chunk.isNone && s.keep.request.isNone && !s.soleStanding
    && s.gateFor j && s.freePartTag.isSome && s.tracker.tagWait.isEmpty && s.driveUsable

/-- Places the Active job's buffer request when R139 holds: Free buffers are set aside, up to its length (R120). -/
def placeRequest? (s : State) : Option State :=
  match s.activeJob with
  | none => none
  | some j =>
      bif s.mayPlace j then
        let n := s.chunkLength j
        let s := setRequest (some { count := n, met := false }) s
        some (((s.buffersWhere fun b => b.state == .free).take (min n s.keepRoom)).foldl (fun s i => setBuffer i Buffer.aside s) s)
      else none

/-- A Taken buffer of the keep chunk that is about to start (R120). -/
def Buffer.takenForKeep : Buffer := { Buffer.empty with state := .taken, cls := some .keep, owner := .keep }

/-- The buffer request is met: every buffer set aside becomes Taken (R120). -/
def requestMet? (s : State) : Option State :=
  match s.keep.request with
  | none => none
  | some q =>
      bif !q.met && decide (q.count ≤ s.setAsideBuffers) then
        some ((s.buffersWhere fun b => b.state == .setAside).foldl (fun s i => setBuffer i Buffer.takenForKeep s)
          (setRequest (some { q with met := true }) s))
      else none

/-! ## The chunk sequence (R141 to R145) -/

/-- The source segments that hold an offset of `[u, u + n)`, oldest first (R141). -/
def segmentsHolding (u n : Nat) : List Epoch → List Epoch
  | [] => []
  | [e] => bif decide (e.start < u + n) then [e] else []
  | e :: f :: rest =>
      bif rangesMeet e.start f.start u (u + n) then e :: segmentsHolding u n (f :: rest) else segmentsHolding u n (f :: rest)

/-- What a chunk's key query gives (R141): the pair, or the reason the job fails. -/
def State.chunkKey (s : State) (id : ProgId) : Except FailReason Capture :=
  match s.keepQuery id with
  | .live c .keepAllowed => .ok c
  | .live _ .keepNever => .error .keepRule
  | .expired => .error .expired
  | .absent => .error .keyLost

/-- The source pairs of a chunk: each segment's start with its pair; the first query that fails gives the reason (R141). -/
def State.sourceKeys (s : State) : List Epoch → Except FailReason (List (Nat × Capture))
  | [] => .ok []
  | e :: rest =>
      match s.chunkKey e.id with
      | .error r => .error r
      | .ok c =>
          match s.sourceKeys rest with
          | .error r => .error r
          | .ok cs => .ok ((e.start, c) :: cs)

/-- The source pair of an offset: that of the latest segment whose start is at or below it (R131). -/
def pairOf (sources : List (Nat × Capture)) (v : Nat) : Option Capture :=
  ((sources.filter fun e => decide (e.1 ≤ v)).getLast?).map Prod.snd

/-- The destination sectors `[h, h + n)` meet the conditions 2 to 5 of R135 for a programme id, and each has the disk LBA
that continues from `disk` (R135, condition 6, and R141). -/
def State.destinationFits (s : State) (id : ProgId) (h n disk : Nat) : Bool :=
  (s.pieces h n).all fun p =>
    let c := s.classOf p.1
    c.kind == .programme && c.id == some id && !s.writeBarred p.1 && c.disk == some (disk + (p.1 - h))
      && !s.meetsSpan none (disk + (p.1 - h)) (disk + (p.1 - h) + p.2)

/-- The keys of a chunk, or the reason its start fails (R141, steps 1 and 2). -/
def State.chunkKeys (s : State) (j : Job) (h disk n : Nat) : Except FailReason (List (Nat × Capture) × Capture) :=
  match s.sourceKeys (segmentsHolding j.cursor n j.segments) with
  | .error r => .error r
  | .ok sources =>
      match s.chunkKey j.destination with
      | .error r => .error r
      | .ok target => bif s.destinationFits j.destination h n disk then .ok (sources, target) else .error .mismatch

/-- The chunk's Taken buffers get their places: destination LBA, source tweak and source pair (R142). -/
def placeBuffers (j : Job) (h : Nat) (sources : List (Nat × Capture)) : Nat → List Nat → State → State
  | _, [], s => s
  | p, i :: rest, s =>
      placeBuffers j h sources (p + 1) rest
        (setBuffer i { Buffer.takenForKeep with
          lba := h + p, treatment := .protect, srcTweak := j.sourceBase + (j.cursor + p),
          srcPair := pairOf sources (j.cursor + p) } s)

/-- A downstream command of the keep chunk. -/
def keepCommand (tag : Nat) (op : DownOp) (disk count host : Nat) : DownCmd :=
  { tag := some tag, user := .keep, op := op, disk := disk, count := count, host := host, frame := [], passed := 0,
    asked := 0, broken := false, discarding := false }

/-- The chunk starts on a granted part tag (R141), or its start fails and the job ends. -/
def startChunk (j : Job) (n t : Nat) (s : State) : State :=
  match j.target with
  | none => endActive (.failed .mismatch) (withdrawRequest s)
  | some (h, disk, _) =>
      match s.chunkKeys j h disk n with
      | .error r => endActive (.failed r) (withdrawRequest s)
      | .ok (sources, target) =>
          let counted := s.matchedEntries h n
          let chunk : Chunk :=
            { count := n, tag := t, sources := sources, target := target, counted := counted, readEnded := false,
              zeroSource := false }
          let s := placeBuffers j h sources 0 (s.buffersWhere fun b => b.owner == .keep) s
          let s := mapActive (fun j => { j with phase := .reading }) (setChunk (some chunk) (setRequest none s))
          let s := setTag t (some .keep) (usersUp [j.ring] (countUp counted s))
          handOver (keepCommand t .read ((s.ring j.ring).fold j.cursor) n h) s

/-- The chunk starts when its request is met and the Drive Port can grant a part tag (R82, R139). -/
def chunkStart? (s : State) : Option State :=
  match s.activeJob, s.keep.request, s.freePartTag with
  | some j, some q, some t =>
      bif q.met && s.tracker.tagWait.isEmpty && s.driveUsable && s.keep.chunk.isNone then some (startChunk j q.count t s)
      else none
  | _, _, _ => none

/-- The destination write is issued when the source read has ended and every buffer of the chunk is Done (R142). -/
def destinationWrite? (s : State) : Option State :=
  match s.activeJob, s.keep.chunk with
  | some j, some c =>
      match j.target with
      | some (h, disk, _) =>
          bif j.phase == .transforming
              && decide (s.bufferCount (fun b => b.owner == .keep && b.state == .done) = c.count) then
            some (handOver (keepCommand c.tag .write disk c.count h) (mapActive (fun j => { j with phase := .writing }) s))
          else none
      | none => none
  | _, _ => none

/-- The chunk is marked zero source (R123, R145): its buffers take the treatment zero source and rejoin the Keep queue's tail
in destination order; one in a grant rejoins when the grant ends. -/
def markZeroSource (s : State) : State :=
  let own := s.buffersWhere fun b => b.owner == .keep
  let s := own.foldl (fun s i =>
    mapBuffer i (fun b => { b with state := .queued, treatment := .zeroSource, data := zeroSector }) s) s
  let s := own.foldl (fun s i => bif s.inGrant i then setGrantFate .requeue s else joinQueue .keep i (withdrawFromQueues i s)) s
  setChunk (s.keep.chunk.map fun c => { c with zeroSource := true }) s

/-- The source read has ended and the job goes on: the phase becomes Transforming (R142, R145). -/
def readDone (s : State) : State :=
  mapActive (fun j => { j with phase := .transforming })
    (setChunk (s.keep.chunk.map fun c => { c with readEnded := true }) s)

/-- The Keep Unit takes the end of the source read (R142, R144 to R147). -/
def keepReadEnded (good : Bool) (s : State) : State :=
  match s.activeJob, s.keep.chunk with
  | some j, some _ =>
      match j.stopOutcome with
      | some o => endActive o (endChunk s)
      | none =>
          bif good then readDone s
          else match j.policy with
            | .halt => endActive (.failed .diskError) (endChunk s)
            | .skip => markZeroSource (readDone s)
  | _, _ => s

/-- How the Active job goes on once its destination write has ended and its chunk is over (R143 to R145, R147). -/
def afterWrite (good : Bool) (s : State) : State :=
  match s.activeJob with
  | none => s
  | some j =>
      match j.stopOutcome with
      | some o => endActive o s
      | none =>
          bif !good && j.policy == .halt then endActive (.failed .diskError) s
          else bif decide (j.cursor = j.upto) then
            endActive (if j.upto = j.acceptedUpto then .finished else .truncated) s
          else s

/-- The Keep Unit takes the end of the destination write (R143 to R145, R147): the cursor advances when it is Good or the
policy is Skip, and the skipped count grows for a chunk that met an error. Where the write's end both brings a count to 0 and
ends the job, the job leaves the Keep Queue before the definition is applied and drained commands are classified: DESIGN
CHOICE, assumption log entry 43. -/
def keepWriteEnded (good : Bool) (s : State) : State :=
  match s.activeJob, s.keep.chunk with
  | some j, some c =>
      let advance := good || j.policy == .skip
      let skip := c.zeroSource || (!good && j.policy == .skip)
      afterWrite good (mapActive (fun j =>
        { j with
          cursor := bif advance then j.cursor + c.count else j.cursor
          skipped := bif skip then j.skipped + c.count else j.skipped }) (endChunk s))
  | _, _ => s

/-- A link reset drops the keep chunk in flight (R152); its job ends when it is stopping, or when its end was lowered to the
chunk's end, and otherwise stays Active. -/
def dropChunk (s : State) : State :=
  match s.activeJob, s.keep.chunk with
  | some j, some c =>
      let s := endChunk (removeDown (fun c => c.user == .keep) s)
      match j.stopOutcome with
      | some o => endActive o s
      | none =>
          bif j.phase != .reading && decide (j.upto ≠ j.acceptedUpto) && decide (j.upto = j.cursor + c.count) then
            endActive .truncated (lowerEnd j.id j.cursor s)
          else s
  | _, _ => s

end Sys2Proof.Machine
end

