-- ==== Sys2Proof/Machine/Transfer.lean ====
section
/-! DEFINITION. The data of commands in flight: the ends of downstream parts (R84, R103, R104, R106, R108), the frames the
disk sends (R84, R102, R118), the frames sent to the disk (R83, R122), the second part of a split (R105) and the decision of
a completion (R107). -/

namespace Sys2Proof.Machine

/-! ## Parts and the delivery limit -/

/-- The failing host LBA of a part that ended with an error. -/
def PartStatus.failing? : PartStatus → Option Nat
  | .error lba _ => some lba
  | _ => none

/-- The part has ended, Good or with an error. -/
def PartStatus.ended : PartStatus → Bool
  | .good => true
  | .error _ _ => true
  | _ => false

/-- The lowest failing host LBA of a record's parts, with the disk's error byte (R106, R107). -/
def Record.failure (r : Record) : Option (Nat × Byte) :=
  match r.part1, r.part2 with
  | .error a x, .error b y => some (if b < a then (b, y) else (a, x))
  | .error a x, _ => some (a, x)
  | _, .error b y => some (b, y)
  | _, _ => none

/-- The delivery limit of a read (R104). -/
def Record.limit (r : Record) : Nat :=
  match r.failure with
  | some (lba, _) => lba
  | none => r.host + r.count

/-- The kind delivers data upstream. -/
def HostKind.delivers : HostKind → Bool
  | .identify => true
  | k => k.isRead

/-- The first key-lost field after a read's limit moved: a field at or above the limit becomes absent (R104). -/
def keepBelow (limit : Nat) (x : Option (Nat × LostReason)) : Option (Nat × LostReason) :=
  x.filter fun e => decide (e.1 < limit)

/-- The host LBAs of one part of a record: `[lo, hi)`. -/
def Record.partRange (r : Record) (second : Bool) : Nat × Nat :=
  match r.split with
  | some x => bif second then (x.host, x.host + x.count) else (r.host, x.host)
  | none => (r.host, r.host + r.count)

/-- A buffer of the record and part that the error of a write part releases unsent: one whose sector has arrived. -/
def unsentOf (k : RecordKey) (lo hi : Nat) (b : Buffer) : Bool :=
  b.owner == .record k && decide (lo ≤ b.lba) && decide (b.lba < hi)

/-- The sectors invited for a withdrawn exchange are discarded as they arrive (R103, R119). -/
def discardInvited (k : RecordKey) (lo hi : Nat) (s : State) : State :=
  (s.buffersWhere fun b => unsentOf k lo hi b && b.state == .taken).foldl
    (fun s i => mapBuffer i (fun b => { b with discard := true }) s) s

/-- A write-data request outlives the end of a part when it is not that part's (R103, R106): the second part of a split may
hold one when the first part ends. -/
def outsidePart (lo hi : Nat) (q : WriteRequest) : Bool := decide (q.first < lo) || decide (hi ≤ q.first)

/-- The data of a part that ended with an error: of a read, the sectors at or above the delivery limit are released
undelivered (R104); of a write, the part's request is withdrawn and its sectors are released unsent (R103). -/
def dropFailedData (k : RecordKey) (second : Bool) (s : State) : State :=
  match s.record? k with
  | none => s
  | some r =>
      bif r.kind.delivers then
        releaseWhere (fun b => b.owner == .record k && decide (r.limit ≤ b.lba))
          (mapRecord k (fun r => { r with firstLost := keepBelow r.limit r.firstLost }) s)
      else
        let p := r.partRange second
        releaseWhere (fun b => unsentOf k p.1 p.2 b && b.state != .taken)
          (discardInvited k p.1 p.2 (mapRecord k (fun r => { r with request := r.request.filter (outsidePart p.1 p.2) }) s))

/-- The split's part tag is released when the first part's error prevents the second part (R106). -/
def releaseSplitTag (k : RecordKey) (s : State) : State :=
  match s.record? k with
  | some r =>
      match r.part2, r.split with
      | .notIssued, some x =>
          mapRecord k (fun r => { r with split := r.split.map fun x => { x with tag := none } }) (freeTag x.tag s)
      | _, _ => s
  | none => s

/-- A downstream part of a host command has ended (R106). -/
def partEnded (k : RecordKey) (second : Bool) (st : PartStatus) (s : State) : State :=
  let s := mapRecord k (fun r => bif second then { r with part2 := st } else { r with part1 := st }) s
  match st with
  | .error _ _ => (bif second then id else releaseSplitTag k) (dropFailedData k second s)
  | _ => s

/-! ## Ends of downstream commands (R84, R108) -/

/-- The host LBA of a command's sector that had not fully passed; past its last sector, its first host LBA (R84, R108: DEDUCED,
assumption log entry 50). -/
def DownCmd.failHost (c : DownCmd) : Nat := if c.passed < c.count then c.host + c.passed else c.host

/-- The host LBA that a reported disk LBA maps back to, for a command whose data had fully passed (R108). -/
def DownCmd.mapBack (c : DownCmd) (lba : Nat) : Nat :=
  if c.disk ≤ lba ∧ lba < c.disk + c.count then c.host + (lba - c.disk) else c.host

/-- How a downstream command ended: an error at its first sector not yet fully passed when its data has not all passed or it
has failed under R84, whatever the status; else what the disk reported. The error byte of a command that failed under R84 is
that of the end event, also where its status is good. DESIGN CHOICE, assumption log entry 49. -/
def DownCmd.result (c : DownCmd) (good : Bool) (error : Byte) (lba : Nat) : PartStatus :=
  if c.broken || decide (c.passed < c.count) then .error c.failHost error
  else bif good then .good
  else .error (c.mapBack lba) error

/-- Passes the end of a downstream command to its user (R84). -/
def endToUser (c : DownCmd) (st : PartStatus) (s : State) : State :=
  match c.user with
  | .hostFirst k => partEnded k false st s
  | .hostSecond k => partEnded k true st s
  | .keep => (bif c.op == .read then keepReadEnded else keepWriteEnded) (st == .good) s

/-- A write data frame ends with its downstream command. -/
def stopSending (tag : Option Nat) (s : State) : State :=
  match s.drive.sending with
  | some x => bif x.tag == tag then { s with drive := { s.drive with sending := none } } else s
  | none => s

/-- The tag of an ended command is freed; a keep chunk's tag is held until the chunk ends (R81). -/
def freeEndedTag (c : DownCmd) (s : State) : State := bif c.user == .keep then s else freeTag c.tag s

/-- An outstanding downstream command ends (R84): it leaves the Drive Port, its tag is freed and its user is told. -/
def endDown (c : DownCmd) (st : PartStatus) (s : State) : State :=
  let s := { s with drive := { s.drive with outstanding := s.drive.outstanding.filter fun x => !(x.tag == c.tag) } }
  endToUser c st (freeEndedTag c (stopSending c.tag s))

/-- The record of a downstream user. -/
def TagUser.record? : TagUser → Option RecordKey
  | .hostFirst k => some k
  | .hostSecond k => some k
  | .keep => none

/-- The outstanding downstream commands in the acceptance order of their records, the keep chunk's last (R80). -/
def State.outstandingInOrder (s : State) : List DownCmd :=
  (s.tracker.records.flatMap fun r => s.drive.outstanding.filter fun c => c.user.record? == some r.key)
    ++ s.drive.outstanding.filter fun c =>
      match c.user.record? with | some k => (s.record? k).isNone | none => true

/-- A failure ends every outstanding downstream command at its first sector not yet fully passed (R84, R113). -/
def failAll (error : Byte) (s : State) : State :=
  s.outstandingInOrder.foldl (fun s c => endDown c (.error c.failHost error) s) s

/-- The loss of the disk ends every outstanding downstream command (R86); the disk reports no error byte, so each gets a free
value. -/
def failLost (s : State) : State :=
  s.outstandingInOrder.foldl
    (fun s c => endDown c (.error c.failHost (Config.missingErrorByte s.fresh)) { s with fresh := s.fresh + 1 }) s

/-! ## Frames from the disk -/

/-- The outstanding downstream command on a tag. -/
def State.outstandingOn (s : State) (tag : Option Nat) : Option DownCmd :=
  s.drive.outstanding.find? fun c => c.tag == tag

/-- Changes the outstanding downstream command on a tag. -/
def mapOutstanding (tag : Option Nat) (f : DownCmd → DownCmd) (s : State) : State :=
  { s with drive := { s.drive with outstanding := s.drive.outstanding.map fun c => bif c.tag == tag then f c else c } }

/-- Replaces the frames from the disk that wait in the Drive Port. -/
def setInbox (l : List DiskFrame) (s : State) : State := { s with drive := { s.drive with inbox := l } }

/-- The command on a tag has failed under R84: its further data events are discarded. Such a write sends no more of the sectors
that the disk had asked for, while its record goes on inviting and taking upstream data until its end. DESIGN CHOICE,
assumption log entry 48. -/
def breakCommand (tag : Option Nat) (s : State) : State :=
  mapOutstanding tag (fun c => { c with broken := true }) (stopSending tag s)

/-- The run that holds a host LBA. -/
def Record.runAt (r : Record) (lba : Nat) : Option Run :=
  r.runs.find? fun x => decide (x.first ≤ lba) && decide (lba < x.first + x.count)

/-- The treatment of a host sector comes from the run that holds it (R118); the Identify sector bypasses the engine. -/
def Record.treatment (r : Record) (lba : Nat) : Treatment :=
  match r.runAt lba with
  | some x => bif x.protectedId.isSome then .protect else .clear
  | none => .clear

/-- One sector of a host read is taken into a Free buffer (R118): a protected one joins the Read queue, a Clear one is Done.
A sector at or above the delivery limit is released at once (R104). -/
def takeReadSector (k : RecordKey) (lba : Nat) (data : Sector) (i : Nat) (r : Record) (s : State) : State :=
  bif decide (r.limit ≤ lba) then s
  else
    let b : Buffer := { Buffer.empty with cls := some .hostRead, owner := .record k, lba := lba, data := data }
    match r.treatment lba with
    | .protect => joinQueue .hostRead i (setBuffer i { b with state := .queued, treatment := .protect } s)
    | _ => setBuffer i { b with state := .done, treatment := .clear } s

/-- One sector of the keep chunk's source read fills its buffer and joins the Keep queue (R118, R142). -/
def takeKeepSector (lba : Nat) (data : Sector) (s : State) : State :=
  match s.bufferOf .keep lba (fun b => b.state == .taken) with
  | some i => joinQueue .keep i (mapBuffer i (fun b => { b with state := .queued, data := data }) s)
  | none => s

/-- One sector's data has passed the Drive Port. -/
def countPassed (tag : Option Nat) (s : State) : State :=
  mapOutstanding tag (fun c => { c with passed := c.passed + 1 }) s

/-- One more sector counts as passed the Drive Port for its record (R102, R104). -/
def countDownData (k : RecordKey) (s : State) : State := mapRecord k (fun r => { r with downCount := r.downCount + 1 }) s

/-- The first sector of a data frame that continues its command is taken: `none` while there is no room (R118). -/
def takeSector (c : DownCmd) (data : Sector) (s : State) : Option State :=
  match c.user.record? with
  | none => some (takeKeepSector (c.host + c.passed) data (countPassed c.tag s))
  | some k =>
      match s.record? k, s.freeBuffer with
      | some r, some i =>
          bif decide (s.hostRoom .hostRead = 0) then none
          else some (takeReadSector k (c.host + c.passed) data i r (countDownData k (countPassed c.tag s)))
      | none, _ => some (countPassed c.tag s)
      | _, none => none

/-- The head of the inbox is a data frame (R84, R118): one sector of it is taken, or the frame is discarded. -/
def takeData (tag : Option Nat) (offset : Nat) (sectors : List Sector) (rest : List DiskFrame) (s : State) : Option State :=
  match s.outstandingOn tag, sectors with
  | none, _ => some (setInbox rest s)
  | some _, [] => some (setInbox rest s)
  | some c, x :: xs =>
      bif c.broken || c.discarding then some (setInbox rest s)
      else bif c.op == .write || c.op == .noData || decide (c.passed ≠ offset) || decide (c.count ≤ c.passed) then
        some (setInbox rest (breakCommand tag s))
      else (takeSector c x s).map fun s =>
        setInbox (match xs with | [] => rest | _ => .data tag (offset + 1) xs :: rest) s

/-- The disk asks for write data (R84, R102). A request that the disk may not make (of no sectors, beyond the command, or
before it has received what it asked for) is discarded: DESIGN CHOICE, assumption log entry 8. -/
def takeWriteRequest (tag : Option Nat) (n : Nat) (s : State) : State :=
  match s.outstandingOn tag with
  | none => s
  | some c =>
      bif c.broken then s
      else bif !(c.op == .write) then breakCommand tag s
      else bif decide (n = 0) || decide (c.count < c.asked + n) || decide (c.asked ≠ c.passed) then s
      else
        let s := mapOutstanding tag (fun c => { c with asked := c.asked + n }) s
        match c.user.record? with
        | some k => mapRecord k (fun r => { r with request := some { first := c.host + c.passed, count := n, invited := 0 } }) s
        | none => s

/-- The disk reports the end of the command on a tag (R84). -/
def takeEnd (tag : Option Nat) (good : Bool) (error : Byte) (lba : Nat) (s : State) : State :=
  match s.outstandingOn tag with
  | none => s
  | some c => endDown c (c.result good error lba) s

/-- Takes a frame from the disk, or one sector of it, before the frames that wait after it: `none` when the frame is held for
room (R118). -/
def takeOne (f : DiskFrame) (rest : List DiskFrame) (s : State) : Option State :=
  match f with
  | .data tag offset sectors => takeData tag offset sectors rest s
  | .writeRequest tag n => some (takeWriteRequest tag n (setInbox rest s))
  | .commandEnd tag good error lba => some (takeEnd tag good error lba (setInbox rest s))
  | .failure error => some (failAll error (setInbox rest s))

/-- Takes the first waiting frame from the disk, or one sector of it: `none` when nothing waits or the frame is held. -/
def takeFrame? (s : State) : Option State :=
  match s.drive.inbox with
  | [] => none
  | f :: rest => takeOne f rest s

/-! ## Frames to the disk -/

/-- The Drive Port wakes a sleeping downstream link when it has a command frame to send (R85). -/
def wakeDrive? (s : State) : Option State :=
  match s.drive.link, s.drive.issueOrder with
  | .asleep _, _ :: _ => some (emitDown .wake { s with drive := { s.drive with link := .ready } })
  | _, _ => none

/-- The downstream link is free for the part to send on: no data frame of the disk is held (R118) and no write data frame is
in progress (R122). -/
def State.linkFree (s : State) : Bool := s.drive.inbox.isEmpty && s.drive.sending.isNone

/-- The Drive Port sends the first command of its issue order (R83); a non-queued one only when no queued one is outstanding. -/
def sendCommand? (s : State) : Option State :=
  match s.drive.link, s.drive.issueOrder with
  | .ready, c :: rest =>
      bif s.linkFree && (c.tag.isSome || s.drive.outstanding.all fun x => x.tag.isNone) then
        some (emitDown (.command c.tag c.op c.disk c.count c.frame)
          { s with drive := { s.drive with issueOrder := rest, outstanding := s.drive.outstanding ++ [c] } })
      else none
  | _, _ => none

/-- The owner of the buffers of a downstream command. -/
def DownCmd.owner (c : DownCmd) : Owner :=
  match c.user.record? with
  | some k => .record k
  | none => .keep

/-- The buffer of a write's next sector, when it is ready to leave and the disk has asked for it (R122). -/
def State.nextSector (s : State) (c : DownCmd) : Option Nat :=
  bif c.op == .write && !c.broken && decide (c.passed < c.asked) then
    s.bufferOf c.owner (c.host + c.passed) (fun b => b.state == .done)
  else none

/-- The length of a write data frame that begins: the consecutive sectors asked for that have buffers. DESIGN CHOICE,
assumption log entry 9. -/
def State.frameLength (s : State) (c : DownCmd) : Nat :=
  ((List.range (c.asked - c.passed)).takeWhile fun j => (s.bufferOf c.owner (c.host + (c.passed + j)) fun _ => true).isSome).length

/-- The write data frame in progress after one more of its sectors is sent. -/
def State.sendingAfter (s : State) (c : DownCmd) : Option Sending :=
  let left := match s.drive.sending with | some x => x.left - 1 | none => s.frameLength c - 1
  if left = 0 then none else some { tag := c.tag, left := left }

/-- The write whose data the Drive Port sends next: that of the frame in progress, else the first with a sector ready to
leave. -/
def State.sendable (s : State) : Option (DownCmd × Nat) :=
  let candidates : List DownCmd := match s.drive.sending with
    | some x => s.drive.outstanding.filter fun c => c.tag == x.tag
    | none => s.drive.outstanding
  candidates.findSome? fun c => (s.nextSector c).map fun i => (c, i)

/-- One sector ready to leave is sent to the disk and its buffer released (R121, R122). -/
def sendSector? (s : State) : Option State :=
  bif s.drive.link == .ready && s.drive.inbox.isEmpty then
    match s.sendable with
    | none => none
    | some (c, i) =>
        let next := s.sendingAfter c
        let s := emitDown (.writeData c.tag (c.disk + c.passed) (s.buffer i).data) s
        let s := releaseBuffer i (countPassed c.tag { s with drive := { s.drive with sending := next } })
        some (match c.user.record? with | some k => countDownData k s | none => s)
  else none

/-! ## The second part of a split (R105) -/

/-- The second part may be issued: the first part's data has fully passed, or a sole split's first part ended Good. -/
def Record.secondDue (r : Record) : Bool :=
  match r.split with
  | none => false
  | some x =>
      r.state == .issued && r.part2 == .notIssued
        && bif r.key == .sole then r.part1 == .good
           else r.part1.failing?.isNone && decide (x.host - r.host ≤ r.downCount)

/-- The second downstream command of a record (R105). -/
def Record.secondCommand (r : Record) (x : Split) : DownCmd :=
  { tag := x.tag, user := .hostSecond r.key, op := bif r.kind.isWrite then .write else .read, disk := x.disk,
    count := x.count, host := x.host, frame := [], passed := 0, asked := 0, broken := false, discarding := false }

/-- The second part is handed to the Drive Port (R105). -/
def secondPart? (k : RecordKey) (s : State) : Option State :=
  match s.record? k with
  | none => none
  | some r =>
      match r.split with
      | none => none
      | some x =>
          bif r.secondDue then
            some (handOver (r.secondCommand x) (mapRecord k (fun r => { r with part2 := .outstanding }) s))
          else none

/-! ## The decision of a completion (R107) -/

/-- A sector of the record is in the grant in progress. -/
def State.grantOf (s : State) (k : RecordKey) : Bool :=
  match s.engine.grant.bind Grant.buffer with
  | some i => (s.buffer i).owner == .record k
  | none => false

/-- Every issued part has ended, and no part is still to be issued. -/
def Record.partsEnded (r : Record) : Bool :=
  r.part1.ended && !(r.part2 == .outstanding) && !(r.split.isSome && r.part1 == .good && r.part2 == .notIssued)

/-- The conditions of R107 for the record's completion. -/
def Record.decided (r : Record) (grant : Bool) : Bool :=
  r.state == .issued &&
  match r.kind with
  | .read | .soleRead => r.partsEnded && decide (r.limit ≤ r.host + r.upCount) && !grant
  | .write | .soleWrite => r.partsEnded && r.request.isNone && decide (r.upCount = r.invited) && !grant
  | .identify => r.part1.failing?.isSome || (r.part1 == .good && decide (1 ≤ r.upCount))
  | .flush | .passNoData => r.part1.ended

/-- The outcome of an issued command, in the order of R107. -/
def Record.outcomeOf (r : Record) : HostOutcome :=
  match r.firstLost, r.failure with
  | some (lba, why), _ => .lost why lba
  | none, some (lba, e) => .diskError e (bif r.kind.isData then some lba else none)
  | none, none => .good

/-- The record becomes Due when its completion is decided (R107). -/
def decide? (k : RecordKey) (s : State) : Option State :=
  match s.record? k with
  | none => none
  | some r => bif r.decided (s.grantOf k) then some (becomeDue k r.outcomeOf s) else none

end Sys2Proof.Machine
end

