-- ==== Sys2Proof/Machine/Settle.lean ====
section
/-! DEFINITION. What the rules place within the same event: the internal steps that become due when an event changes the
state (R22, R39, R66, R68, R74, R82, R85, R95, R100, R105, R107, R120, R139, R141, R142). Each is a partial function of the
state; `settle` takes them, in the order of `internalStep`, until none is due. The rows of the command table that name such
a step run the same function. -/

namespace Sys2Proof.Machine

/-! ## Region changes and the Drain list (R22) -/

/-- The entry with its pending definition applied (R22). -/
def RegionEntry.applied (e : RegionEntry) : RegionEntry :=
  match e.staged with
  | some (.define d) => { e with active := some d, staged := none }
  | some .vacate => { e with active := none, staged := none }
  | none => e

/-- The pending definition of an entry whose count is 0 is applied (R22). -/
def applyPending? (i : Nat) (s : State) : Option State :=
  bif (s.entry i).staged.isSome && decide ((s.entry i).inFlight = 0) then some (mapEntry i RegionEntry.applied s) else none

/-- A drained command that meets no staged entry any more leaves the Drain list and is classified (R22). -/
def drainRelease? (k : RecordKey) (s : State) : Option State :=
  match s.record? k with
  | none => none
  | some r =>
      bif s.regions.drain.contains k && !s.meetsStaged r.host r.count then
        some (stepClassify k (holdIn k .classify (setDrain (s.regions.drain.filter (· != k)) s)))
      else none

/-! ## Releases of holds -/

/-- A command in KeyWait repeats its lookup once an id it waits for has a slot (R39). -/
def keywaitRecheck? (k : RecordKey) (s : State) : Option State :=
  match s.record? k with
  | none => none
  | some r =>
      bif s.tracker.keyWait.contains k && r.awaited.any (fun id => (s.slotOf id).isSome) then some (stepLookup k s) else none

/-- A command in RingOrder goes on when the last access it waits for has left (R66). -/
def ringorderRelease? (k : RecordKey) (s : State) : Option State :=
  match s.record? k with
  | none => none
  | some r =>
      bif s.tracker.ringOrder.contains k && r.waitsFor.isEmpty then some (stepOverrun k (endHold k s)) else none

/-- A write held in Overrun goes on when no uncopied range meets its overwritten range, or when its timer has expired (R68,
R69). -/
def overrunRelease? (k : RecordKey) (s : State) : Option State :=
  match s.record? k with
  | none => none
  | some r =>
      bif s.tracker.overrun.contains k && (r.timer.isNone || !s.blocked k) then some (stepTagWait k (endHold k s)) else none

/-- A free part tag is granted to the oldest record in TagWait (R82). -/
def tagwaitGrant? (s : State) : Option State :=
  match s.tracker.tagWait, s.freePartTag with
  | k :: _, some t => some (stepSoleWait k (grantPartTag k t (endHold k s)))
  | _, _ => none

/-- The sole command in SoleWait goes on to issue when no keep chunk is in flight (R100). -/
def solewaitRelease? (s : State) : Option State :=
  match s.record? .sole with
  | none => none
  | some r =>
      bif r.state == .soleWait && s.keep.chunk.isNone then some (stepIssue .sole (endHold .sole s)) else none

/-! ## The System Port -/

/-- The System Port leaves NotReady once Loading has ended and the Drive Port is Ready (R74). -/
def systemPortReady? (s : State) : Option State :=
  bif s.sys.link == .notReady && !s.sys.loading && s.drive.link == .ready then
    some (emitUp (.signature s.drive.signature) { s with sys := { s.sys with link := .ready } })
  else none

/-- A read delivers its sectors as they are ready, and an Identify its sector once the disk has ended the command with good
status, since none is delivered when the disk ends it with an error (R78, R104): DEDUCED, assumption log entry 45. -/
def Record.mayDeliver (r : Record) : Bool := r.kind.isRead || r.kind == .identify && r.part1 == .good

/-- The next buffer of a read that is ready for delivery (R78, R80, R122). -/
def State.readyRead (s : State) (r : Record) : Option Nat :=
  bif r.state == .issued && r.mayDeliver && decide (r.host + r.upCount < r.limit) then
    s.bufferOf (.record r.key) (r.host + r.upCount) (fun b => b.state == .done)
  else none

/-- A write's data exchange is ready (R119). -/
def State.readyWrite (s : State) (r : Record) : Bool :=
  match r.request with
  | some q => decide (q.invited < q.count) && decide (0 < s.hostRoom .hostWrite)
  | none => false

/-- The record has a data exchange ready (R80). -/
def State.exchangeReady (s : State) (r : Record) : Bool := (s.readyRead r).isSome || s.readyWrite r

/-- The System Port wakes a sleeping upstream link when it has something to send (R85). -/
def wakeSystem? (s : State) : Option State :=
  match s.sys.link with
  | .asleep _ =>
      bif !s.sys.sendOrder.isEmpty || s.tracker.records.any s.exchangeReady then
        some (emitUp .wake { s with sys := { s.sys with link := .ready } })
      else none
  | _ => none

/-! ## Taking them until none is due -/

/-- The next internal step that is due, by the order in which the rules let one event's effects follow one another (assumption
log entry 18): region changes; then, in acceptance order, the drained commands that are released and the completions that are
decided, so that the records that one event makes Due become due in acceptance order (R80); then the other released commands
in their holds' orders, the keep chunk and the links. A held frame of the disk takes the room that an event makes before the Keep
Unit places a request for it (R121). The records stand in acceptance order, and so does the Drain list (R22, R23). -/
def internalStep (s : State) : Option State :=
  (List.range Config.regionCount).findSome? (applyPending? · s)
  <|> (s.tracker.records.map Record.key).findSome? (fun k => drainRelease? k s <|> decide? k s)
  <|> s.tracker.keyWait.findSome? (keywaitRecheck? · s)
  <|> s.tracker.ringOrder.findSome? (ringorderRelease? · s)
  <|> s.tracker.overrun.findSome? (overrunRelease? · s)
  <|> tagwaitGrant? s
  <|> solewaitRelease? s
  <|> (s.tracker.records.map Record.key).findSome? (secondPart? · s)
  <|> destinationWrite? s
  <|> requestMet? s
  <|> chunkStart? s
  <|> takeFrame? s
  <|> placeRequest? s
  <|> wakeDrive? s
  <|> sendCommand? s
  <|> sendSector? s
  <|> systemPortReady? s
  <|> wakeSystem? s

/-- Takes internal steps until none is due, at most `n` of them. -/
def settleFor : Nat → State → State
  | 0, s => s
  | n + 1, s =>
      match internalStep s with
      | none => s
      | some s' => settleFor n s'

/-- The sectors in the frames that wait from the disk. -/
def inboxSectors : List DiskFrame → Nat
  | [] => 0
  | .data _ _ sectors :: rest => sectors.length + 1 + inboxSectors rest
  | _ :: rest => 1 + inboxSectors rest

/-- A bound on the internal steps of one event: every region entry, record, buffer, job and waiting frame can move a bounded
number of times (assumption log entry 10). -/
def settleBound (s : State) : Nat := 1000 + inboxSectors s.drive.inbox

/-- The effects that the rules place within the same event. -/
def settle (s : State) : State := settleFor (settleBound s) s

end Sys2Proof.Machine
end

