-- ==== Sys2Proof/Machine/Resets.lean ====
section
/-! DEFINITION. The commands of start-up, the resets, Lockdown and the link states (R43, R73, R74, R83, R86, R88, R89, R172,
R173): what each reset does to every block, and one meaning for each row. A row whose event cannot happen in a state leaves
that state as it is (assumption log entry 11). -/

namespace Sys2Proof.Machine

/-! ## Abandoning work (R88 steps 1 and 2, R114) -/

/-- A host user of a downstream tag. -/
def TagUser.isHost (u : TagUser) : Bool := u.record?.isSome

/-- A record's counts, user counts and buffers are given up (R114). -/
def giveUp (s : State) (r : Record) : State := releaseOwner (.record r.key) (usersDown r.rings (countDown r.counted s))

/-- Frees every downstream tag that a host command uses. -/
def freeHostUsers (s : State) : State :=
  { s with drive := { s.drive with tags := mapVector (fun u => u.filter fun x => !x.isHost) s.drive.tags } }

/-- The Command Tracker with every record free (R93). -/
def Tracker.none : Tracker := { records := [], nextOrder := 0, keyWait := [], ringOrder := [], overrun := [], tagWait := [] }

/-- The lists that wait, count or order the abandoned records are empty (R88 step 1). -/
def clearTables (s : State) : State :=
  setMissList [] (setDrain [] { s with
    tracker := Tracker.none
    sys := { s.sys with sendOrder := [], lastServed := none } })

/-- Every host command in flight is abandoned, with no completion (R88 step 1, R114). -/
def abandonHost (s : State) : State :=
  let s := s.tracker.records.foldl giveUp s
  let s := mapRings (fun q => { q with accesses := [] }) s
  clearTables (freeHostUsers (removeDown (fun c => c.user.isHost) s))

/-- The frames in progress with the disk are gone. -/
def clearDisk (s : State) : State :=
  { s with drive := { s.drive with inbox := [], sending := none, lowPower := .idle } }

/-- Steps 1 and 2 of R88. -/
def abandonWork (s : State) : State := dropChunk (abandonHost (clearDisk s))

/-- Step 4 of R88: the Drive Port sends a link reset downstream and enters Starting, unless it is Down. -/
def resetDownstream (s : State) : State :=
  bif s.drive.link == .down then s
  else emitDown .linkReset { s with drive := { s.drive with link := .starting } }

/-- Replaces the link state of the System Port. -/
def setSysLink (l : SysLink) (s : State) : State := { s with sys := { s.sys with link := l } }

/-- Replaces the link state of the Drive Port. -/
def setDriveLink (l : DriveLink) (s : State) : State := { s with drive := { s.drive with link := l } }

/-! ## Link reset and loss of the upstream link -/

/-- A link reset (R88): not taken while the System Port is Down (R89). -/
def linkReset (s : State) : State :=
  bif s.sys.link == .down then s else settle (setSysLink .notReady (resetDownstream (abandonWork s)))

/-- LINK_RESET (R88). -/
def execLinkReset (s : State) : Host.Outcome State Fault Refusal := .next (linkReset s)

/-- The upstream physical link is lost: steps 1, 2 and 4 of R88, and the System Port is Down (R73). -/
def upstreamLost (s : State) : State :=
  bif s.sys.link == .down then s else settle (setSysLink .down (resetDownstream (abandonWork s)))

/-- UPSTREAM_LINK_LOST (R73). -/
def execUpstreamLinkLost (s : State) : Host.Outcome State Fault Refusal := .next (upstreamLost s)

/-- UPSTREAM_LINK_ESTABLISHED (R73): not while the RESET input holds the links down (R89). -/
def execUpstreamLinkEstablished (s : State) : Host.Outcome State Fault Refusal :=
  .next (bif s.sys.link == .down && !s.resetAsserted then settle (setSysLink .notReady s) else s)

/-- SYSTEM_PORT_READY (R74). -/
def execSystemPortReady (s : State) : Host.Outcome State Fault Refusal := .next (settle ((systemPortReady? s).getD s))

/-! ## Line reset -/

/-- The engine after a line reset (R130). -/
def Engine.lineReset (e : Engine) : Engine :=
  { pool := Vector.replicate 64 Buffer.empty, readQ := [], writeQ := [], keepQ := [],
    grant := e.grant.map fun g => { g with buffer := none, fate := .discard }
    readStreak := 0, keepStreak := 0, lastSide := .writeSide }

/-- The Keep Unit after a line reset (R153). -/
def KeepUnit.lineReset (k : KeepUnit) : KeepUnit :=
  { k with queue := [], outcomes := [], request := none, chunk := none }

/-- The Drive Port after a line reset (R89, R90). -/
def DrivePort.lineReset (d : DrivePort) : DrivePort :=
  { d with link := .down, tags := Vector.replicate 32 none, issueOrder := [], outstanding := [], inbox := [],
           sending := none, lowPower := .idle }

/-- The state a line reset leaves in every block before pending definitions are applied (R3, R45, R72, R89, R90, R93, R130,
R153). -/
def lineResetBlocks (s : State) : State :=
  clearTables { s with
    regions := { s.regions with entries := mapVector (fun e => { e with inFlight := 0 }) s.regions.entries }
    rings := mapVector (fun q => { q with accesses := [], users := 0 }) s.rings
    engine := s.engine.lineReset
    keep := s.keep.lineReset
    drive := s.drive.lineReset
    sys := { s.sys with link := .down }
    resetAsserted := true }

/-- The RESET input is found asserted (R89): nothing more happens while it stays asserted. -/
def lineReset (s : State) : State := bif s.resetAsserted then s else settle (lineResetBlocks s)

/-- RESET_ASSERTED (R89). -/
def execResetAsserted (s : State) : Host.Outcome State Fault Refusal := .next (lineReset s)

/-- RESET_DEASSERTED (R89): the Drive Port may bring up the downstream link again, which DOWNSTREAM_LINK_UP reports. -/
def execResetDeasserted (s : State) : Host.Outcome State Fault Refusal := .next { s with resetAsserted := false }

/-! ## The downstream link -/

/-- DOWNSTREAM_LINK_UP (R83): the link comes up and the Drive Port is Starting; not while RESET holds it down (R89). -/
def execDownstreamLinkUp (s : State) : Host.Outcome State Fault Refusal :=
  .next (bif s.drive.link == .down && !s.resetAsserted then settle (setDriveLink .starting s) else s)

/-- DISK_READY_SIGNATURE (R83): in Starting, the Drive Port becomes Ready and keeps the signature. -/
def execDiskReadySignature (signature : List Byte) (s : State) : Host.Outcome State Fault Refusal :=
  .next (bif s.drive.link == .starting then
      settle { s with drive := { s.drive with link := .ready, signature := signature } }
    else s)

/-- The disk is lost to the Drive Port (R86): every outstanding command ends as an error, and the port enters the given
state. -/
def loseDisk (l : DriveLink) (s : State) : State := settle (setDriveLink l (failLost (clearDisk s)))

/-- DOWNSTREAM_LINK_LOST (R86): in Ready or Asleep the outstanding commands end; in every state but Down the port is Down. -/
def execDownstreamLinkLost (s : State) : Host.Outcome State Fault Refusal :=
  .next (bif s.drive.link == .down then s else loseDisk .down s)

/-- DISK_SELF_RESET (R86): a ready signature that was not requested, in Ready or Asleep. -/
def execDiskSelfReset (s : State) : Host.Outcome State Fault Refusal :=
  .next (bif s.driveUsable then loseDisk .starting s else s)

/-! ## Lockdown (R43, R55, R149) -/

/-- The slot becomes Empty, its key destroyed; its generation is kept (R27, R43). -/
def Slot.wiped (x : Slot) : Slot := { x with content := .empty }

/-- A Live ring becomes Idle and its epoch list empties; the offsets are kept (R54, R55). -/
def Ring.closed (r : Ring) : Ring := bif r.live then { r with live := false, epochs := [] } else r

/-- The Key Table at the entry into Lockdown (R43). -/
def KeyTable.locked (t : KeyTable) : KeyTable :=
  { slots := mapVector Slot.wiped t.slots, missList := [], lockdown := true, lockdownSeen := false }

/-- The entry into Lockdown (R43, R55, R149). -/
def enterLockdown (s : State) : State :=
  let waiting := s.tracker.keyWait
  let s := waiting.foldl (fun s k => refuse k .locked s) { s with keys := s.keys.locked }
  latch .lockdown (stopJobs (fun _ => true) (.failed .lockdown) (mapRings Ring.closed s))

/-- The LOCKDOWN input is found asserted (R43): during Loading it is noted for the load-end event; with the flag set it does
nothing (R44). -/
def lockdownFound (s : State) : State :=
  bif s.line.state == .loading then { s with keys := { s.keys with lockdownSeen := true } }
  else bif s.keys.lockdown then s
  else settle (enterLockdown s)

/-- LOCKDOWN (R43). -/
def execLockdown (s : State) : Host.Outcome State Fault Refusal := .next (lockdownFound s)

/-! ## Power-on and the profile load (R172, R173) -/

/-- POWER_ON_RESET (R172): every piece of the part's state takes its power-on value. The wire log, the free-value counter and
the waiting commands are the model's own and stay. -/
def execPowerOnReset (s : State) : Host.Outcome State Fault Refusal :=
  .next { State.reset with wires := s.wires, fresh := s.fresh, pending := s.pending }

/-- The profile in force is set and handed to its users (R173). -/
def takeProfile (p : Profile) (s : State) : State :=
  { s with
    clock := { s.clock with increment := p.increment }
    sys := { s.sys with loading := false }
    line := { s.line with
      profile := p
      enabled := p.alertMask
      state := bif s.line.request.isSome then .working else .idle } }

/-- The load-end event (R173): the profile is set, ProfileFault is latched unless the result is Good, and Lockdown is entered
if its input was found asserted during the load (R43). -/
def endLoad (r : ProfileRead) (s : State) : State :=
  bif s.line.state == .loading then
    let p := profileOf r
    let s := latchIf (p.result != .good) .profileFault (takeProfile p s)
    settle (bif s.keys.lockdownSeen then enterLockdown s else s)
  else s

/-- PROFILE_LOAD_END (R173). -/
def execProfileLoadEnd (r : ProfileRead) (s : State) : Host.Outcome State Fault Refusal := .next (endLoad r s)

/-- PROFILE_LOAD_TIMEOUT (R172): the bytes already read are discarded, and the load ends Absent. -/
def execProfileLoadTimeout (s : State) : Host.Outcome State Fault Refusal := .next (endLoad .noAcknowledge s)

end Sys2Proof.Machine
end

