-- ==== Sys2Proof/Machine/Arrivals.lean ====
section
/-! DEFINITION. The arrival of host commands (R74 to R79, R94): the arrival checks, the new record, and one meaning for each
arriving kind. -/

namespace Sys2Proof.Machine

/-- A command in the sole record is refused while any host command is in flight (R77). -/
def State.soleFailure (s : State) : Option HostReason :=
  bif s.queuedInFlight || s.soleOccupied then some .notSole else none

/-- A queued command on a tag: BadTag for a tag outside the host tags or in flight, NotSole while the sole record is occupied
(R76, R77). -/
def State.tagFailure (s : State) (t : Nat) : Option HostReason :=
  if s.hostTags ≤ t then some .badTag
  else if (s.record? (.tag t)).isSome then some .badTag
  else if s.soleOccupied then some .notSole
  else none

/-- The first failing arrival check (R76). -/
def State.arrivalFailure (s : State) (tag : Option Nat) (unsupported : Bool) : Option HostReason :=
  if unsupported then some .unsupported
  else match tag with
    | some t => s.tagFailure t
    | none => s.soleFailure

/-- The sector count of a count field: 0 means 65 536 (R75). -/
def sectorCount (countField : Nat) : Nat := if countField = 0 then 65536 else countField

/-- The last sector would lie beyond 2^48 - 1 (R75). -/
def outOfRange (lba countField : Nat) : Bool := decide (Config.lbaSpace < lba + sectorCount countField)

/-- The record of an arriving command. -/
def keyOf : Option Nat → RecordKey
  | some t => .tag t
  | none => .sole

/-- A record as it is when its command is accepted (R91). -/
def newRecord (key : RecordKey) (kind : HostKind) (host count order : Nat) (frame : List Byte) : Record :=
  { key := key, kind := kind, host := host, count := count, order := order, state := .classify, runs := [], image := none,
    split := none, timer := none, awaited := [], downCount := 0, upCount := 0, invited := 0, request := none,
    part1 := .notIssued, part2 := .notIssued, firstLost := none, outcome := none, counted := [], rings := [],
    waitsFor := [], standing := false, frame := frame }

/-- The command is accepted: its record joins the Command Table with the next acceptance number (R76, R91). -/
def addRecord (key : RecordKey) (kind : HostKind) (host count : Nat) (frame : List Byte) (s : State) : State :=
  { s with tracker := { s.tracker with
      records := s.tracker.records ++ [newRecord key kind host count s.tracker.nextOrder frame]
      nextOrder := s.tracker.nextOrder + 1 } }

/-- The System Port reports a host arrival: the idle gate's count restarts, and the gate closes (R76, R138). -/
def closeGate (s : State) : State := { s with keep := { s.keep with gateOpen := false } }

/-- A command refused at arrival: its completion waits for its turn (R76). -/
def refuseArrival (tag : Option Nat) (why : HostReason) (s : State) : State :=
  { s with sys := { s.sys with sendOrder := s.sys.sendOrder ++ [.arrival tag why] } }

/-- A command frame taken while the System Port is Ready (R76, R94). -/
def takeArrival (tag : Option Nat) (unsupported : Bool) (kind : HostKind) (host count : Nat) (frame : List Byte) (s : State) :
    State :=
  match s.arrivalFailure tag unsupported with
  | some why => refuseArrival tag why s
  | none => startSteps (keyOf tag) (addRecord (keyOf tag) kind host count frame s)

/-- A command frame arrives: taken in Ready, rejected at the link level in NotReady; none arrives in Down or Asleep (R73,
R74). -/
def arrive (tag : Option Nat) (unsupported : Bool) (kind : HostKind) (host count : Nat) (frame : List Byte) (s : State) :
    State :=
  match s.sys.link with
  | .ready => settle (takeArrival tag unsupported kind host count frame (closeGate s))
  | .notReady => emitUp .frameRejected s
  | .down => s
  | .asleep _ => s

/-- READ (R75, R94). -/
def execRead (tag lba countField : Nat) (s : State) : Host.Outcome State Fault Refusal :=
  .next (arrive (some tag) (outOfRange lba countField) .read lba (sectorCount countField) [] s)

/-- WRITE (R75, R94). -/
def execWrite (tag lba countField : Nat) (s : State) : Host.Outcome State Fault Refusal :=
  .next (arrive (some tag) (outOfRange lba countField) .write lba (sectorCount countField) [] s)

/-- SOLE_READ (R75, R94). -/
def execSoleRead (lba countField : Nat) (s : State) : Host.Outcome State Fault Refusal :=
  .next (arrive none (outOfRange lba countField) .soleRead lba (sectorCount countField) [] s)

/-- SOLE_WRITE (R75, R94). -/
def execSoleWrite (lba countField : Nat) (s : State) : Host.Outcome State Fault Refusal :=
  .next (arrive none (outOfRange lba countField) .soleWrite lba (sectorCount countField) [] s)

/-- FLUSH (R79). -/
def execFlush (frame : List Byte) (s : State) : Host.Outcome State Fault Refusal :=
  .next (arrive none false .flush 0 0 frame s)

/-- IDENTIFY (R78): it counts its one data sector. -/
def execIdentify (frame : List Byte) (s : State) : Host.Outcome State Fault Refusal :=
  .next (arrive none false .identify 0 1 frame s)

/-- PASS_NO_DATA (R79). -/
def execPassNoData (frame : List Byte) (s : State) : Host.Outcome State Fault Refusal :=
  .next (arrive none false .passNoData 0 0 frame s)

/-- UNKNOWN_COMMAND (R75, R76): refused Unsupported. The kind passed on is of no consequence. -/
def execUnknownCommand (tag : Option Nat) (s : State) : Host.Outcome State Fault Refusal :=
  .next (arrive tag true .passNoData 0 0 [] s)

end Sys2Proof.Machine
end

