-- ==== Sys2Proof/Machine/Holds.lean ====
section
/-! DEFINITION. The commands of the holds (R22, R38, R39, R66, R68, R69, R82, R100, R105). The releases are the internal steps
of Settle.lean: within an event the part takes them itself, and these rows take them where they are still due. -/

namespace Sys2Proof.Machine

/-- DRAIN_RELEASE (R22). -/
def execDrainRelease (k : RecordKey) (s : State) : Host.Outcome State Fault Refusal :=
  .next (settle ((drainRelease? k s).getD s))

/-- PENDING_DEFINITION_APPLIED (R22). -/
def execPendingDefinitionApplied (index : Nat) (s : State) : Host.Outcome State Fault Refusal :=
  .next (settle ((applyPending? index s).getD s))

/-- KEYWAIT_RECHECK (R39). -/
def execKeywaitRecheck (k : RecordKey) (s : State) : Host.Outcome State Fault Refusal :=
  .next (settle ((keywaitRecheck? k s).getD s))

/-- The KeyWait timer of a record expires (R38): it is refused NoKey, and its ids are examined (R40). -/
def keywaitExpired? (k : RecordKey) (s : State) : Option State :=
  bif s.tracker.keyWait.contains k && (s.record? k).isSome then some (refuseKey k .noKey s) else none

/-- KEYWAIT_TIMER_EXPIRY (R38). -/
def execKeywaitTimerExpiry (k : RecordKey) (s : State) : Host.Outcome State Fault Refusal :=
  .next (settle ((keywaitExpired? k s).getD s))

/-- RINGORDER_RELEASE (R66). -/
def execRingorderRelease (k : RecordKey) (s : State) : Host.Outcome State Fault Refusal :=
  .next (settle ((ringorderRelease? k s).getD s))

/-- OVERRUN_RELEASE (R68). -/
def execOverrunRelease (k : RecordKey) (s : State) : Host.Outcome State Fault Refusal :=
  .next (settle ((overrunRelease? k s).getD s))

/-- The jobs that block a record's writes, in queue order. -/
def State.blockingJobs (s : State) (k : RecordKey) : List Nat := (s.keep.queue.filter (s.blocks k)).map Job.id

/-- The Overrun timer of a record expires (R69): every job still blocking the write is truncated (R150), and the write, its
timer stopped, leaves Overrun with the next internal step. -/
def overrunExpired? (k : RecordKey) (s : State) : Option State :=
  match s.record? k with
  | none => none
  | some r =>
      bif s.tracker.overrun.contains k && r.timer.isSome then
        some (mapRecord k (fun r => { r with timer := none }) ((s.blockingJobs k).foldl truncateJob s))
      else none

/-- OVERRUN_TIMER_EXPIRY (R69, R150). -/
def execOverrunTimerExpiry (k : RecordKey) (s : State) : Host.Outcome State Fault Refusal :=
  .next (settle ((overrunExpired? k s).getD s))

/-- TAGWAIT_GRANT (R82). -/
def execTagwaitGrant (s : State) : Host.Outcome State Fault Refusal := .next (settle ((tagwaitGrant? s).getD s))

/-- SOLEWAIT_RELEASE (R100). -/
def execSolewaitRelease (s : State) : Host.Outcome State Fault Refusal := .next (settle ((solewaitRelease? s).getD s))

/-- SECOND_PART_ISSUE (R105). -/
def execSecondPartIssue (k : RecordKey) (s : State) : Host.Outcome State Fault Refusal :=
  .next (settle ((secondPart? k s).getD s))

end Sys2Proof.Machine
end

