-- ==== Sys2Proof/Machine/Disk.lean ====
section
/-! DEFINITION. The events of the disk (R84, R102, R106, R118, R142, R143): each is a frame that joins the Drive Port's frames
and is taken at once unless a data frame before it is held for room (R118). -/

namespace Sys2Proof.Machine

/-- A frame of the disk arrives: it is taken at once, or waits behind the frames that are held. -/
def frameArrives (f : DiskFrame) (s : State) : State :=
  match s.drive.inbox with
  | [] => (takeOne f [] s).getD (setInbox [f] s)
  | held => setInbox (held ++ [f]) s

/-- A frame of the disk arrives while the downstream link is Ready; on a link that is down, starting or asleep none does. -/
def diskFrame (f : DiskFrame) (s : State) : State := bif s.drive.link == .ready then settle (frameArrives f s) else s

/-- REQUEST_FOR_WRITE_DATA (R102). -/
def execRequestForWriteData (tag : Option Nat) (n : Nat) (s : State) : Host.Outcome State Fault Refusal :=
  .next (diskFrame (.writeRequest tag n) s)

/-- DISK_READ_DATA (R118). -/
def execDiskReadData (tag : Option Nat) (offset : Nat) (data : List Sector) (s : State) : Host.Outcome State Fault Refusal :=
  .next (diskFrame (.data tag offset data) s)

/-- DOWNSTREAM_COMMAND_END (R84, R106). -/
def execDownstreamCommandEnd (tag : Option Nat) (good : Bool) (error : Byte) (lba : Nat) (s : State) :
    Host.Outcome State Fault Refusal := .next (diskFrame (.commandEnd tag good error lba) s)

/-- DISK_FAILURE (R84). -/
def execDiskFailure (error : Byte) (s : State) : Host.Outcome State Fault Refusal := .next (diskFrame (.failure error) s)

/-- The end of the keep chunk's command of one direction, when it is outstanding. -/
def keepEnd (op : DownOp) (good : Bool) (error : Byte) (lba : Nat) (s : State) : State :=
  match s.drive.outstanding.find? fun c => c.user == .keep && c.op == op with
  | some c => diskFrame (.commandEnd c.tag good error lba) s
  | none => s

/-- KEEP_READ_END (R142). -/
def execKeepReadEnd (good : Bool) (error : Byte) (lba : Nat) (s : State) : Host.Outcome State Fault Refusal :=
  .next (keepEnd .read good error lba s)

/-- KEEP_WRITE_END (R143). -/
def execKeepWriteEnd (good : Bool) (error : Byte) (lba : Nat) (s : State) : Host.Outcome State Fault Refusal :=
  .next (keepEnd .write good error lba s)

end Sys2Proof.Machine
end

