-- ==== Sys2Proof/Machine/Upstream.lean ====
section
/-! DEFINITION. The upstream link's turns (R80): write data invited and taken (R119), read data bursts (R80, R104) with the
Identify rewrite (R78), and completions (R109). -/

namespace Sys2Proof.Machine

/-! ## The turns -/

/-- A write turn is open: sectors that the System Port invited have yet to arrive (R80, R119). -/
def State.writeTurnOpen (s : State) : Bool :=
  s.engine.pool.toList.any fun b => b.state == .taken && b.cls == some .hostWrite

/-- The upstream link is free for a completion. -/
def State.upFree (s : State) : Bool := s.sys.link == .ready && !s.writeTurnOpen

/-- The command served in the next data turn (R80): the ready commands in order of acceptance, starting after the command
served last. -/
def State.nextTurn (s : State) : Option Record :=
  match s.sys.lastServed with
  | none => s.tracker.records.find? s.exchangeReady
  | some n =>
      (s.tracker.records.find? fun r => decide (n < r.order) && s.exchangeReady r)
        <|> s.tracker.records.find? s.exchangeReady

/-- A data turn may begin, and for this record (R80): with no completion due. -/
def State.turnOf (s : State) : Option Record :=
  bif s.upFree && s.sys.sendOrder.isEmpty then s.nextTurn else none

/-- The command served last. -/
def setLastServed (n : Nat) (s : State) : State := { s with sys := { s.sys with lastServed := some n } }

/-! ## The Identify rewrite (R78) -/

/-- A byte of a sector. -/
def sectorByte (x : Sector) (i : Nat) : Byte := x.extractLsb' (8 * i) 8

/-- A sector with one byte replaced. -/
def setSectorByte (i : Nat) (b : Byte) (x : Sector) : Sector :=
  (x &&& ~~~(0xFF#4096 <<< (8 * i))) ||| (b.zeroExtend 4096 <<< (8 * i))

/-- The sum of the first `n` bytes of a sector. -/
def sectorSum (x : Sector) : Nat → Nat
  | 0 => 0
  | n + 1 => (sectorByte x n).toNat + sectorSum x n

/-- The check byte recomputed so that the 512 bytes sum to 0 modulo 256, where the sector carries the marker (R78). The
places of the fields are those of ATA: PRESUMED, assumption log entry 12. -/
def fixCheckByte (x : Sector) : Sector :=
  bif sectorByte x 510 == 0xA5#8 then setSectorByte 511 (BitVec.ofNat 8 (256 - sectorSum x 511 % 256)) x else x

/-- The Identify sector as it is delivered (R78): the queue-depth field, the advertised depth minus one, holds 31 - R. -/
def identifyRewrite (partTags : Nat) (x : Sector) : Sector :=
  fixCheckByte (setSectorByte 150 ((sectorByte x 150 &&& 0xE0#8) ||| BitVec.ofNat 8 (31 - partTags)) x)

/-! ## Read data (R80, R104) -/

/-- The buffers of the record's consecutive ready sectors from an LBA on, at most `n`, below the delivery limit. -/
def State.readySectors (s : State) (k : RecordKey) (limit : Nat) : Nat → Nat → List Nat
  | 0, _ => []
  | n + 1, lba =>
      if lba < limit then
        match s.bufferOf (.record k) lba (fun b => b.state == .done) with
        | some i => i :: s.readySectors k limit n (lba + 1)
        | none => []
      else []

/-- A sector as the System Port delivers it. -/
def State.delivered (s : State) (r : Record) (i : Nat) : Sector :=
  bif r.kind == .identify then identifyRewrite s.line.profile.partTags (s.buffer i).data else (s.buffer i).data

/-- One burst for a read (R80): its sectors are delivered and counted, and their buffers released (R104, R121). -/
def deliver (r : Record) (s : State) : State :=
  let own := s.readySectors r.key r.limit Config.burstSectors (r.host + r.upCount)
  let s := emitUp (.readData (tagOf r.key) (r.host + r.upCount) (own.map (s.delivered r))) s
  let s := mapRecord r.key (fun r => { r with upCount := r.upCount + own.length }) s
  setLastServed r.order (own.foldl (fun s i => releaseBuffer i s) s)

/-- The turn of a read (R80). -/
def readBurst? (s : State) : Option State :=
  match s.turnOf with
  | some r => bif (s.readyRead r).isSome then some (deliver r s) else none
  | none => none

/-- READ_DATA_BURST (R80). -/
def execReadDataBurst (s : State) : Host.Outcome State Fault Refusal := .next (settle ((readBurst? s).getD s))

/-! ## Write data (R102, R119) -/

/-- The Taken buffer of an invited sector. -/
def Record.inviteBuffer (r : Record) (lba : Nat) : Buffer :=
  { Buffer.empty with
    state := .taken, cls := some .hostWrite, owner := .record r.key, lba := lba, treatment := r.treatment lba }

/-- The invited sectors from an LBA on take these buffers. -/
def placeInvited (r : Record) : Nat → List Nat → State → State
  | _, [], s => s
  | lba, i :: rest, s => placeInvited r (lba + 1) rest (setBuffer i (r.inviteBuffer lba) s)

/-- The length of the data frame that a write's turn invites (R119). -/
def State.invitation (s : State) (q : WriteRequest) : Nat :=
  min (min Config.burstSectors (q.count - q.invited)) (s.hostRoom .hostWrite)

/-- The System Port invites one data frame, its buffers reserved first (R119). -/
def invite (r : Record) (q : WriteRequest) (s : State) : State :=
  let n := s.invitation q
  let own := (s.buffersWhere fun b => b.state == .free).take n
  let s := placeInvited r (q.first + q.invited) own s
  let s := mapRecord r.key (fun r =>
    { r with invited := r.invited + n, request := some { q with invited := q.invited + n } }) s
  setLastServed r.order (emitUp (.invitation (tagOf r.key) (q.first + q.invited) n) s)

/-- The turn of a write (R80, R119). -/
def writeRequest? (s : State) : Option State :=
  match s.turnOf with
  | some r =>
      match r.request with
      | some q => bif s.readyWrite r && (s.readyRead r).isNone then some (invite r q s) else none
      | none => none
  | none => none

/-- WRITE_DATA_REQUEST (R119). -/
def execWriteDataRequest (s : State) : Host.Outcome State Fault Refusal := .next (settle ((writeRequest? s).getD s))

/-- The lower of two buffers by the sector they carry. -/
def State.lowerOf (s : State) (best : Option Nat) (i : Nat) : Option Nat :=
  match best with
  | some j => if (s.buffer i).lba < (s.buffer j).lba then some i else some j
  | none => some i

/-- The next Taken buffer of a record's invited frame (R119). -/
def State.nextInvited (s : State) (k : RecordKey) : Option Nat :=
  (s.buffersWhere fun b => b.owner == .record k && b.state == .taken && b.cls == some .hostWrite).foldl s.lowerOf none

/-- The request once a sector has been taken: absent when that was its last (R102). -/
def requestAfter (lba : Nat) (q : Option WriteRequest) : Option WriteRequest :=
  q.filter fun q => decide (lba + 1 ≠ q.first + q.count)

/-- A sector of write data fills its buffer (R119): it is discarded when its exchange was withdrawn, joins the Write queue
when it is protected, and is Done when it is Clear. -/
def fillInvited (i : Nat) (data : Sector) (s : State) : State :=
  let b := s.buffer i
  bif b.discard then releaseBuffer i s
  else match b.treatment with
    | .protect => joinQueue .hostWrite i (setBuffer i { b with state := .queued, data := data } s)
    | _ => setBuffer i { b with state := .done, data := data } s

/-- A write data sector of a record arrives (R102, R119). -/
def takeWriteData? (k : RecordKey) (data : Sector) (s : State) : Option State :=
  match s.sys.link, s.nextInvited k with
  | .ready, some i =>
      let lba := (s.buffer i).lba
      some (fillInvited i data
        (mapRecord k (fun r => { r with upCount := r.upCount + 1, request := requestAfter lba r.request }) s))
  | _, _ => none

/-- HOST_WRITE_DATA (R119). -/
def execHostWriteData (k : RecordKey) (data : Sector) (s : State) : Host.Outcome State Fault Refusal :=
  .next (settle ((takeWriteData? k data s).getD s))

/-! ## Completions (R80, R109) -/

/-- The record's accesses leave the lists, and no record waits for it any more (R63, R66, R109). -/
def dropAccesses (k : RecordKey) (s : State) : State :=
  let s := mapRings (fun q => { q with accesses := q.accesses.filter fun a => !(a.record == k) }) s
  { s with tracker := { s.tracker with
      records := s.tracker.records.map fun r => { r with waitsFor := r.waitsFor.filter (· != k) } } }

/-- What the sending of a record's completion releases (R109). -/
def retire (r : Record) (s : State) : State :=
  dropRecord r.key (dropAccesses r.key (usersDown r.rings (countDown r.counted s)))

/-- The first completion of the send order is sent (R80, R109). -/
def completion? (s : State) : Option State :=
  bif !s.upFree then none
  else match s.sys.sendOrder with
    | [] => none
    | .arrival tag why :: rest =>
        some (emitUp (HostOutcome.report tag (.refused why)) { s with sys := { s.sys with sendOrder := rest } })
    | .record k :: rest =>
        match s.record? k with
        | none => none
        | some r =>
            match r.outcome with
            | none => none
            | some o =>
                some (retire r (emitUp (HostOutcome.report (tagOf k) o) { s with sys := { s.sys with sendOrder := rest } }))

/-- COMPLETION (R109). -/
def execCompletion (s : State) : Host.Outcome State Fault Refusal := .next (settle ((completion? s).getD s))

end Sys2Proof.Machine
end

