-- ==== Sys2Proof/Machine/Engine.lean ====
section
/-! DEFINITION. The Engine Arbiter and the grants (R115, R116, R124 to R129), and the rows of the Keep Unit that start its
work (R120, R138, R141). -/

namespace Sys2Proof.Machine

/-! ## The arbiter (R124 to R128) -/

/-- The overrun signal (R124): on while a write is held in Overrun on any ring. -/
def State.overrunSignal (s : State) : Bool := !s.tracker.overrun.isEmpty

/-- The arbiter's choice (R125): the Read queue, the Write queue, the Keep queue as part of the write side under Overrun
priority, or the Keep queue by keep share or keep alone. -/
inductive Choice where
  | read | write | keepFirst | keepShare
  deriving DecidableEq, Repr

/-- The write side holds a sector (R128). -/
def State.writeSideHolds (s : State) : Bool :=
  !s.engine.writeQ.isEmpty || (s.overrunSignal && !s.engine.keepQ.isEmpty)

/-- The keep share falls due after 4 M grants. The manual writes 4H; its worked case (section 6.7) shows H to be the hold
limit M: DEDUCED, assumption log entry 13. -/
def State.keepShareAt (s : State) : Nat := 4 * s.line.profile.holdLimit

/-- With both host sides waiting, the policy chooses Read (R126, R127). -/
def State.readGoesFirst (s : State) : Bool :=
  match s.line.profile.arbiter with
  | .fixed => decide (s.engine.readStreak < s.line.profile.holdLimit)
  | .alternate => s.engine.lastSide == .writeSide

/-- The queue of the write side that is granted (R125, R128). -/
def State.writeSideQueue (s : State) : Choice :=
  bif s.overrunSignal && !s.engine.keepQ.isEmpty then .keepFirst else .write

/-- The arbiter's choice, or none with every queue empty (R125). -/
def State.arbitrate (s : State) : Option Choice :=
  bif !s.engine.keepQ.isEmpty && decide (s.keepShareAt ≤ s.engine.keepStreak) then some .keepShare
  else match s.engine.readQ.isEmpty, s.writeSideHolds with
    | false, false => some .read
    | true, true => some s.writeSideQueue
    | false, true => some (bif s.readGoesFirst then .read else s.writeSideQueue)
    | true, false => bif s.engine.keepQ.isEmpty then none else some .keepShare

/-- A streak after a grant to another queue: it rises, up to its bound, while the queue it counts for waited (R125). -/
def streakUp (waited : Bool) (bound streak : Nat) : Nat := bif waited then min bound (streak + 1) else 0

/-- The counters after a grant (R125), by the queues as they stood at the choice. -/
def countGrant (c : Choice) (s : State) : State :=
  let e := s.engine
  let keepUp := streakUp (!e.keepQ.isEmpty) s.keepShareAt e.keepStreak
  { s with engine := match c with
    | .read => { e with readStreak := streakUp s.writeSideHolds s.line.profile.holdLimit e.readStreak,
                        keepStreak := keepUp, lastSide := .read }
    | .write => { e with readStreak := 0, keepStreak := keepUp, lastSide := .writeSide }
    | .keepFirst => { e with readStreak := 0, keepStreak := 0, lastSide := .writeSide }
    | .keepShare => { e with keepStreak := 0 } }

/-- The queue of a choice. -/
def State.queueOf (s : State) : Choice → List Nat
  | .read => s.engine.readQ
  | .write => s.engine.writeQ
  | .keepFirst => s.engine.keepQ
  | .keepShare => s.engine.keepQ

/-! ## What a grant does (R115, R116) -/

/-- The tweak of a host-view LBA (section 2.3). -/
def tweakOf (lba : Nat) : BitVec 128 := BitVec.ofNat 128 lba

/-- Encryption of a sector (section 2.3). -/
def encrypt (k : Key) (lba : Nat) (x : Sector) : Sector := Config.sectorTransform k (tweakOf lba) x

/-- Decryption of a sector (section 2.3). -/
def decrypt (k : Key) (lba : Nat) (x : Sector) : Sector := (Config.sectorTransform k (tweakOf lba)).symm x

/-- The pair captured by the run that holds a record's sector. -/
def State.hostPair (s : State) (b : Buffer) : Option Capture :=
  match b.owner with
  | .record k => ((s.record? k).bind fun r => r.runAt b.lba).bind Run.capture
  | _ => none

/-- The key-lost check of a pair (R41); a sector with no pair has none that is Live. -/
def State.checkPair? (s : State) : Option Capture → Except LostReason Key
  | some c => s.checkPair c
  | none => .error .keyLost

/-- What the grant of a host sector gives (R115, R116): the transform of its data, or zero-fill and the reason. -/
def State.hostGrant (s : State) (read : Bool) (b : Buffer) : Sector × Option LostReason :=
  match s.checkPair? (s.hostPair b) with
  | .ok key => (bif read then decrypt key b.lba b.data else encrypt key b.lba b.data, none)
  | .error why => (zeroSector, some why)

/-- What the grant of a keep sector gives (R115, R116): the source pair is checked first, then the destination pair; a zero
source sector has no source pair to check. -/
def State.keepGrant (s : State) (b : Buffer) : Except LostReason Sector :=
  let target := s.checkPair? (s.keep.chunk.map Chunk.target)
  match b.treatment with
  | .zeroSource =>
      match target with
      | .ok key => .ok (encrypt key b.lba zeroSector)
      | .error why => .error why
  | _ =>
      match s.checkPair? b.srcPair, target with
      | .ok source, .ok key => .ok (encrypt key b.lba (decrypt source b.srcTweak b.data))
      | .error why, _ => .error why
      | _, .error why => .error why

/-- The reason of a job whose chunk lost a key (R146). -/
def LostReason.failReason : LostReason → FailReason
  | .expired => .expired
  | .keyLost => .keyLost

/-- The engine takes a sector and is busy with it. -/
def beginGrant (i : Nat) (result : Sector) (lost : Option LostReason) (s : State) : State :=
  { s with engine := { s.engine with grant := some { buffer := some i, result := result, fate := .place, lost := lost } } }

/-- The grant of the oldest sector of a queue (R115). A keep sector found key-lost abandons its chunk, and the grant ends with
that (R116, R146). -/
def grantSector (c : Choice) (i : Nat) (s : State) : State :=
  let b := s.buffer i
  let s := withdrawFromQueues i (countGrant c s)
  match c with
  | .read => beginGrant i (s.hostGrant true b).1 (s.hostGrant true b).2 s
  | .write => beginGrant i (s.hostGrant false b).1 (s.hostGrant false b).2 s
  | _ =>
      match s.keepGrant b with
      | .ok result => beginGrant i result none s
      | .error why => stopActive (.failed why.failReason) s

/-- The engine takes a grant when it is free and a queue holds a sector (R115). -/
def grantStart? (s : State) : Option State :=
  match s.engine.grant, s.arbitrate with
  | none, some c =>
      match s.queueOf c with
      | i :: _ => some (grantSector c i s)
      | [] => none
  | _, _ => none

/-- GRANT_START (R115, R125). -/
def execGrantStart (s : State) : Host.Outcome State Fault Refusal := .next (settle ((grantStart? s).getD s))

/-! ## The end of a grant (R115, R129) -/

/-- The first key-lost field after one more key-lost sector: the lowest below a read's delivery limit (R104, R116). -/
def Record.noteLost (r : Record) (lba : Nat) (why : LostReason) : Record :=
  bif r.kind.delivers && decide (r.limit ≤ lba) then r
  else match r.firstLost with
    | some (l, _) => if lba < l then { r with firstLost := some (lba, why) } else r
    | none => { r with firstLost := some (lba, why) }

/-- The record of a key-lost sector takes it in its first key-lost field. -/
def noteLost (b : Buffer) (lost : Option LostReason) (s : State) : State :=
  match b.owner, lost with
  | .record k, some why => mapRecord k (fun r => r.noteLost b.lba why) s
  | _, _ => s

/-- The result of the grant goes where its fate says (R115, R123, R129). -/
def endGrant (g : Grant) (s : State) : State :=
  let s := { s with engine := { s.engine with grant := none } }
  match g.buffer with
  | none => s
  | some i =>
      match g.fate with
      | .place => noteLost (s.buffer i) g.lost (mapBuffer i (fun b => { b with state := .done, data := g.result }) s)
      | .discard => releaseNow i s
      | .requeue => joinQueue .keep i s

/-- GRANT_END (R115). -/
def execGrantEnd (s : State) : Host.Outcome State Fault Refusal :=
  .next (match s.engine.grant with | some g => settle (endGrant g s) | none => s)

/-! ## The Keep Unit's rows -/

/-- IDLE_GATE_OPEN (R138). -/
def execIdleGateOpen (s : State) : Host.Outcome State Fault Refusal :=
  .next (settle { s with keep := { s.keep with gateOpen := true } })

/-- BUFFER_REQUEST_MET (R120). -/
def execBufferRequestMet (s : State) : Host.Outcome State Fault Refusal := .next (settle ((requestMet? s).getD s))

/-- KEEP_CHUNK_START (R141). -/
def execKeepChunkStart (s : State) : Host.Outcome State Fault Refusal := .next (settle ((chunkStart? s).getD s))

end Sys2Proof.Machine
end

