-- ==== Sys2Proof/Machine/Power.lean ====
section
/-! DEFINITION. Link power (R85). -/

namespace Sys2Proof.Machine

/-- A record has something for the upstream link: a write-data request with sectors not yet invited, or a read burst. -/
def State.waitsUpstream (s : State) (r : Record) : Bool :=
  (s.readyRead r).isSome || match r.request with | some q => decide (q.invited < q.count) | none => false

/-- The System Port accepts a low-power request (R85): it is Ready and has nothing waiting to be sent. -/
def State.acceptsLowPower (s : State) : Bool :=
  s.sys.link == .ready && s.sys.sendOrder.isEmpty && !s.tracker.records.any s.waitsUpstream

/-- A low-power request of the system chip on the upstream link (R85): no request is made on a link that is down or asleep. -/
def lowPowerAsked (d : Depth) (s : State) : State :=
  match s.sys.link with
  | .down => s
  | .asleep _ => s
  | _ =>
      bif s.acceptsLowPower then emitUp (.lowPowerAnswer true) (setSysLink (.asleep d) s)
      else emitUp (.lowPowerAnswer false) s

/-- LOW_POWER_REQUEST (R85). -/
def execLowPowerRequest (d : Depth) (s : State) : Host.Outcome State Fault Refusal := .next (settle (lowPowerAsked d s))

/-- Replaces the Drive Port's low-power request. -/
def setLowPower (x : LowPower) (s : State) : State := { s with drive := { s.drive with lowPower := x } }

/-- The Drive Port is Ready with no downstream command outstanding and none waiting to be sent (R85). -/
def State.driveQuiet (s : State) : Bool :=
  s.drive.link == .ready && s.drive.outstanding.isEmpty && s.drive.issueOrder.isEmpty

/-- The Drive Port asks the disk for the depth of the System Port, once (R85). -/
def carryLowPower (s : State) : State :=
  match s.sys.link with
  | .asleep d =>
      bif s.driveQuiet && s.drive.lowPower == .idle then emitDown (.lowPowerRequest d) (setLowPower (.asked d) s) else s
  | _ => s

/-- DOWNSTREAM_LOW_POWER (R85). -/
def execDownstreamLowPower (s : State) : Host.Outcome State Fault Refusal := .next (settle (carryLowPower s))

/-- The disk answers the Drive Port's request (R85), also when a command has been handed over since: it then waits for the wake.
A decline bars another request until the next return to the quiet condition; a decline taken outside that condition bars none
(assumption log entry 25). -/
def lowPowerAnswered (accepted : Bool) (s : State) : State :=
  match s.drive.link, s.drive.lowPower with
  | .ready, .asked d =>
      bif accepted then setLowPower .idle (setDriveLink (.asleep d) s)
      else setLowPower (bif s.driveQuiet then .declined else .idle) s
  | _, _ => s

/-- DISK_LOW_POWER_ANSWER (R85). -/
def execDiskLowPowerAnswer (accepted : Bool) (s : State) : Host.Outcome State Fault Refusal :=
  .next (settle (lowPowerAnswered accepted s))

/-- DISK_LOW_POWER_REQUEST (R85): declined, whatever the depth, on a downstream link that is up and awake. -/
def execDiskLowPowerRequest (_d : Depth) (s : State) : Host.Outcome State Fault Refusal :=
  .next (bif s.drive.link == .ready || s.drive.link == .starting then emitDown .lowPowerDeclined s else s)

/-- HOST_WAKE (R85). -/
def execHostWake (s : State) : Host.Outcome State Fault Refusal :=
  .next (match s.sys.link with | .asleep _ => settle (setSysLink .ready s) | _ => s)

/-- DISK_WAKE (R85). -/
def execDiskWake (s : State) : Host.Outcome State Fault Refusal :=
  .next (match s.drive.link with | .asleep _ => settle (setDriveLink .ready s) | _ => s)

end Sys2Proof.Machine
end

