-- ==== Sys2Proof/Machine/ClockUnit.lean ====
section
/-! DEFINITION. The Retention Clock's counting (R155 to R157) and the expiry of keys (R33). -/

namespace Sys2Proof.Machine

/-! ## Expiry (R33) -/

/-- The slot is Live with a deadline at or before a minute. -/
def Slot.overdue (minute : Nat) (x : Slot) : Bool :=
  match x.content with
  | .live _ _ _ (some d) => decide (d ≤ minute)
  | _ => false

/-- A Live slot becomes Expired: its key is destroyed, its id, keep class, deadline and generation are kept (R33). -/
def Slot.expire (x : Slot) : Slot :=
  match x.content with
  | .live id _ cls d => { x with content := .expired id cls d }
  | _ => x

/-- The number of overdue slots. -/
def State.overdueCount (s : State) (minute : Nat) : Nat := s.keys.slots.toList.countP (Slot.overdue minute)

/-- The expiry event with a minute count (R33): every overdue slot expires, and KeyExpiry is latched if there is one. -/
def expireSlots (minute : Nat) (s : State) : State :=
  latchIf (decide (s.overdueCount minute ≠ 0)) .keyExpiry
    { s with keys := { s.keys with slots := mapVector (fun x => bif x.overdue minute then x.expire else x) s.keys.slots } }

/-! ## Counting (R155, R156) -/

/-- Replaces the clock. -/
def setClock (c : Clock) (s : State) : State := { s with clock := c }

/-- One second is counted (R156): at 60 the seconds return to 0, and below saturation a minute tick is taken, which with its
expiry is one event (R157). -/
def countSecond (s : State) : State :=
  let c := s.clock
  if c.seconds + 1 < 60 then setClock { c with seconds := c.seconds + 1 } s
  else if c.minute < Config.lastMinute then
    expireSlots (c.minute + 1) (setClock { c with seconds := 0, minute := c.minute + 1 } s)
  else setClock { c with seconds := 0 } s

/-- The cycle carries out of the accumulator (R155). -/
def Clock.carries (c : Clock) : Bool := decide (Config.secondUnits ≤ c.accumulator + c.increment)

/-- One cycle of the standby oscillator while the clock is Set (R155). -/
def countCycle (s : State) : State :=
  let c := s.clock
  let sum := c.accumulator + c.increment
  bif c.carries then countSecond (setClock { c with accumulator := sum - Config.secondUnits } s)
  else setClock { c with accumulator := sum } s

/-- A second counted now would take a minute tick (R156). -/
def Clock.ticks (c : Clock) : Bool := decide (60 ≤ c.seconds + 1) && decide (c.minute < Config.lastMinute)

/-- OSCILLATOR_CYCLE (R155): one cycle, whatever it brings. -/
def execOscillatorCycle (s : State) : Host.Outcome State Fault Refusal :=
  .next (bif s.clock.set then countCycle s else s)

/-- SECOND_COUNTED (R155, R156): a cycle that carries. -/
def execSecondCounted (s : State) : Host.Outcome State Fault Refusal :=
  .next (bif s.clock.set && s.clock.carries then countCycle s else s)

/-- MINUTE_TICK (R157): a cycle that carries into a minute tick. -/
def execMinuteTick (s : State) : Host.Outcome State Fault Refusal :=
  .next (bif s.clock.set && s.clock.carries && s.clock.ticks then countCycle s else s)

end Sys2Proof.Machine
end

