-- ==== Sys2Proof/Machine/Requests.lean ====
section
/-! DEFINITION. What each request of the Module Line does in its owning block (chapters 1, 2, 3, 7, 8 and 9): every check in the
order of its rule, the effect, and the status and body of the answer. -/

namespace Sys2Proof.Machine

/-- The status and the body that the owning rule gives (R165). -/
structure Answer where
  status : ReplyStatus
  body   : List Byte
  deriving DecidableEq, Repr

/-- Refused with a reason: nothing changes, and there is no body (R168). -/
def refused (r : LineReason) (s : State) : State × Answer := (s, { status := .refused r, body := [] })

/-- Done, with a body. -/
def done (body : List Byte) (s : State) : State × Answer := (s, { status := .finished, body := body })

/-- Staged. -/
def stagedReply (s : State) : State × Answer := (s, { status := .staged, body := [] })

/-! ## Retention Clock (R158, R159) -/

/-- SET CLOCK (R159). -/
def setClockTo (m : Nat) (s : State) : State × Answer :=
  let c := s.clock
  let jump := { c with set := true, minute := m, seconds := 0, accumulator := 0 }
  bif !c.set then done (leBytes 4 m ++ [0#8]) (setClock jump s)
  else if m < c.minute then refused .clockBackward s
  else if m = c.minute then done (leBytes 4 m ++ [0#8]) s
  else done (leBytes 4 m ++ [BitVec.ofNat 8 (s.overdueCount m)]) (expireSlots m (setClock jump s))

/-- TRIM CLOCK (R158). -/
def trimClockTo (i : Nat) (s : State) : State × Answer :=
  let v := clamp 256 1023 i
  done (leBytes 2 v) (setClock { s.clock with increment := v } s)

/-! ## Key Table (R29 to R32) -/

/-- The keep class of a class byte (Table 10-2). -/
def keepClassOf (b : Byte) : Option KeepClass :=
  if b = 0x00#8 then some .keepAllowed else if b = 0x01#8 then some .keepNever else none

/-- The lowest-numbered Empty slot. -/
def State.emptySlot (s : State) : Option Nat :=
  (s.keys.slots.toList.zipIdx.find? fun e => e.1.content == .empty).map Prod.snd

/-- A given deadline that LOAD KEY refuses (R29). -/
def State.deadlineFailure (s : State) : Option Nat → Option LineReason
  | none => none
  | some d => if s.clock.set then (if d ≤ s.clock.minute then some .expired else none) else some .clockUnset

/-- The slot after a load (R27, R30). -/
def Slot.loaded (x : Slot) (id : ProgId) (key : Key) (cls : KeepClass) (deadline : Option Nat) : Slot :=
  { content := .live id key cls deadline, generation := x.generation + 1#8 }

/-- LOAD KEY (R29, R30). The waiting commands re-check with the internal steps that follow, before the reply is placed. -/
def loadKeyInto (id : ProgId) (key : Key) (cls : Byte) (deadline : Option Nat) (s : State) : State × Answer :=
  bif s.keys.lockdown then refused .locked s
  else if id = 0#32 then refused .badArgument s
  else match keepClassOf cls with
    | none => refused .badArgument s
    | some c =>
        bif (s.slotOf id).isSome then refused .duplicate s
        else match s.emptySlot with
          | none => refused .full s
          | some i =>
              match s.deadlineFailure deadline with
              | some why => refused why s
              | none =>
                  let x := (s.slot i).loaded id key c deadline
                  done [BitVec.ofNat 8 i, x.generation]
                    (setMissList (s.keys.missList.filter (· != id)) (setSlot i x s))

/-- DROP KEY (R31). -/
def dropKeyOf (id : ProgId) (s : State) : State × Answer :=
  if id = 0#32 then refused .badArgument s
  else match s.slotOf id with
    | none => refused .notFound s
    | some (i, x) => done [BitVec.ofNat 8 i] (setSlot i x.wiped s)

/-- The Live slot with another deadline (R32). -/
def Slot.withDeadline (deadline : Option Nat) (x : Slot) : Slot :=
  match x.content with
  | .live id key cls _ => { x with content := .live id key cls deadline }
  | _ => x

/-- SET DEADLINE on a Live slot (R32): a deadline at or before the current minute expires the slot within the request. -/
def giveDeadline (i : Nat) (x : Slot) (deadline : Option Nat) (s : State) : State × Answer :=
  let y := x.withDeadline deadline
  bif y.overdue s.clock.minute then done [0x02#8] (latch .keyExpiry (setSlot i y.expire s))
  else done [0x01#8] (setSlot i y s)

/-- SET DEADLINE (R32). -/
def setDeadlineOf (id : ProgId) (deadline : Option Nat) (s : State) : State × Answer :=
  if id = 0#32 then refused .badArgument s
  else match s.slotOf id with
    | none => refused .notFound s
    | some (i, x) =>
        match x.content with
        | .live _ _ _ _ =>
            bif deadline.isSome && !s.clock.set then refused .clockUnset s else giveDeadline i x deadline s
        | _ => refused .expired s

/-! ## Region Map (R18 to R21, R24) -/

/-- The target of a definition that may carry one: absent, or within the LBA space (R2). -/
def RawDefinition.targetFits (d : RawDefinition) : Bool := !d.hasTarget || decide (d.target + 2 ^ d.order ≤ Config.lbaSpace)

/-- The target as it is stored. -/
def RawDefinition.target? (d : RawDefinition) : Option Nat := bif d.hasTarget then some d.target else none

/-- The kind with the fields it carries, or none where the kind or a field it carries is not allowed (R2, R18). -/
def RawDefinition.kind? (d : RawDefinition) : Option DefKind :=
  match d.kind.toNat with
  | 0 => bif d.targetFits then some (.clear d.target?) else none
  | 1 => bif d.targetFits && d.id != 0#32 then some (.programme d.target? d.id) else none
  | 2 => if d.ring < Config.ringCount then some (.ring d.ring) else none
  | 3 => some .barred
  | 4 => some .overlay
  | _ => none

/-- The block of a definition is one of R2. -/
def RawDefinition.blockFits (d : RawDefinition) : Bool :=
  decide (11 ≤ d.order) && decide (d.order ≤ 40) && decide (d.base % 2 ^ d.order = 0)
    && decide (d.base + 2 ^ d.order ≤ Config.lbaSpace)

/-- The definition that is stored (R18), or none for BadArgument. -/
def RawDefinition.definition? (d : RawDefinition) : Option Definition :=
  bif d.blockFits then
    d.kind?.map fun k => { kind := k, base := d.base, order := d.order, readBar := d.readBar, writeBar := d.writeBar }
  else none

/-- The entry's active definition names a Live ring (R19). -/
def State.entryLive (s : State) (i : Nat) : Bool :=
  match (s.entry i).active.bind fun d => d.kind.ring? with
  | some r => (s.ring r).live
  | none => false

/-- The ring that a staged definition names. -/
def Staged.ring? : Staged → Option Nat
  | .define d => d.kind.ring?
  | .vacate => none

/-- The entry names a ring by its active or its pending definition (R19). -/
def RegionEntry.names (r : Nat) (e : RegionEntry) : Bool :=
  (e.active.bind fun d => d.kind.ring?) == some r || (e.staged.bind Staged.ring?) == some r

/-- Another entry names the ring of a definition (R19). -/
def State.ringTaken (s : State) (i : Nat) (d : Definition) : Bool :=
  match d.kind.ring? with
  | some r => s.regions.entries.toList.zipIdx.any fun e => decide (e.2 ≠ i) && e.1.names r
  | none => false

/-- The definition that PUT REGION stores, or the reason it is refused (R18, R19). -/
def State.putCheck (s : State) (i : Nat) (d : RawDefinition) : Except LineReason Definition :=
  if Config.regionCount ≤ i then .error .badArgument
  else match d.definition? with
    | none => .error .badArgument
    | some x => bif s.entryLive i then .error .ringLive else bif s.ringTaken i x then .error .ringTaken else .ok x

/-- A definition is applied under Now (R20). -/
def defineEntry (i : Nat) (d : Definition) (s : State) : State :=
  mapEntry i (fun e => { e with active := some d, staged := none }) s

/-- A change is staged, replacing any earlier one (R21, R24). -/
def stageEntry (i : Nat) (x : Staged) (s : State) : State := mapEntry i (fun e => { e with staged := some x }) s

/-- The entry becomes Vacant, with no pending definition (R24). -/
def vacateEntry (i : Nat) (s : State) : State := mapEntry i (fun e => { e with active := none, staged := none }) s

/-- PUT REGION, Now (R20). -/
def putNow (i : Nat) (d : RawDefinition) (s : State) : State × Answer :=
  match s.putCheck i d with
  | .error why => refused why s
  | .ok x => done [] (defineEntry i x s)

/-- PUT REGION, Boundary (R21). -/
def putBoundary (i : Nat) (d : RawDefinition) (s : State) : State × Answer :=
  match s.putCheck i d with
  | .error why => refused why s
  | .ok x => if (s.entry i).inFlight = 0 then done [] (defineEntry i x s) else stagedReply (stageEntry i (.define x) s)

/-- The reason FREE REGION is refused (R24). -/
def State.freeCheck (s : State) (i : Nat) : Option LineReason :=
  if Config.regionCount ≤ i then some .badArgument else bif s.entryLive i then some .ringLive else none

/-- FREE REGION, Now (R24). -/
def freeNow (i : Nat) (s : State) : State × Answer :=
  match s.freeCheck i with
  | some why => refused why s
  | none => done [] (vacateEntry i s)

/-- FREE REGION, Boundary (R24): on a Vacant entry with no pending definition nothing changes. -/
def freeBoundary (i : Nat) (s : State) : State × Answer :=
  match s.freeCheck i with
  | some why => refused why s
  | none =>
      let e := s.entry i
      bif e.active.isNone && e.staged.isNone then done [] s
      else if e.inFlight = 0 then done [] (vacateEntry i s)
      else stagedReply (stageEntry i .vacate s)

/-! ## Ring Unit (R50 to R54) -/

/-- P and W hold values of R46. -/
def shapeFits (pb p w : Nat) : Bool :=
  if p = 0 then decide (pb = 0) && decide (w = 0)
  else decide (p % 8 = 0) && decide (131072 ≤ p) && decide (p ≤ 2 ^ 32) && decide (w % 8 = 0) && decide (2048 ≤ w)
    && decide (w ≤ p) && decide (pb + p ≤ Config.lbaSpace)

/-- SHAPE RING (R50). -/
def shapeRingTo (r pb p w : Nat) (s : State) : State × Answer :=
  if Config.ringCount ≤ r then refused .badArgument s
  else bif !shapeFits pb p w then refused .badArgument s
  else bif (s.ring r).live then refused .ringLive s
  else if (s.ring r).users ≠ 0 then refused .busy s
  else bif decide (p ≠ 0) && s.meetsSpan (some r) pb (pb + p) then refused .overlap s
  else done [] (mapRing r (fun x => { x with base := pb, span := p, trail := w }) s)

/-- An entry's active definition names the ring, and it holds no pending definition (R19). -/
def State.mappedRing (s : State) (r : Nat) : Bool :=
  s.regions.entries.toList.any fun e => (e.active.bind fun d => d.kind.ring?) == some r && e.staged.isNone

/-- The ring at OPEN RING (R51). Its access list is empty: every access belongs to a command that the user count counts (R46,
R63), and that count is 0. -/
def Ring.opened (x : Ring) (id : ProgId) : Ring :=
  { x with live := true, claim := 0, head := 0, floor := 0, epochs := [{ start := 0, id := id }], accesses := [] }

/-- OPEN RING (R51). -/
def openRingAt (r : Nat) (id : ProgId) (s : State) : State × Answer :=
  if Config.ringCount ≤ r ∨ id = 0#32 ∨ (s.ring r).span = 0 then refused .badArgument s
  else bif s.keys.lockdown then refused .locked s
  else bif (s.ring r).live then refused .ringLive s
  else bif !s.mappedRing r then refused .notMapped s
  else if (s.ring r).users ≠ 0 then refused .busy s
  else done [] (mapRing r (fun x => x.opened id) s)

/-- The answer of an accepted SWITCH RING (R52): the start of the new or renamed epoch and the number of epochs. -/
def switched (r : Nat) (x : Ring) (s : State) : State × Answer :=
  done (leBytes 8 x.claim ++ [BitVec.ofNat 8 x.epochs.length]) (mapRing r (fun _ => x) s)

/-- SWITCH RING on a Live ring (R52, R53). -/
def switchLive (r : Nat) (id : ProgId) (s : State) : State × Answer :=
  let x := s.ring r
  let fresh : Epoch := { start := x.claim, id := id }
  bif x.epochs.getLast?.map Epoch.start == some x.claim then
    switched r { x with epochs := x.epochs.dropLast ++ [fresh] } s
  else if x.epochs.length < Config.epochPlaces then switched r { x with epochs := x.epochs ++ [fresh] } s
  else match x.epochs with
    | _ :: second :: rest =>
        if x.head < second.start then refused .full s
        else switched r { x with floor := second.start, epochs := second :: rest ++ [fresh] } (latch .epochCut s)
    | _ => refused .full s

/-- SWITCH RING (R52). -/
def switchRingTo (r : Nat) (id : ProgId) (s : State) : State × Answer :=
  if Config.ringCount ≤ r ∨ id = 0#32 then refused .badArgument s
  else bif !(s.ring r).live then refused .ringIdle s
  else switchLive r id s

/-- CLOSE RING (R54, R149). -/
def closeRingOf (r : Nat) (s : State) : State × Answer :=
  if Config.ringCount ≤ r then refused .badArgument s
  else bif !(s.ring r).live then refused .ringIdle s
  else done [] (stopJobs (fun j => j.ring == r) (.failed .ringStopped) (mapRing r Ring.closed s))

/-! ## Keep Unit (R134 to R136, R148) -/

/-- The extents hold values of R134, order 3. -/
def extentsFit (es : List (Nat × Nat)) : Bool :=
  decide (1 ≤ es.length) && decide (es.length ≤ 4) &&
    es.all fun e => decide (1 ≤ e.2) && decide (e.2 ≤ 2 ^ 24) && decide (e.1 + e.2 ≤ Config.lbaSpace)

/-- The range lies within the ring's window (R47, R134). -/
def Ring.inWindow (r : Ring) (a n : Nat) : Bool := decide (r.lower ≤ a) && decide (a + n ≤ r.head)

/-- The source segments of `[a, a + n)`: the epochs it meets, the first start replaced by `a` (R70). -/
def Ring.segments (r : Ring) (a n : Nat) : List Epoch :=
  match segmentsHolding a n r.epochs with
  | e :: rest => { e with start := a } :: rest
  | [] => []

/-- The disk LBA of an extent's first sector, when its sectors meet the conditions 2 to 6 of R135 for this programme id. -/
def State.extentDisk (s : State) (id : ProgId) (e : Nat × Nat) : Option Extent :=
  match (s.classOf e.1).disk with
  | some d => bif s.destinationFits id e.1 e.2 d then some { host := e.1, count := e.2, disk := d } else none
  | none => none

/-- The destination programme id and the extents with their disk LBAs, when the destination test passes (R135). -/
def State.destination (s : State) (n : Nat) (es : List (Nat × Nat)) : Option (ProgId × List Extent) :=
  if (es.map Prod.snd).sum ≠ n then none
  else match (es.head?).bind fun e => (s.classOf e.1).id with
    | some id => (es.mapM (s.extentDisk id)).map fun xs => (id, xs)
    | none => none

/-- Two of the extents overlap (R134, order 9). -/
def extentsMeet : List (Nat × Nat) → Bool
  | [] => false
  | e :: rest => (rest.any fun f => rangesMeet e.1 (e.1 + e.2) f.1 (f.1 + f.2)) || extentsMeet rest

/-- A data command in the Command Table meets an extent (R134, order 10). -/
def State.recordMeets (s : State) (e : Nat × Nat) : Bool :=
  s.tracker.records.any fun r => r.kind.isData && rangesMeet r.host (r.host + r.count) e.1 (e.1 + e.2)

/-- The next id after one (R132). -/
def idAfter (id : Nat) : Nat := if 255 ≤ id then 1 else id + 1

/-- The first id at or after one that no job of the queue holds, within a number of steps (R132). -/
def freeId (queue : List Job) : Nat → Nat → Nat
  | 0, id => id
  | n + 1, id => if queue.any (fun j => j.id == id) then freeId queue n (idAfter id) else id

/-- The id that a job takes at acceptance (R132). -/
def State.jobId (s : State) : Nat := freeId s.keep.queue Config.keepQueuePlaces s.keep.nextId

/-- The base of the Ring-kind entry that names a ring (R136). -/
def State.ringEntryBase (s : State) (r : Nat) : Nat :=
  ((s.activeDefs.find? fun e => e.2.kind.ring? == some r).map fun e => e.2.base).getD 0

/-- The job of an accepted SUBMIT KEEP (R136). -/
def State.newJob (s : State) (r : Nat) (policy : ErrorPolicy) (a n : Nat) (id : ProgId) (es : List Extent) : Job :=
  { id := s.jobId, ring := r, sourceBase := s.ringEntryBase r, start := a, upto := a + n, acceptedUpto := a + n, cursor := a,
    segments := (s.ring r).segments a n, extents := es, destination := id, policy := policy, skipped := 0, phase := .idle,
    stopOutcome := none }

/-- The job joins the tail of the Keep Queue (R136). -/
def acceptJob (j : Job) (s : State) : State × Answer :=
  done [BitVec.ofNat 8 j.id, BitVec.ofNat 8 j.segments.length]
    { s with keep := { s.keep with queue := s.keep.queue ++ [j], nextId := idAfter j.id } }

/-- The reason for which the arguments, the ring and the source refuse SUBMIT KEEP (R134, orders 1 to 6). -/
def State.sourceFailure (s : State) (r a n : Nat) (es : List (Nat × Nat)) : Option LineReason :=
  bif s.keys.lockdown then some .locked
  else if Config.keepQueuePlaces ≤ s.keep.queue.length then some .full
  else bif decide (Config.ringCount ≤ r) || !extentsFit es || decide (n = 0) || decide (2 ^ 26 < n) then some .badArgument
  else bif !(s.ring r).live then some .ringIdle
  else bif !(s.ring r).inWindow a n then some .ringStale
  else bif ((s.ring r).segments a n).any (fun e => !s.keepAllowed e.id) then some .keepRule
  else none

/-- The reason for which the destination refuses SUBMIT KEEP after its test has passed (R134, orders 8 to 10). -/
def State.targetFailure (s : State) (id : ProgId) (es : List (Nat × Nat)) : Option LineReason :=
  bif !s.keepAllowed id then some .keepRule
  else bif extentsMeet es || es.any (fun e => s.busyRange e.1 e.2) then some .overlap
  else bif es.any s.recordMeets then some .busy
  else none

/-- SUBMIT KEEP (R134 to R136). -/
def submitKeepOf (r : Nat) (policy : ErrorPolicy) (a n : Nat) (es : List (Nat × Nat)) (s : State) : State × Answer :=
  match s.sourceFailure r a n es with
  | some why => refused why s
  | none =>
      match s.destination n es with
      | none => refused .mismatch s
      | some (id, xs) =>
          match s.targetFailure id es with
          | some why => refused why s
          | none => acceptJob (s.newJob r policy a n id xs) s

/-- A job of the Keep Queue holds the id. -/
def State.holdsJob (s : State) (id : Nat) : Bool := s.keep.queue.any fun j => j.id == id

/-- CANCEL KEEP (R148): the body tells whether the job has ended or is stopping. -/
def cancelKeepOf (id : Nat) (s : State) : State × Answer :=
  if id = 0 then refused .badArgument s
  else bif !s.holdsJob id then refused .notFound s
  else
    let s := stopJob .cancelled s id
    done [flagByte (s.holdsJob id)] s

/-! ## Alerts (R171) -/

/-- CLEAR ALERTS (R171). -/
def clearAlertsOf (set : AlertSet) (s : State) : State × Answer :=
  bif AlertSet.beyond set then refused .badArgument s
  else
    let left := s.line.latched &&& ~~~set
    done [left] { s with line := { s.line with latched := left } }

/-- MASK ALERTS (R171). -/
def maskAlertsTo (set : AlertSet) (s : State) : State × Answer :=
  bif AlertSet.beyond set then refused .badArgument s
  else done [set, s.line.latched] { s with line := { s.line with enabled := set } }

end Sys2Proof.Machine
end

