-- ==== Sys2Proof/Machine/Reports.lean ====
section
/-! DEFINITION. The READ STATUS reports (R169) in the layouts of section 10.3. None of them changes the part. -/

namespace Sys2Proof.Machine

/-- Zero bytes. -/
def zeroBytes (n : Nat) : List Byte := List.replicate n 0#8

/-- A count as one byte. -/
def countByte (n : Nat) : Byte := BitVec.ofNat 8 n

/-- Bytes filled with zeros up to a length. -/
def padTo (n : Nat) (bytes : List Byte) : List Byte := bytes ++ zeroBytes (n - bytes.length)

/-! ## Alerts, clock, profile -/

/-- The alerts report (R169, R170). -/
def State.alertsReport (s : State) : List Byte := [s.line.latched, s.line.enabled, flagByte s.alert]

/-- The clock report (R154). -/
def State.clockReport (s : State) : List Byte :=
  [flagByte s.clock.set, countByte s.clock.seconds] ++ leBytes 2 s.clock.increment ++ leBytes 4 s.clock.minute
    ++ leBytes 4 s.clock.accumulator

/-- The code of the unmapped policy (Table 10-4). -/
def UnmappedPolicy.code : UnmappedPolicy → Byte
  | .pass => 0x00#8
  | .bar => 0x01#8

/-- The code of the arbiter policy (Table 10-4). -/
def ArbiterPolicy.code : ArbiterPolicy → Byte
  | .fixed => 0x00#8
  | .alternate => 0x01#8

/-- The code of a key-wait choice (Table 10-4). -/
def keyWaitCode (ms : Nat) : Byte :=
  if ms = 50 then 0x00#8 else if ms = 200 then 0x01#8 else if ms = 800 then 0x02#8 else 0x03#8

/-- The code of an overrun choice (Table 10-4). -/
def overrunCode (ms : Nat) : Byte :=
  if ms = 100 then 0x00#8 else if ms = 400 then 0x01#8 else if ms = 1600 then 0x02#8 else 0x03#8

/-- The profile-in-use report (R173). -/
def Profile.report (p : Profile) : List Byte :=
  [countByte p.partTags, p.unmapped.code, p.arbiter.code, countByte p.holdLimit, keyWaitCode p.keyWaitMs,
    overrunCode p.overrunMs, countByte p.gate] ++ leBytes 2 p.increment ++ [p.alertMask] ++ leBytes 2 p.marks.toNat
    ++ [p.result.code]

/-! ## Key table and Miss List -/

/-- A deadline's flag and its value, 0 while absent. -/
def deadlineRecord (d : Option Nat) : Byte × Nat := (flagByte d.isSome, d.getD 0)

/-- A key slot record (R26): the key is no part of it. The id and deadline bytes of an Empty slot, and the deadline bytes while
no deadline is present, are zeros: DESIGN CHOICE, assumption log entry 44. -/
def Slot.report (x : Slot) : List Byte :=
  match x.content with
  | .empty => [0x00#8, 0x00#8, x.generation, 0x00#8] ++ leBytes 4 0 ++ leBytes 4 0
  | .live id _ cls d =>
      [0x01#8, cls.code, x.generation, (deadlineRecord d).1] ++ leBytes 4 id.toNat ++ leBytes 4 (deadlineRecord d).2
  | .expired id cls d =>
      [0x02#8, cls.code, x.generation, (deadlineRecord d).1] ++ leBytes 4 id.toNat ++ leBytes 4 (deadlineRecord d).2

/-- The key table report (R26). -/
def State.keyTableReport (s : State) : List Byte := s.keys.slots.toList.flatMap Slot.report

/-- The miss list report (R37). -/
def State.missListReport (s : State) : List Byte :=
  countByte s.keys.missList.length :: s.keys.missList.flatMap fun id => leBytes 4 id.toNat ++ [countByte (s.waiters id)]

/-! ## Regions -/

/-- A stored definition in the fields of section 10.2: those its kind does not carry are 0, and so is the target of a Clear or
Programme definition that has none (DESIGN CHOICE, assumption log entry 44). -/
def Definition.raw (d : Definition) : RawDefinition :=
  let plain : RawDefinition :=
    { kind := 0#8, order := d.order, readBar := d.readBar, writeBar := d.writeBar, hasTarget := false, ring := 0,
      base := d.base, target := 0, id := 0#32 }
  match d.kind with
  | .clear t => { plain with hasTarget := t.isSome, target := t.getD 0 }
  | .programme t id => { plain with kind := 1#8, hasTarget := t.isSome, target := t.getD 0, id := id }
  | .ring r => { plain with kind := 2#8, ring := r }
  | .barred => { plain with kind := 3#8 }
  | .overlay => { plain with kind := 4#8 }

/-- A definition in 24 bytes, all zero while absent. -/
def definitionBytes : Option Definition → List Byte
  | some d => d.raw.encode
  | none => zeroBytes 24

/-- The code of the pending field and the pending definition. -/
def pendingBytes : Option Staged → Byte × Option Definition
  | none => (0x00#8, none)
  | some (.define d) => (0x01#8, some d)
  | some .vacate => (0x02#8, none)

/-- The region report of one index (R1). -/
def RegionEntry.report (e : RegionEntry) : List Byte :=
  [flagByte e.active.isSome, (pendingBytes e.staged).1, countByte e.inFlight, 0x00#8] ++ definitionBytes e.active
    ++ definitionBytes (pendingBytes e.staged).2

/-! ## Rings -/

/-- The accesses of a ring that are writes held in Overrun (R46). -/
def State.overrunWrites (s : State) (r : Ring) : Nat :=
  r.accesses.countP fun a => a.write && s.tracker.overrun.contains a.record

/-- Four epochs or segments in 12 bytes each. -/
def epochBytes (es : List Epoch) : List Byte := es.flatMap fun e => leBytes 8 e.start ++ leBytes 4 e.id.toNat

/-- The ring report (R46). -/
def State.ringReport (s : State) (r : Ring) : List Byte :=
  [flagByte r.live, countByte r.epochs.length, countByte r.accesses.length, countByte (s.overrunWrites r),
    countByte r.users] ++ zeroBytes 3 ++ leBytes 8 r.base ++ leBytes 8 r.span ++ leBytes 8 r.trail ++ leBytes 8 r.claim
    ++ leBytes 8 r.head ++ leBytes 8 r.floor ++ leBytes 8 r.lower ++ padTo 48 (epochBytes r.epochs)

/-! ## Keep jobs -/

/-- A write held in Overrun counts the job among its blocking jobs (R70, R131). -/
def State.jobBlocks (s : State) (j : Job) : Bool := s.tracker.overrun.any fun k => s.blocks k j

/-- The marks byte of a keep job record. -/
def State.jobMarks (s : State) (j : Job) : Byte :=
  countByte (j.stopOutcome.isSome.toNat + 2 * (s.jobBlocks j).toNat + 16 * stopCode j.stopOutcome)

/-- The segments of a job: start minus a, and id. -/
def Job.segmentBytes (j : Job) : List Byte := j.segments.flatMap fun e => leBytes 4 (e.start - j.start) ++ leBytes 4 e.id.toNat

/-- The extents of a job: host LBA and length. -/
def Job.extentRecord (j : Job) : List Byte := j.extents.flatMap fun e => leBytes 8 e.host ++ leBytes 4 e.count

/-- A keep job record (R131). The places of unused segments and extents are zeros: DESIGN CHOICE, assumption log entry 44. -/
def State.jobRecord (s : State) (active : Bool) (j : Job) : List Byte :=
  [countByte j.id, flagByte active, countByte j.ring, j.policy.code, j.phase.code, countByte j.segments.length,
    countByte j.extents.length, s.jobMarks j] ++ leBytes 8 j.start ++ leBytes 4 (j.upto - j.start)
    ++ leBytes 4 (j.cursor - j.start) ++ leBytes 4 j.skipped ++ leBytes 4 j.destination.toNat ++ padTo 32 j.segmentBytes
    ++ padTo 48 j.extentRecord

/-- The keep queue report (R131): the head of the queue is Active. -/
def State.keepQueueReport (s : State) : List Byte :=
  match s.keep.queue with
  | [] => [countByte 0]
  | j :: rest => countByte (rest.length + 1) :: (s.jobRecord true j ++ rest.flatMap (s.jobRecord false))

/-- An entry of the outcome list report (R133). -/
def OutcomeEntry.report (e : OutcomeEntry) : List Byte :=
  [countByte e.id, countByte e.ring, e.outcome.code, countByte e.outcome.reasonCode] ++ leBytes 8 e.cursor
    ++ leBytes 4 e.skipped

/-- The outcome list report (R133). -/
def State.outcomeReport (s : State) : List Byte :=
  countByte s.keep.outcomes.length :: s.keep.outcomes.flatMap OutcomeEntry.report

end Sys2Proof.Machine
end

