-- ==== Sys2Proof/Machine/ModuleLine.lean ====
section
/-! DEFINITION. The Module Line (R163 to R169, R175 to R178): sends, fetches, and the step that takes the request in progress,
with one meaning for each request row. -/

namespace Sys2Proof.Machine

/-! ## Sends and fetches -/

/-- A send completes (R165, R167): its frame becomes the request in progress, or it is an overlap and is discarded unread. -/
def sendFrame (frame : List Byte) (s : State) : State :=
  match s.line.request with
  | some _ => latch .lineOverlap s
  | none =>
      { s with line := { s.line with
          request := some frame
          state := match s.line.state with | .loading => .loading | _ => .working } }

/-- SEND (R165). The part shifts out filler while a send is clocked in, whose value R163 does not give: nothing joins the log of
the Module Line for it. DESIGN CHOICE, assumption log entry 46. -/
def execSend (frame : List Byte) (s : State) : Host.Outcome State Fault Refusal := .next (sendFrame frame s)

/-- The reply that a fetch returns (R166). The Pending reply to a malformed frame in progress that has no sequence byte carries
0: R176 gives that value for the later Refused reply alone. DESIGN CHOICE, assumption log entry 47. -/
def State.fetched (s : State) : Reply :=
  match s.line.request, s.line.reply with
  | some f, _ => { status := .waiting, sequence := frameSequence f, body := [] }
  | none, some r => r
  | none, none => { status := .waiting, sequence := 0#8, body := [] }

/-- The bytes shifted out when the security module clocks `n` of them: the reply frame, then filler (R163, R178). -/
def shiftedOut (n : Nat) (r : Reply) : List Byte := (r.frame ++ List.replicate n 0xFF#8).take n

/-- FETCH (R166): the reply stays in the slot. -/
def execFetch (clocked : Nat) (s : State) : Host.Outcome State Fault Refusal :=
  .next (emitSpi (shiftedOut clocked s.fetched) s)

/-! ## Taking the request in progress (R165, R176, R177) -/

/-- The answer to a frame in progress: malformed and mismatched frames are refused BadArgument and unknown types Unknown,
without reaching a block; any other goes to its owner. -/
def answerFrame (serve : Request → State → State × Answer) (f : List Byte) (s : State) : State × Answer :=
  match decodeFrame f with
  | .malformed => refused .badArgument s
  | .unknownType => refused .unknown s
  | .mismatched => refused .badArgument s
  | .request r => serve r s

/-- The reply is placed, the request in progress becomes absent, and the line is Idle (R165). -/
def placeReply (f : List Byte) (a : Answer) (s : State) : State :=
  { s with line := { s.line with
      state := .idle
      request := none
      reply := some { status := a.status, sequence := frameSequence f, body := a.body } } }

/-- The step of a request row (R165): the request in progress, when it is this row's, is carried out whole with every effect
that its rule places before the reply, and the reply is placed. -/
def takeRequest (row : RequestRow) (serve : Request → State → State × Answer) (s : State) : State :=
  match s.line.state, s.line.request with
  | .working, some f =>
      bif rowOf f == row then
        let out := answerFrame serve f s
        placeReply f out.2 (settle out.1)
      else s
  | _, _ => s

/-- No request reaches a block from this row. -/
def serveNone : Request → State → State × Answer
  | _, s => refused .badArgument s

/-- MALFORMED_FRAME (R176). -/
def execMalformedFrame (s : State) : Host.Outcome State Fault Refusal := .next (takeRequest .malformedFrame serveNone s)

/-- UNKNOWN_REQUEST (R165). -/
def execUnknownRequest (s : State) : Host.Outcome State Fault Refusal := .next (takeRequest .unknownRequest serveNone s)

/-- What SET CLOCK serves. -/
def serveSetClock : Request → State → State × Answer
  | .setClock m, s => setClockTo m s
  | _, s => refused .badArgument s

/-- SET_CLOCK (R159). -/
def execSetClock (s : State) : Host.Outcome State Fault Refusal := .next (takeRequest .setClock serveSetClock s)

/-- What TRIM CLOCK serves. -/
def serveTrimClock : Request → State → State × Answer
  | .trimClock i, s => trimClockTo i s
  | _, s => refused .badArgument s

/-- TRIM_CLOCK (R158). -/
def execTrimClock (s : State) : Host.Outcome State Fault Refusal := .next (takeRequest .trimClock serveTrimClock s)

/-- What LOAD KEY serves. -/
def serveLoadKey : Request → State → State × Answer
  | .loadKey id key cls d, s => loadKeyInto id key cls d s
  | _, s => refused .badArgument s

/-- LOAD_KEY (R29, R30). -/
def execLoadKey (s : State) : Host.Outcome State Fault Refusal := .next (takeRequest .loadKey serveLoadKey s)

/-- What DROP KEY serves. -/
def serveDropKey : Request → State → State × Answer
  | .dropKey id, s => dropKeyOf id s
  | _, s => refused .badArgument s

/-- DROP_KEY (R31). -/
def execDropKey (s : State) : Host.Outcome State Fault Refusal := .next (takeRequest .dropKey serveDropKey s)

/-- What SET DEADLINE serves. -/
def serveSetDeadline : Request → State → State × Answer
  | .setDeadline id d, s => setDeadlineOf id d s
  | _, s => refused .badArgument s

/-- SET_DEADLINE (R32). -/
def execSetDeadline (s : State) : Host.Outcome State Fault Refusal := .next (takeRequest .setDeadline serveSetDeadline s)

/-- What PUT REGION serves under Now timing. -/
def servePutNow : Request → State → State × Answer
  | .putRegion i false d, s => putNow i d s
  | _, s => refused .badArgument s

/-- PUT_REGION_NOW (R20). -/
def execPutRegionNow (s : State) : Host.Outcome State Fault Refusal := .next (takeRequest .putRegionNow servePutNow s)

/-- What PUT REGION serves under Boundary timing. -/
def servePutBoundary : Request → State → State × Answer
  | .putRegion i true d, s => putBoundary i d s
  | _, s => refused .badArgument s

/-- PUT_REGION_BOUNDARY (R21). -/
def execPutRegionBoundary (s : State) : Host.Outcome State Fault Refusal :=
  .next (takeRequest .putRegionBoundary servePutBoundary s)

/-- What FREE REGION serves under Now timing. -/
def serveFreeNow : Request → State → State × Answer
  | .freeRegion i false, s => freeNow i s
  | _, s => refused .badArgument s

/-- FREE_REGION_NOW (R24). -/
def execFreeRegionNow (s : State) : Host.Outcome State Fault Refusal := .next (takeRequest .freeRegionNow serveFreeNow s)

/-- What FREE REGION serves under Boundary timing. -/
def serveFreeBoundary : Request → State → State × Answer
  | .freeRegion i true, s => freeBoundary i s
  | _, s => refused .badArgument s

/-- FREE_REGION_BOUNDARY (R24). -/
def execFreeRegionBoundary (s : State) : Host.Outcome State Fault Refusal :=
  .next (takeRequest .freeRegionBoundary serveFreeBoundary s)

/-- What SHAPE RING serves. -/
def serveShapeRing : Request → State → State × Answer
  | .shapeRing r pb p w, s => shapeRingTo r pb p w s
  | _, s => refused .badArgument s

/-- SHAPE_RING (R50). -/
def execShapeRing (s : State) : Host.Outcome State Fault Refusal := .next (takeRequest .shapeRing serveShapeRing s)

/-- What OPEN RING serves. -/
def serveOpenRing : Request → State → State × Answer
  | .openRing r id, s => openRingAt r id s
  | _, s => refused .badArgument s

/-- OPEN_RING (R51). -/
def execOpenRing (s : State) : Host.Outcome State Fault Refusal := .next (takeRequest .openRing serveOpenRing s)

/-- What SWITCH RING serves. -/
def serveSwitchRing : Request → State → State × Answer
  | .switchRing r id, s => switchRingTo r id s
  | _, s => refused .badArgument s

/-- SWITCH_RING (R52). -/
def execSwitchRing (s : State) : Host.Outcome State Fault Refusal := .next (takeRequest .switchRing serveSwitchRing s)

/-- What CLOSE RING serves. -/
def serveCloseRing : Request → State → State × Answer
  | .closeRing r, s => closeRingOf r s
  | _, s => refused .badArgument s

/-- CLOSE_RING (R54). -/
def execCloseRing (s : State) : Host.Outcome State Fault Refusal := .next (takeRequest .closeRing serveCloseRing s)

/-- What SUBMIT KEEP serves. -/
def serveSubmitKeep : Request → State → State × Answer
  | .submitKeep r p a n es, s => submitKeepOf r p a n es s
  | _, s => refused .badArgument s

/-- SUBMIT_KEEP (R134 to R136). -/
def execSubmitKeep (s : State) : Host.Outcome State Fault Refusal := .next (takeRequest .submitKeep serveSubmitKeep s)

/-- What CANCEL KEEP serves. -/
def serveCancelKeep : Request → State → State × Answer
  | .cancelKeep id, s => cancelKeepOf id s
  | _, s => refused .badArgument s

/-- CANCEL_KEEP (R148). -/
def execCancelKeep (s : State) : Host.Outcome State Fault Refusal := .next (takeRequest .cancelKeep serveCancelKeep s)

/-! ## READ STATUS (R169) -/

/-- What READ STATUS of the alerts serves; any other selector that reaches the row is none of the table's. -/
def serveStatusAlerts : Request → State → State × Answer
  | .readStatus 0 _, s => done s.alertsReport s
  | _, s => refused .badArgument s

/-- READ_STATUS_ALERTS (R169, R170). -/
def execReadStatusAlerts (s : State) : Host.Outcome State Fault Refusal :=
  .next (takeRequest .readStatusAlerts serveStatusAlerts s)

/-- What READ STATUS of the clock serves. -/
def serveStatusClock : Request → State → State × Answer
  | .readStatus _ _, s => done s.clockReport s
  | _, s => refused .badArgument s

/-- READ_STATUS_CLOCK (R154). -/
def execReadStatusClock (s : State) : Host.Outcome State Fault Refusal :=
  .next (takeRequest .readStatusClock serveStatusClock s)

/-- What READ STATUS of the key table serves. -/
def serveStatusKeyTable : Request → State → State × Answer
  | .readStatus _ _, s => done s.keyTableReport s
  | _, s => refused .badArgument s

/-- READ_STATUS_KEY_TABLE (R26). -/
def execReadStatusKeyTable (s : State) : Host.Outcome State Fault Refusal :=
  .next (takeRequest .readStatusKeyTable serveStatusKeyTable s)

/-- What READ STATUS of a region serves. -/
def serveStatusRegion : Request → State → State × Answer
  | .readStatus _ i, s => if i < Config.regionCount then done (s.entry i).report s else refused .badArgument s
  | _, s => refused .badArgument s

/-- READ_STATUS_REGION (R1). -/
def execReadStatusRegion (s : State) : Host.Outcome State Fault Refusal :=
  .next (takeRequest .readStatusRegion serveStatusRegion s)

/-- What READ STATUS of a ring serves. -/
def serveStatusRing : Request → State → State × Answer
  | .readStatus _ r, s => if r < Config.ringCount then done (s.ringReport (s.ring r)) s else refused .badArgument s
  | _, s => refused .badArgument s

/-- READ_STATUS_RING (R46). -/
def execReadStatusRing (s : State) : Host.Outcome State Fault Refusal :=
  .next (takeRequest .readStatusRing serveStatusRing s)

/-- What READ STATUS of the keep queue serves. -/
def serveStatusKeepQueue : Request → State → State × Answer
  | .readStatus _ _, s => done s.keepQueueReport s
  | _, s => refused .badArgument s

/-- READ_STATUS_KEEP_QUEUE (R131). -/
def execReadStatusKeepQueue (s : State) : Host.Outcome State Fault Refusal :=
  .next (takeRequest .readStatusKeepQueue serveStatusKeepQueue s)

/-- What READ STATUS of the outcome list serves. -/
def serveStatusOutcomes : Request → State → State × Answer
  | .readStatus _ _, s => done s.outcomeReport s
  | _, s => refused .badArgument s

/-- READ_STATUS_OUTCOME_LIST (R133). -/
def execReadStatusOutcomeList (s : State) : Host.Outcome State Fault Refusal :=
  .next (takeRequest .readStatusOutcomeList serveStatusOutcomes s)

/-- What READ STATUS of the miss list serves. -/
def serveStatusMissList : Request → State → State × Answer
  | .readStatus _ _, s => done s.missListReport s
  | _, s => refused .badArgument s

/-- READ_STATUS_MISS_LIST (R37). -/
def execReadStatusMissList (s : State) : Host.Outcome State Fault Refusal :=
  .next (takeRequest .readStatusMissList serveStatusMissList s)

/-- What READ STATUS of the profile in use serves. -/
def serveStatusProfile : Request → State → State × Answer
  | .readStatus _ _, s => done s.line.profile.report s
  | _, s => refused .badArgument s

/-- READ_STATUS_PROFILE_IN_USE (R173). -/
def execReadStatusProfileInUse (s : State) : Host.Outcome State Fault Refusal :=
  .next (takeRequest .readStatusProfileInUse serveStatusProfile s)

/-! ## Alert requests (R171) -/

/-- What CLEAR ALERTS serves. -/
def serveClearAlerts : Request → State → State × Answer
  | .clearAlerts set, s => clearAlertsOf set s
  | _, s => refused .badArgument s

/-- CLEAR_ALERTS (R171). -/
def execClearAlerts (s : State) : Host.Outcome State Fault Refusal := .next (takeRequest .clearAlerts serveClearAlerts s)

/-- What MASK ALERTS serves. -/
def serveMaskAlerts : Request → State → State × Answer
  | .maskAlerts set, s => maskAlertsTo set s
  | _, s => refused .badArgument s

/-- MASK_ALERTS (R171). -/
def execMaskAlerts (s : State) : Host.Outcome State Fault Refusal := .next (takeRequest .maskAlerts serveMaskAlerts s)

end Sys2Proof.Machine
end

