-- ==== Sys2Proof/Machine/Dispatch.lean ====
section
/-! DEFINITION. One arm per command: a direct call of its meaning. -/

namespace Sys2Proof.Machine

def exec (i : Instr) (s : State) : Host.Outcome State Fault Refusal :=
  match i with
  | .powerOnReset => Sys2Proof.Machine.execPowerOnReset s
  | .profileLoadEnd r => Sys2Proof.Machine.execProfileLoadEnd r s
  | .profileLoadTimeout => Sys2Proof.Machine.execProfileLoadTimeout s
  | .resetAsserted => Sys2Proof.Machine.execResetAsserted s
  | .resetDeasserted => Sys2Proof.Machine.execResetDeasserted s
  | .linkReset => Sys2Proof.Machine.execLinkReset s
  | .lockdown => Sys2Proof.Machine.execLockdown s
  | .upstreamLinkEstablished => Sys2Proof.Machine.execUpstreamLinkEstablished s
  | .upstreamLinkLost => Sys2Proof.Machine.execUpstreamLinkLost s
  | .systemPortReady => Sys2Proof.Machine.execSystemPortReady s
  | .downstreamLinkUp => Sys2Proof.Machine.execDownstreamLinkUp s
  | .diskReadySignature signature => Sys2Proof.Machine.execDiskReadySignature signature s
  | .downstreamLinkLost => Sys2Proof.Machine.execDownstreamLinkLost s
  | .diskSelfReset => Sys2Proof.Machine.execDiskSelfReset s
  | .read tag lba countField => Sys2Proof.Machine.execRead tag lba countField s
  | .write tag lba countField => Sys2Proof.Machine.execWrite tag lba countField s
  | .soleRead lba countField => Sys2Proof.Machine.execSoleRead lba countField s
  | .soleWrite lba countField => Sys2Proof.Machine.execSoleWrite lba countField s
  | .flush frame => Sys2Proof.Machine.execFlush frame s
  | .identify frame => Sys2Proof.Machine.execIdentify frame s
  | .passNoData frame => Sys2Proof.Machine.execPassNoData frame s
  | .unknownCommand tag => Sys2Proof.Machine.execUnknownCommand tag s
  | .drainRelease k => Sys2Proof.Machine.execDrainRelease k s
  | .pendingDefinitionApplied index => Sys2Proof.Machine.execPendingDefinitionApplied index s
  | .keywaitRecheck k => Sys2Proof.Machine.execKeywaitRecheck k s
  | .keywaitTimerExpiry k => Sys2Proof.Machine.execKeywaitTimerExpiry k s
  | .ringorderRelease k => Sys2Proof.Machine.execRingorderRelease k s
  | .overrunRelease k => Sys2Proof.Machine.execOverrunRelease k s
  | .overrunTimerExpiry k => Sys2Proof.Machine.execOverrunTimerExpiry k s
  | .tagwaitGrant => Sys2Proof.Machine.execTagwaitGrant s
  | .solewaitRelease => Sys2Proof.Machine.execSolewaitRelease s
  | .secondPartIssue k => Sys2Proof.Machine.execSecondPartIssue k s
  | .requestForWriteData tag n => Sys2Proof.Machine.execRequestForWriteData tag n s
  | .diskReadData tag offset data => Sys2Proof.Machine.execDiskReadData tag offset data s
  | .downstreamCommandEnd tag good error lba => Sys2Proof.Machine.execDownstreamCommandEnd tag good error lba s
  | .diskFailure error => Sys2Proof.Machine.execDiskFailure error s
  | .keepReadEnd good error lba => Sys2Proof.Machine.execKeepReadEnd good error lba s
  | .keepWriteEnd good error lba => Sys2Proof.Machine.execKeepWriteEnd good error lba s
  | .hostWriteData k data => Sys2Proof.Machine.execHostWriteData k data s
  | .writeDataRequest => Sys2Proof.Machine.execWriteDataRequest s
  | .readDataBurst => Sys2Proof.Machine.execReadDataBurst s
  | .completion => Sys2Proof.Machine.execCompletion s
  | .grantStart => Sys2Proof.Machine.execGrantStart s
  | .grantEnd => Sys2Proof.Machine.execGrantEnd s
  | .idleGateOpen => Sys2Proof.Machine.execIdleGateOpen s
  | .bufferRequestMet => Sys2Proof.Machine.execBufferRequestMet s
  | .keepChunkStart => Sys2Proof.Machine.execKeepChunkStart s
  | .lowPowerRequest d => Sys2Proof.Machine.execLowPowerRequest d s
  | .downstreamLowPower => Sys2Proof.Machine.execDownstreamLowPower s
  | .diskLowPowerAnswer accepted => Sys2Proof.Machine.execDiskLowPowerAnswer accepted s
  | .diskLowPowerRequest d => Sys2Proof.Machine.execDiskLowPowerRequest d s
  | .hostWake => Sys2Proof.Machine.execHostWake s
  | .diskWake => Sys2Proof.Machine.execDiskWake s
  | .secondCounted => Sys2Proof.Machine.execSecondCounted s
  | .minuteTick => Sys2Proof.Machine.execMinuteTick s
  | .send frame => Sys2Proof.Machine.execSend frame s
  | .fetch clocked => Sys2Proof.Machine.execFetch clocked s
  | .malformedFrame => Sys2Proof.Machine.execMalformedFrame s
  | .unknownRequest => Sys2Proof.Machine.execUnknownRequest s
  | .setClock => Sys2Proof.Machine.execSetClock s
  | .trimClock => Sys2Proof.Machine.execTrimClock s
  | .loadKey => Sys2Proof.Machine.execLoadKey s
  | .dropKey => Sys2Proof.Machine.execDropKey s
  | .setDeadline => Sys2Proof.Machine.execSetDeadline s
  | .putRegionNow => Sys2Proof.Machine.execPutRegionNow s
  | .putRegionBoundary => Sys2Proof.Machine.execPutRegionBoundary s
  | .freeRegionNow => Sys2Proof.Machine.execFreeRegionNow s
  | .freeRegionBoundary => Sys2Proof.Machine.execFreeRegionBoundary s
  | .shapeRing => Sys2Proof.Machine.execShapeRing s
  | .openRing => Sys2Proof.Machine.execOpenRing s
  | .switchRing => Sys2Proof.Machine.execSwitchRing s
  | .closeRing => Sys2Proof.Machine.execCloseRing s
  | .submitKeep => Sys2Proof.Machine.execSubmitKeep s
  | .cancelKeep => Sys2Proof.Machine.execCancelKeep s
  | .readStatusAlerts => Sys2Proof.Machine.execReadStatusAlerts s
  | .readStatusClock => Sys2Proof.Machine.execReadStatusClock s
  | .readStatusKeyTable => Sys2Proof.Machine.execReadStatusKeyTable s
  | .readStatusRegion => Sys2Proof.Machine.execReadStatusRegion s
  | .readStatusRing => Sys2Proof.Machine.execReadStatusRing s
  | .readStatusKeepQueue => Sys2Proof.Machine.execReadStatusKeepQueue s
  | .readStatusOutcomeList => Sys2Proof.Machine.execReadStatusOutcomeList s
  | .readStatusMissList => Sys2Proof.Machine.execReadStatusMissList s
  | .readStatusProfileInUse => Sys2Proof.Machine.execReadStatusProfileInUse s
  | .clearAlerts => Sys2Proof.Machine.execClearAlerts s
  | .maskAlerts => Sys2Proof.Machine.execMaskAlerts s
  | .oscillatorCycle => Sys2Proof.Machine.execOscillatorCycle s

end Sys2Proof.Machine
end

