-- ==== Sys2Proof/Safety.lean ====
section
/-! DEFINITION. What statements about the part speak of: the laws that the manual gives each block (its invariants), a request in
progress and its answer, and the refusal tables of the requests, written from the manual's own tables. -/

namespace Sys2Proof.Machine

/-! ## Laws of the blocks -/

/-- The ranges of the Retention Clock's state (R154 to R156, R161), and an Unset clock at 0 (R155). -/
abbrev Clock.Law (c : Clock) : Prop :=
  256 ≤ c.increment ∧ c.increment ≤ 1023 ∧ c.accumulator < Config.secondUnits ∧ c.seconds < 60
    ∧ c.minute ≤ Config.lastMinute ∧ (c.set = false → c.accumulator = 0 ∧ c.seconds = 0 ∧ c.minute = 0)

/-- The Key Table is a map from programme id to slot: no two slots hold the same id, and every slot that is not Empty holds a
non-zero id (R26). -/
abbrev State.KeyTableLaw (s : State) : Prop :=
  ∀ i < Config.slotCount, (s.slot i).content.id? ≠ some 0#32 ∧
    ∀ j < Config.slotCount, j ≠ i → (s.slot i).content.id? ≠ none → (s.slot j).content.id? ≠ (s.slot i).content.id?

/-- The deadline a slot carries, Live or Expired. -/
def SlotContent.deadline? : SlotContent → Option Nat
  | .empty => none
  | .live _ _ _ d => d
  | .expired _ _ d => d

/-- No Live slot carries a deadline at or before the current minute count, and while the clock is Unset no slot carries a
deadline (R28). -/
abbrev State.DeadlineLaw (s : State) : Prop :=
  ∀ i < Config.slotCount, (s.slot i).overdue s.clock.minute = false ∧
    (s.clock.set = false → (s.slot i).content.deadline? = none)

/-- The Miss List holds at most 4 programme ids, without duplicates, none of which has a slot (R37). -/
abbrev State.MissListLaw (s : State) : Prop :=
  s.keys.missList.length ≤ Config.missPlaces ∧ s.keys.missList.Nodup ∧ s.keys.missList.all (fun id => (s.slotOf id).isNone) = true

/-- In Lockdown every slot is Empty, the Miss List is empty and no ring is Live (R43, R44, R55). -/
abbrev State.LockdownLaw (s : State) : Prop :=
  s.keys.lockdown = true →
    (∀ i < Config.slotCount, (s.slot i).content = .empty) ∧ s.keys.missList = []
      ∧ ∀ r < Config.ringCount, (s.ring r).live = false

/-- The offsets of a ring (R47): of a Live one, which has a span (R51), 1 to 4 epochs with strictly increasing starts, the first
equal to the floor, and each at most the claim; F ≤ H ≤ C, and every access on the list ends at or below C (R58); of an Idle one,
no epochs. -/
abbrev Ring.Law (r : Ring) : Prop :=
  (r.live = true → r.epochs.length ≤ Config.epochPlaces ∧ r.epochs.head?.map Epoch.start = some r.floor
      ∧ (r.epochs.map Epoch.start).Pairwise (· < ·) ∧ (∀ e ∈ r.epochs, e.start ≤ r.claim) ∧ r.floor ≤ r.head
      ∧ r.head ≤ r.claim ∧ 0 < r.span ∧ ∀ a ∈ r.accesses, a.first + a.count ≤ r.claim)
    ∧ (r.live = false → r.epochs = [])

/-- The shape of a ring (R46): unshaped, or a span and a trail of the table's values within the LBA space. -/
abbrev Ring.ShapeLaw (r : Ring) : Prop := shapeFits r.base r.span r.trail = true

/-- Every ring keeps its laws (R46, R47), and every access on its list is of a command in the Command Table (R63). -/
abbrev State.RingLaw (s : State) : Prop :=
  ∀ r < Config.ringCount, (s.ring r).Law ∧ (s.ring r).ShapeLaw ∧ ∀ a ∈ (s.ring r).accesses, (s.record? a.record).isSome = true

/-- One ring is named by at most one entry, pending definitions counted as well, and a Live ring's entry holds no staged
change (R19). -/
abbrev State.RingNameLaw (s : State) : Prop :=
  ∀ r < Config.ringCount,
    (∀ i < Config.regionCount, ∀ j < Config.regionCount, (s.entry i).names r → (s.entry j).names r → i = j)
      ∧ ((s.ring r).live = true → s.mappedRing r = true)

/-- The ranges of one keep job (R131): start ≤ cursor ≤ end, the end at most what acceptance set, and the id from 1 to 255
(R132). -/
abbrev Job.Law (j : Job) : Prop :=
  1 ≤ j.id ∧ j.id ≤ 255 ∧ j.start ≤ j.cursor ∧ j.cursor ≤ j.upto ∧ j.upto ≤ j.acceptedUpto

/-- A Queued job has not started (R131, R137). -/
abbrev Job.Waiting (j : Job) : Prop :=
  j.phase = .idle ∧ j.stopOutcome = none ∧ j.cursor = j.start ∧ j.upto = j.acceptedUpto ∧ j.skipped = 0

/-- The Active job fits the chunk in flight: without one it is Idle and not stopping; with one its phase is not Idle, and the
chunk ends at or below the job's end, unless the job is stopping while it reads (R139, R147, R150). -/
abbrev Job.FitsChunk (j : Job) (c : Option Chunk) : Prop :=
  (c = none → j.phase = .idle ∧ j.stopOutcome = none)
    ∧ ∀ x ∈ c, j.phase ≠ .idle ∧ (j.cursor + x.count ≤ j.upto ∨ j.phase = .reading ∧ j.stopOutcome ≠ none)

/-- The Active job fits the buffer request: there is no chunk in flight, and the request lies within the job (R139, R140). -/
abbrev Job.FitsRequest (j : Job) (c : Option Chunk) (q : Option KeepRequest) : Prop :=
  ∀ x ∈ q, c = none ∧ j.cursor + x.count ≤ j.upto

/-- The head of the queue fits the chunk and the buffer request; with an empty queue there is neither. -/
abbrev KeepUnit.HeadFits (k : KeepUnit) : Prop :=
  (k.queue = [] → k.chunk = none ∧ k.request = none)
    ∧ ∀ j ∈ k.queue.head?, j.FitsChunk k.chunk ∧ j.FitsRequest k.chunk k.request

/-- The Keep Queue and the Outcome List (R131 to R133, R137). -/
abbrev KeepUnit.Law (k : KeepUnit) : Prop :=
  k.queue.length ≤ Config.keepQueuePlaces ∧ k.outcomes.length ≤ Config.outcomePlaces ∧ 1 ≤ k.nextId ∧ k.nextId ≤ 255
    ∧ (k.queue.map Job.id).Nodup ∧ (∀ j ∈ k.queue, j.Law) ∧ (∀ j ∈ k.queue.tail, j.Waiting) ∧ k.HeadFits

/-- The class limits of the Sector Pool (R117); the chunk's buffers are of the Keep class, and a buffer set aside is the keep
request's (R120). -/
abbrev State.PoolLaw (s : State) : Prop :=
  s.classBuffers .hostRead ≤ Config.hostClassLimit ∧ s.classBuffers .hostWrite ≤ Config.hostClassLimit
    ∧ s.classBuffers .keep ≤ Config.keepClassLimit
    ∧ ∀ i < Config.bufferCount, ((s.buffer i).owner = .keep → (s.buffer i).cls = some .keep)
      ∧ ((s.buffer i).state = .setAside → (s.buffer i).cls = some .keep ∧ (s.buffer i).owner = .keep)

/-! ## A request in progress and its answer -/

/-- A well-formed request is in progress under a sequence byte, and its row may take it (R165). -/
abbrev State.inProgress (s : State) (sequence : Byte) (r : Request) : Prop :=
  s.line.state = .working ∧ s.line.request = some (r.frame sequence) ∧ r.fits = true

/-- The state once a reply is placed (R165): the reply replaces the slot's content, no request is in progress, the line is
Idle. -/
def State.answered (s : State) (sequence : Byte) (status : ReplyStatus) (body : List Byte) : State :=
  { s with line := { s.line with
      state := .idle, request := none, reply := some { status := status, sequence := sequence, body := body } } }

/-- A refused answer (R168): no body. -/
def State.turnedAway (s : State) (sequence : Byte) (why : LineReason) : State := s.answered sequence (.refused why) []

/-! ## The refusal tables, in the order of their rules -/

/-- The first reason of a table that applies, if any. -/
inductive FirstReason {ρ : Type} : List (Prop × ρ) → Option ρ → Prop where
  | passed : FirstReason [] none
  | here {p : Prop} {why : ρ} {rest : List (Prop × ρ)} (h : p) : FirstReason ((p, why) :: rest) (some why)
  | later {p : Prop} {why : ρ} {rest : List (Prop × ρ)} {v : Option ρ} (h : ¬ p) (t : FirstReason rest v) :
      FirstReason ((p, why) :: rest) v

/-- Some slot holds the id, Live or Expired (R26). -/
abbrev State.holds (s : State) (id : ProgId) : Prop := ∃ i < Config.slotCount, (s.slot i).content.id? = some id

/-- Slot `i` is the lowest-numbered Empty slot. -/
abbrev State.lowestEmpty (s : State) (i : Nat) : Prop :=
  i < Config.slotCount ∧ (s.slot i).content = .empty ∧ ∀ j < i, (s.slot j).content ≠ .empty

/-- The first reason of R29's table that applies to LOAD KEY. -/
def State.loadKeyRefusal (s : State) (id : ProgId) (cls : Byte) (deadline : Option Nat) : Option LineReason :=
  if s.keys.lockdown = true then some .locked
  else if id = 0#32 ∨ (cls ≠ 0x00#8 ∧ cls ≠ 0x01#8) then some .badArgument
  else if s.holds id then some .duplicate
  else if ∀ i < Config.slotCount, (s.slot i).content ≠ .empty then some .full
  else match deadline with
    | none => none
    | some d =>
        if s.clock.set = false then some .clockUnset
        else if d ≤ s.clock.minute then some .expired
        else none

/-- The first reason of R50's table that applies to SHAPE RING. -/
def State.shapeRefusal (s : State) (r pb p w : Nat) : Option LineReason :=
  if 4 ≤ r ∨ ¬ (p = 0 ∨ (p % 8 = 0 ∧ 131072 ≤ p ∧ p ≤ 2 ^ 32))
      ∨ ¬ (if p = 0 then w = 0 else w % 8 = 0 ∧ 2048 ≤ w ∧ w ≤ p)
      ∨ 2 ^ 48 < pb + p ∨ (p = 0 ∧ (pb ≠ 0 ∨ w ≠ 0)) then some .badArgument
  else if (s.ring r).live = true then some .ringLive
  else if (s.ring r).users ≠ 0 then some .busy
  else if p ≠ 0 ∧ ∃ q < Config.ringCount,
      q ≠ r ∧ (s.ring q).span ≠ 0 ∧ pb < (s.ring q).base + (s.ring q).span ∧ (s.ring q).base < pb + p
    then some .overlap
  else none

/-- The first reason of R51's table that applies to OPEN RING. -/
def State.openRefusal (s : State) (r : Nat) (id : ProgId) : Option LineReason :=
  if 4 ≤ r ∨ id = 0#32 ∨ (s.ring r).span = 0 then some .badArgument
  else if s.keys.lockdown = true then some .locked
  else if (s.ring r).live = true then some .ringLive
  else if ¬ ∃ i < Config.regionCount, ((s.entry i).active.bind fun d => d.kind.ring?) = some r ∧ (s.entry i).staged = none
    then some .notMapped
  else if (s.ring r).users ≠ 0 then some .busy
  else none

/-- The definition of PUT REGION is one of R2, with the fields its kind carries. -/
def RawDefinition.allowed (d : RawDefinition) : Prop :=
  11 ≤ d.order ∧ d.order ≤ 40 ∧ d.base % 2 ^ d.order = 0 ∧ d.base + 2 ^ d.order ≤ 2 ^ 48
    ∧ ((d.kind = 0#8 ∧ (d.hasTarget = true → d.target + 2 ^ d.order ≤ 2 ^ 48))
      ∨ (d.kind = 1#8 ∧ (d.hasTarget = true → d.target + 2 ^ d.order ≤ 2 ^ 48) ∧ d.id ≠ 0#32)
      ∨ (d.kind = 2#8 ∧ d.ring < 4) ∨ d.kind = 3#8 ∨ d.kind = 4#8)

/-- The definition that is stored: the fields its kind carries, the others discarded (R18). -/
def RawDefinition.stored (d : RawDefinition) : Definition :=
  { kind :=
      if d.kind = 0#8 then .clear (if d.hasTarget = true then some d.target else none)
      else if d.kind = 1#8 then .programme (if d.hasTarget = true then some d.target else none) d.id
      else if d.kind = 2#8 then .ring d.ring
      else if d.kind = 3#8 then .barred
      else .overlay
    base := d.base, order := d.order, readBar := d.readBar, writeBar := d.writeBar }

/-- The entry's active definition is of the Ring kind and its ring is Live (R19). -/
def State.ringLiveAt (s : State) (i : Nat) : Prop :=
  ∃ d r, (s.entry i).active = some d ∧ d.kind = .ring r ∧ (s.ring r).live = true

/-- Another index has an active or a pending definition that names ring `r` (R19). -/
def State.namedElsewhere (s : State) (i r : Nat) : Prop :=
  ∃ j < Config.regionCount, j ≠ i ∧ ∃ d : Definition, d.kind = .ring r ∧
    ((s.entry j).active = some d ∨ (s.entry j).staged = some (.define d))

/-- What PUT REGION finds in its checks (R18, R19): refused with the first reason that applies, or not. -/
inductive PutVerdict (s : State) (i : Nat) (d : RawDefinition) : Option LineReason → Prop where
  | badArgument (h : 64 ≤ i ∨ ¬ d.allowed) : PutVerdict s i d (some .badArgument)
  | ringLive (h : i < 64) (a : d.allowed) (l : s.ringLiveAt i) : PutVerdict s i d (some .ringLive)
  | ringTaken (h : i < 64) (a : d.allowed) (l : ¬ s.ringLiveAt i) (k : d.kind = 2#8) (t : s.namedElsewhere i d.ring) :
      PutVerdict s i d (some .ringTaken)
  | accepted (h : i < 64) (a : d.allowed) (l : ¬ s.ringLiveAt i) (t : d.kind = 2#8 → ¬ s.namedElsewhere i d.ring) :
      PutVerdict s i d none

/-! ## Changes of one block -/

/-- The state with another definition in one entry and nothing else changed. -/
def State.withEntry (s : State) (i : Nat) (active : Option Definition) (staged : Option Staged) : State :=
  { s with regions := { s.regions with
      entries := s.regions.entries.setIfInBounds i { s.entry i with active := active, staged := staged } } }

/-- The state with another slot and nothing else changed. -/
def State.withSlot (s : State) (i : Nat) (x : Slot) : State :=
  { s with keys := { s.keys with slots := s.keys.slots.setIfInBounds i x } }

/-- The state with another ring descriptor and nothing else changed. -/
def State.withRing (s : State) (r : Nat) (x : Ring) : State := { s with rings := s.rings.setIfInBounds r x }

/-- The state with more causes latched and nothing else changed (R170). -/
def State.withLatched (s : State) (causes : AlertSet) : State :=
  { s with line := { s.line with latched := s.line.latched ||| causes } }

/-! ## Arrivals of host commands -/

/-- What a command frame that arrives carries (R75): its tag, whether R75 leaves it unsupported, its kind, its first host LBA,
its sectors and, for the forwarded kinds, the frame itself. -/
structure Arrival where
  tag         : Option Nat
  unsupported : Bool
  kind        : HostKind
  host        : Nat
  count       : Nat
  frame       : List Byte

/-- The arrival of a data command (R75): a count field of 0 means 65 536 sectors, and a command that would pass the last LBA
is unsupported. -/
def dataArrival (tag : Option Nat) (kind : HostKind) (lba field : Nat) : Arrival :=
  let n := if field = 0 then 65536 else field
  { tag := tag, unsupported := decide (2 ^ 48 < lba + n), kind := kind, host := lba, count := n, frame := [] }

/-- The arrival that a command row stands for. -/
def arrivalOf : Instr → Option Arrival
  | .read t lba n => some (dataArrival (some t) .read lba n)
  | .write t lba n => some (dataArrival (some t) .write lba n)
  | .soleRead lba n => some (dataArrival none .soleRead lba n)
  | .soleWrite lba n => some (dataArrival none .soleWrite lba n)
  | .flush f => some { tag := none, unsupported := false, kind := .flush, host := 0, count := 0, frame := f }
  | .identify f => some { tag := none, unsupported := false, kind := .identify, host := 0, count := 1, frame := f }
  | .passNoData f => some { tag := none, unsupported := false, kind := .passNoData, host := 0, count := 0, frame := f }
  | .unknownCommand t => some { tag := t, unsupported := true, kind := .passNoData, host := 0, count := 0, frame := [] }
  | _ => none

/-- Some record of the Command Table has this key. -/
def State.occupied (s : State) (k : RecordKey) : Prop := ∃ r ∈ s.tracker.records, r.key = k

/-- The arrival checks of R76 and R77 in their order: which reason refuses the arrival, if any. -/
inductive ArrivalVerdict (s : State) (a : Arrival) : Option HostReason → Prop where
  | unsupported (h : a.unsupported = true) : ArrivalVerdict s a (some .unsupported)
  | tagAbove (h : a.unsupported = false) (t : Nat) (e : a.tag = some t) (b : 32 - s.line.profile.partTags ≤ t) :
      ArrivalVerdict s a (some .badTag)
  | tagInFlight (h : a.unsupported = false) (t : Nat) (e : a.tag = some t) (b : t < 32 - s.line.profile.partTags)
      (o : s.occupied (.tag t)) : ArrivalVerdict s a (some .badTag)
  | queuedBesideSole (h : a.unsupported = false) (t : Nat) (e : a.tag = some t) (b : t < 32 - s.line.profile.partTags)
      (o : ¬ s.occupied (.tag t)) (q : s.occupied .sole) : ArrivalVerdict s a (some .notSole)
  | soleBesideAny (h : a.unsupported = false) (e : a.tag = none) (o : s.tracker.records ≠ []) :
      ArrivalVerdict s a (some .notSole)
  | queuedAccepted (h : a.unsupported = false) (t : Nat) (e : a.tag = some t) (b : t < 32 - s.line.profile.partTags)
      (o : ¬ s.occupied (.tag t)) (q : ¬ s.occupied .sole) : ArrivalVerdict s a none
  | soleAccepted (h : a.unsupported = false) (e : a.tag = none) (o : s.tracker.records = []) : ArrivalVerdict s a none

/-- What a host command does downstream (R101). -/
def HostKind.downOp : HostKind → DownOp
  | .read | .soleRead => .read
  | .write | .soleWrite => .write
  | .identify => .identify
  | .flush | .passNoData => .noData

/-! ## Internal steps -/

/-- `n` internal steps, each taken where it was due, lead from one state to another. -/
inductive InternalRun : Nat → State → State → Prop where
  | rest (s : State) : InternalRun 0 s s
  | step {n : Nat} {s u t : State} (h : internalStep s = some u) (r : InternalRun n u t) : InternalRun (n + 1) s t

/-! ## Classification, sector by sector -/

/-- The two ranges, given by first sector and length, have a sector in common. -/
def shareSector (a n b m : Nat) : Prop := ∃ y, a ≤ y ∧ y < a + n ∧ b ≤ y ∧ y < b + m

/-- The sector has the bar of a direction (R5, R7). -/
def State.sectorBarred (s : State) (write : Bool) (y : Nat) : Prop :=
  (∃ i < Config.regionCount, ∃ d, (s.entry i).active = some d ∧ d.base ≤ y ∧ y < d.base + 2 ^ d.order
      ∧ (if write then d.writeBar else d.readBar) = true)
    ∨ (∃ i d, s.binding y = some (i, d) ∧ d.kind = .barred)
    ∨ (s.binding y = none ∧ s.line.profile.unmapped = .bar)

/-- The wrap of a ring lies between a sector and the next: the one stands last on the ring's span, the other first (R10, R11). -/
def State.wrapsAfter (s : State) (y : Nat) : Prop :=
  ∃ r < Config.ringCount, ∃ d, (s.classOf y).ring = some r ∧ (s.classOf (y + 1)).ring = some r ∧ (s.classOf y).disk = some d
    ∧ d + 1 = (s.ring r).base + (s.ring r).span ∧ (s.classOf (y + 1)).disk = some (s.ring r).base

/-- Two neighbouring sectors with disk LBAs do not join on the disk (R11). -/
def State.breaksAfter (s : State) (y : Nat) : Prop :=
  ¬ s.wrapsAfter y ∧ ∃ d e, (s.classOf y).disk = some d ∧ (s.classOf (y + 1)).disk = some e ∧ e ≠ d + 1

/-- The disk LBA of a sector lies on the span of a configured ring that is not the sector's own (R14). -/
def State.onShieldedSpan (s : State) (y : Nat) : Prop :=
  ∃ d, (s.classOf y).disk = some d ∧ ∃ q < Config.ringCount, (s.classOf y).ring ≠ some q
    ∧ (s.ring q).base ≤ d ∧ d < (s.ring q).base + (s.ring q).span

/-- The five tests of R12 for the sectors `[x, x + n)`. -/
def State.classifyTable (s : State) (write : Bool) (x n : Nat) : List (Prop × HostReason) :=
  [ (∃ y, x ≤ y ∧ y < x + n ∧ s.sectorBarred write y, .barred),
    (∃ j ∈ s.keep.queue, ∃ e ∈ j.extents, shareSector e.host e.count x n, .busy),
    (4 < (s.classify x n).length, .fragmented),
    ((∃ y, x ≤ y ∧ y + 1 < x + n ∧ s.breaksAfter y)
      ∨ (∃ y z, x ≤ y ∧ y < z ∧ z + 1 < x + n ∧ s.wrapsAfter y ∧ s.wrapsAfter z), .discontiguous),
    (∃ y, x ≤ y ∧ y < x + n ∧ s.onShieldedSpan y, .shielded) ]

/-- The downstream image of sectors that pass the tests (R11), and the split it makes of the command (R96): none where a sector
has no disk LBA, two ranges where a wrap falls inside the command. -/
inductive ImageOf (s : State) (x n : Nat) : Option Image → Option Split → Prop where
  | none (y : Nat) (h : x ≤ y ∧ y < x + n) (d : (s.classOf y).disk = none) : ImageOf s x n none none
  | single (d : Nat) (a : ∀ y, x ≤ y → y < x + n → (s.classOf y).disk ≠ none) (h : (s.classOf x).disk = some d)
      (w : ∀ y, x ≤ y → y + 1 < x + n → ¬ s.wrapsAfter y) :
      ImageOf s x n (some { first := { start := d, count := n }, second := none }) none
  | wrapped (d e y : Nat) (a : ∀ y, x ≤ y → y < x + n → (s.classOf y).disk ≠ none) (h : (s.classOf x).disk = some d)
      (b : x ≤ y) (t : y + 1 < x + n) (w : s.wrapsAfter y) (f : (s.classOf (y + 1)).disk = some e) :
      ImageOf s x n
        (some { first := { start := d, count := y + 1 - x }, second := some { start := e, count := x + n - (y + 1) } })
        (some { host := y + 1, count := x + n - (y + 1), disk := e, tag := none })

/-- The split with no part tag granted yet (R99). -/
def untagged (p : Option Split) : Option Split := p.map fun p => { p with tag := none }

/-- A sector of `[x, x + n)` lies in the active range of an entry that holds a pending definition (R23). -/
def State.drains (s : State) (x n : Nat) : Prop :=
  ∃ i < Config.regionCount, ∃ d, (s.entry i).staged ≠ none ∧ (s.entry i).active = some d
    ∧ shareSector d.base (2 ^ d.order) x n

/-- The active definition of an entry matches a sector of `[x, x + n)` (R16). -/
def State.matches (s : State) (i x n : Nat) : Prop :=
  ∃ d, (s.entry i).active = some d ∧ shareSector d.base (2 ^ d.order) x n

/-! ## Keys -/

/-- The programme id of a protected sector (R35). -/
def SectorClass.protectedId (c : SectorClass) : Option ProgId :=
  match c.kind with
  | .programme | .ring => c.id
  | .clear | .barred => none

/-- A protected sector of `[x, x + n)` carries the id (R35). -/
def State.needs (s : State) (x n : Nat) (id : ProgId) : Prop :=
  ∃ y, x ≤ y ∧ y < x + n ∧ (s.classOf y).protectedId = some id

/-- A Live slot holds the id, with the slot's number and generation (R35). -/
def State.liveAs (s : State) (id : ProgId) (c : Capture) : Prop :=
  c.slot < Config.slotCount ∧ (s.slot c.slot).generation = c.generation
    ∧ ∃ key cls d, (s.slot c.slot).content = .live id key cls d

/-- An Expired slot holds the id (R35). -/
def State.expiredId (s : State) (id : ProgId) : Prop :=
  ∃ i < Config.slotCount, ∃ cls d, (s.slot i).content = .expired id cls d

/-- The new ids of a command that misses (R36): the distinct missing ids that are not on the Miss List, in the order of their
first appearance. -/
def State.newIds (s : State) (x n : Nat) (new : List ProgId) : Prop :=
  new.Nodup ∧ (∀ id, id ∈ new ↔ s.needs x n id ∧ ¬ s.holds id ∧ id ∉ s.keys.missList)
    ∧ new.Pairwise fun p q => ∃ y, x ≤ y ∧ (s.classOf y).protectedId = some p
        ∧ ∀ z, x ≤ z → z ≤ y → (s.classOf z).protectedId ≠ some q

/-- What the key-lost check finds for a captured pair (R41): the key of a Live slot of that generation, or the reason. -/
inductive PairVerdict (s : State) (p : Capture) : Except LostReason Key → Prop where
  | live (id : ProgId) (key : Key) (cls : KeepClass) (d : Option Nat) (c : (s.slot p.slot).content = .live id key cls d)
      (g : (s.slot p.slot).generation = p.generation) : PairVerdict s p (.ok key)
  | replaced (id : ProgId) (key : Key) (cls : KeepClass) (d : Option Nat) (c : (s.slot p.slot).content = .live id key cls d)
      (g : (s.slot p.slot).generation ≠ p.generation) : PairVerdict s p (.error .keyLost)
  | expired (id : ProgId) (cls : KeepClass) (d : Option Nat) (c : (s.slot p.slot).content = .expired id cls d) :
      PairVerdict s p (.error .expired)
  | dropped (c : (s.slot p.slot).content = .empty) : PairVerdict s p (.error .keyLost)

/-- What the keep query of a chunk finds for a programme id (R42, R141): the slot and its generation, or why the job fails. -/
inductive KeyVerdict (s : State) (id : ProgId) : Except FailReason Capture → Prop where
  | live (i : Nat) (key : Key) (d : Option Nat) (h : i < Config.slotCount)
      (c : (s.slot i).content = .live id key .keepAllowed d) :
      KeyVerdict s id (.ok { slot := i, generation := (s.slot i).generation })
  | never (i : Nat) (key : Key) (d : Option Nat) (h : i < Config.slotCount)
      (c : (s.slot i).content = .live id key .keepNever d) : KeyVerdict s id (.error .keepRule)
  | expired (h : s.expiredId id) : KeyVerdict s id (.error .expired)
  | absent (h : ¬ s.holds id) : KeyVerdict s id (.error .keyLost)

/-! ## Ring acceptance, order and issue -/

/-- `y` is the first sector of `[x, x + n)` that is bound to ring `q`, `v` its virtual offset, and `m` of the sectors are bound to
the ring: the access of the command on it (R56). -/
def State.accessOf (s : State) (x n q y v m : Nat) : Prop :=
  x ≤ y ∧ y < x + n ∧ (s.classOf y).ring = some q ∧ (s.classOf y).virt = some v
    ∧ (∀ z, x ≤ z → z < y → (s.classOf z).ring ≠ some q)
    ∧ m = (List.range n).countP fun k => (s.classOf (x + k)).ring == some q

/-- An offset of `[c, c + d)` lies in the overwritten range of a write of `[v, v + m)` on a span of P sectors (R49). -/
def overwritten (span v m c d : Nat) : Prop := ∃ o : Nat, c ≤ o ∧ o < c + d ∧ v ≤ o + span ∧ o + span < v + m

/-- The tests of one access, in their order (R56 to R58). -/
def State.accessTable (s : State) (write : Bool) (x n q v m : Nat) : List (Prop × HostReason) :=
  [ ((s.ring q).live = false, .ringIdle),
    (∃ y, x ≤ y ∧ y < x + n ∧ (s.classOf y).ring = some q ∧ (s.classOf y).epochStart = none, .ringStale),
    (v < max (s.ring q).floor ((s.ring q).head - (s.ring q).trail), .ringStale),
    (write = true ∧ (s.ring q).claim < v, .ringGap),
    (write = false ∧ (s.ring q).head < v + m, .ringAhead),
    (write = false ∧ ∃ a ∈ (s.ring q).accesses, a.write = true ∧ a.issued = false
      ∧ overwritten (s.ring q).span a.first a.count v m, .ringStale) ]

/-- What ring acceptance finds (R56): the reason of the first access that fails, in host-LBA order, or none. -/
inductive AcceptVerdict (s : State) (write : Bool) (x n : Nat) : Option HostReason → Prop where
  | refused (why : HostReason) (q y v m : Nat) (a : s.accessOf x n q y v m)
      (f : FirstReason (s.accessTable write x n q v m) (some why))
      (e : ∀ q' y' v' m', s.accessOf x n q' y' v' m' → y' < y → FirstReason (s.accessTable write x n q' v' m') none) :
      AcceptVerdict s write x n (some why)
  | accepted (h : ∀ q y v m, s.accessOf x n q y v m → FirstReason (s.accessTable write x n q v m) none) :
      AcceptVerdict s write x n none

/-- The command's access on the ring must wait for an access on the list (R64, R65): a read for a write whose range overlaps its
own, a write for an access whose range overlaps the range it overwrites. -/
def mustWait (write : Bool) (span v m : Nat) (o : Access) : Prop :=
  if write then overwritten span v m o.first o.count else o.write = true ∧ shareSector v m o.first o.count

/-- The window of a Live ring after its head has risen to `head` (R61): the epochs that remain are the newest ones, the first of
them the last whose start the new lower bound has reached, and the floor is its start. -/
def Ring.droppedTo (r : Ring) (head : Nat) (floor : Nat) (epochs : List Epoch) : Prop :=
  epochs <:+ r.epochs ∧ epochs.head?.map Epoch.start = some floor ∧ (∀ e ∈ epochs.tail, max floor (head - r.trail) < e.start)
    ∧ (epochs = r.epochs ∨ floor ≤ head - r.trail)

/-- A record's first downstream command is issued, as its ring sees it (R60, R61): its accesses are marked issued, and a write's
issue raises the head of a Live ring to the end of its access. -/
def Ring.issuedBy (k : RecordKey) (r q : Ring) : Prop :=
  q = { r with
      head := q.head, floor := q.floor, epochs := q.epochs
      accesses := r.accesses.map fun a => if a.record = k then { a with issued := true } else a }
    ∧ ((r.live = false ∨ ∀ a ∈ r.accesses, a.record = k → a.write = false) →
        q.head = r.head ∧ q.floor = r.floor ∧ q.epochs = r.epochs)
    ∧ ∀ a, r.live = true → r.Law → (r.accesses.filter fun a => decide (a.record = k)) = [a] → a.write = true →
        q.head = max r.head (a.first + a.count) ∧ r.droppedTo q.head q.floor q.epochs

/-! ## Holds -/

/-- A write access of the record is held by a job (R49, R67): an offset the job has yet to copy lies P below a sector of the
access. -/
def State.heldByJob (s : State) (k : RecordKey) (j : Job) : Prop :=
  ∃ a ∈ (s.ring j.ring).accesses, a.record = k ∧ a.write = true ∧
    ∃ v, j.cursor ≤ v ∧ v < j.upto ∧ a.first ≤ v + (s.ring j.ring).span ∧ v + (s.ring j.ring).span < a.first + a.count

/-- A sector of the record is in the grant in progress. -/
def State.inGrantOf (s : State) (k : RecordKey) : Prop :=
  ∃ g i, s.engine.grant = some g ∧ g.buffer = some i ∧ (s.buffer i).owner = .record k

/-- The lowest-numbered free part tag (R82). -/
def State.lowestPartTag (s : State) (t : Nat) : Prop :=
  32 - s.line.profile.partTags ≤ t ∧ t < Config.tagCount ∧ s.tagUser t = none
    ∧ ∀ x, 32 - s.line.profile.partTags ≤ x → x < t → s.tagUser x ≠ none

/-! ## Completions -/

/-- The part has ended (R106). -/
def PartStatus.over (p : PartStatus) : Prop := p = .good ∨ ∃ l e, p = .error l e

/-- Every issued part has ended, and none is still to be issued (R105 to R107). -/
def Record.allOver (x : Record) : Prop :=
  x.part1.over ∧ x.part2 ≠ .outstanding ∧ ¬ (x.split ≠ none ∧ x.part1 = .good ∧ x.part2 = .notIssued)

/-- The lowest failing host LBA of the parts, with the disk's error byte (R106, R107). -/
inductive Failing (x : Record) : Option (Nat × Byte) → Prop where
  | first (l : Nat) (e : Byte) (h : x.part1 = .error l e) (b : ∀ m f, x.part2 = .error m f → l ≤ m) : Failing x (some (l, e))
  | second (l : Nat) (e : Byte) (h : x.part2 = .error l e) (b : ∀ m f, x.part1 = .error m f → l < m) : Failing x (some (l, e))
  | neither (h : ∀ l e, x.part1 ≠ .error l e) (b : ∀ l e, x.part2 ≠ .error l e) : Failing x none

/-- The delivery limit of a read (R104): the lowest failing host LBA, else the end of the command. -/
def Record.limitIs (x : Record) (limit : Nat) : Prop :=
  (∃ e, Failing x (some (limit, e))) ∨ (Failing x none ∧ limit = x.host + x.count)

/-- The completion of an issued record is decided (R107). -/
def State.completes (s : State) (x : Record) : Prop :=
  match x.kind with
  | .read | .soleRead => x.allOver ∧ (∀ l, x.limitIs l → l ≤ x.host + x.upCount) ∧ ¬ s.inGrantOf x.key
  | .write | .soleWrite => x.allOver ∧ x.request = none ∧ x.upCount = x.invited ∧ ¬ s.inGrantOf x.key
  | .identify => (∃ l e, x.part1 = .error l e) ∨ (x.part1 = .good ∧ 1 ≤ x.upCount)
  | .flush | .passNoData => x.part1.over

/-- The outcome of an issued command (R107). -/
inductive OutcomeOf (x : Record) : HostOutcome → Prop where
  | lost (l : Nat) (why : LostReason) (h : x.firstLost = some (l, why)) : OutcomeOf x (.lost why l)
  | diskError (l : Nat) (e : Byte) (h : x.firstLost = none) (f : Failing x (some (l, e))) :
      OutcomeOf x (.diskError e (if x.kind.isData = true then some l else none))
  | good (h : x.firstLost = none) (f : Failing x none) : OutcomeOf x .good

/-! ## The Keep Unit's chunk -/

/-- The destination of the job's cursor lies at host LBA `h`, at disk LBA `disk`, with `left` sectors left in its extent (R131,
R139). -/
def Job.destinationAt (j : Job) (h disk left : Nat) : Prop :=
  ∃ (i : Nat) (e : Extent) (p : Nat), j.extents[i]? = some e ∧ p < e.count
    ∧ ((j.extents.take i).map Extent.count).sum + p = j.cursor - j.start ∧ h = e.host + p ∧ disk = e.disk + p ∧ left = e.count - p

/-- The source segment of this number holds an offset of `[cursor, cursor + n)` (R141). -/
def Job.segmentHolds (j : Job) (n m : Nat) (e : Epoch) : Prop :=
  j.segments[m]? = some e ∧ ∃ v, j.cursor ≤ v ∧ v < j.cursor + n ∧ e.start ≤ v ∧ ∀ f, j.segments[m + 1]? = some f → v < f.start

/-- The idle gate lets the job go on (R138): it is open, the choice g = 8 keeps it open, or a write held in Overrun counts the
job among its blocking jobs. -/
def State.gateLets (s : State) (j : Job) : Prop :=
  s.line.profile.gate = 8 ∨ s.keep.gateOpen = true ∨ ∃ k ∈ s.tracker.overrun, s.heldByJob k j

/-- The Drive Port is Ready or Asleep. -/
def State.driveUp (s : State) : Prop := s.drive.link = .ready ∨ ∃ d, s.drive.link = .asleep d

/-- The conditions of R139 for placing the Active job's buffer request. -/
def State.placesRequest (s : State) (j : Job) : Prop :=
  j.stopOutcome = none ∧ j.cursor < j.upto ∧ s.keep.chunk = none ∧ s.keep.request = none
    ∧ (∀ r ∈ s.tracker.records, r.standing = false) ∧ s.gateLets j ∧ (∃ t, s.lowestPartTag t) ∧ s.tracker.tagWait = []
    ∧ s.driveUp

/-- The number of the chunk's buffers that are Done. -/
def State.doneKeepBuffers (s : State) : Nat :=
  (List.range Config.bufferCount).countP fun i => (s.buffer i).owner == .keep && (s.buffer i).state == .done

/-! ## Keep requests -/

/-- The programme id is Live with KeepAllowed. -/
def State.liveForKeep (s : State) (id : ProgId) : Prop :=
  ∃ i < Config.slotCount, ∃ key d, (s.slot i).content = .live id key .keepAllowed d

/-- The sectors of an extent meet conditions 2 to 6 of R135, the first of them standing at disk LBA `d`. -/
def State.extentAllowed (s : State) (id : ProgId) (e : Nat × Nat) (d : Nat) : Prop :=
  ∀ y, e.1 ≤ y → y < e.1 + e.2 →
    (s.classOf y).kind = .programme ∧ (s.classOf y).id = some id ∧ s.writeBarred y = false
      ∧ (s.classOf y).disk = some (d + (y - e.1))
      ∧ ∀ q < Config.ringCount, ¬ ((s.ring q).base ≤ d + (y - e.1) ∧ d + (y - e.1) < (s.ring q).base + (s.ring q).span)

/-- What the start of a chunk of `n` sectors finds (R141): the pairs of its source segments, oldest first, and of its
destination, or the first reason for which the job fails. -/
inductive ChunkVerdict (s : State) (j : Job) (n h disk : Nat) : Except FailReason (List (Nat × Capture) × Capture) → Prop where
  | source (why : FailReason) (m : Nat) (e : Epoch) (b : j.segmentHolds n m e) (v : KeyVerdict s e.id (.error why))
      (o : ∀ k f, k < m → j.segmentHolds n k f → ∃ c, KeyVerdict s f.id (.ok c)) : ChunkVerdict s j n h disk (.error why)
  | target (why : FailReason) (o : ∀ k f, j.segmentHolds n k f → ∃ c, KeyVerdict s f.id (.ok c))
      (v : KeyVerdict s j.destination (.error why)) : ChunkVerdict s j n h disk (.error why)
  | mismatch (c : Capture) (o : ∀ k f, j.segmentHolds n k f → ∃ c, KeyVerdict s f.id (.ok c))
      (v : KeyVerdict s j.destination (.ok c)) (b : ¬ s.extentAllowed j.destination (h, n) disk) :
      ChunkVerdict s j n h disk (.error .mismatch)
  | starts (sources : List (Nat × Capture)) (c : Capture)
      (o : (sources.map Prod.fst).Sublist (j.segments.map Epoch.start))
      (b : ∀ p, p ∈ sources ↔ ∃ m e, j.segmentHolds n m e ∧ p.1 = e.start ∧ KeyVerdict s e.id (.ok p.2))
      (a : ∀ k f, j.segmentHolds n k f → ∃ c, KeyVerdict s f.id (.ok c))
      (v : KeyVerdict s j.destination (.ok c)) (d : s.extentAllowed j.destination (h, n) disk) :
      ChunkVerdict s j n h disk (.ok (sources, c))

/-- The destination passes the test of R135 for this programme id. -/
def State.destinationAllowed (s : State) (id : ProgId) (n : Nat) (es : List (Nat × Nat)) : Prop :=
  (es.map Prod.snd).sum = n ∧ ∀ e ∈ es, ∃ d, s.extentAllowed id e d

/-- The table of R134 for a source `[a, a + n)` and its extents. -/
def State.submitTable (s : State) (r a n : Nat) (es : List (Nat × Nat)) : List (Prop × LineReason) :=
  [ (s.keys.lockdown = true, .locked),
    (4 ≤ s.keep.queue.length, .full),
    (4 ≤ r ∨ es.length = 0 ∨ 4 < es.length ∨ (∃ e ∈ es, e.2 = 0 ∨ 16777216 < e.2 ∨ 2 ^ 48 < e.1 + e.2) ∨ n = 0
      ∨ 2 ^ 26 < n, .badArgument),
    ((s.ring r).live = false, .ringIdle),
    (¬ (max (s.ring r).floor ((s.ring r).head - (s.ring r).trail) ≤ a ∧ a + n ≤ (s.ring r).head), .ringStale),
    (∃ v, a ≤ v ∧ v < a + n ∧ ∃ e, (s.ring r).epochAt v = some e ∧ ¬ s.liveForKeep e.id, .keepRule),
    (¬ ∃ id, s.destinationAllowed id n es, .mismatch),
    (¬ ∃ id, s.destinationAllowed id n es ∧ s.liveForKeep id, .keepRule),
    ((∃ i j : Nat, ∃ x y : Nat × Nat, i < j ∧ es[i]? = some x ∧ es[j]? = some y ∧ shareSector x.1 x.2 y.1 y.2)
      ∨ (∃ e ∈ es, ∃ j ∈ s.keep.queue, ∃ x ∈ j.extents, shareSector e.1 e.2 x.host x.count), .overlap),
    (∃ e ∈ es, ∃ x ∈ s.tracker.records, x.kind.isData = true ∧ shareSector e.1 e.2 x.host x.count, .busy) ]

/-! ## Bodies of requests (Table 10-2, R177) -/

/-- The rows that take a well-formed frame of a type (Table 10-2). -/
def rowsOf : Nat → List Instr
  | 1 => [.setClock]
  | 2 => [.trimClock]
  | 3 => [.loadKey]
  | 4 => [.dropKey]
  | 5 => [.setDeadline]
  | 6 => [.putRegionNow, .putRegionBoundary]
  | 7 => [.freeRegionNow, .freeRegionBoundary]
  | 8 => [.shapeRing]
  | 9 => [.openRing]
  | 10 => [.switchRing]
  | 11 => [.closeRing]
  | 12 => [.submitKeep]
  | 13 => [.cancelKeep]
  | 14 => [.readStatusAlerts, .readStatusClock, .readStatusKeyTable, .readStatusRegion, .readStatusRing, .readStatusKeepQueue,
      .readStatusOutcomeList, .readStatusMissList, .readStatusProfileInUse]
  | 15 => [.clearAlerts]
  | 16 => [.maskAlerts]
  | _ => []

/-- The body lengths of Table 10-2, in the order of the types; that of SUBMIT KEEP (type 12) follows its count byte. -/
def tableLengths : List Nat := [4, 2, 42, 4, 9, 26, 2, 25, 5, 5, 1, 0, 1, 2, 1, 1]

/-- The body of a frame of a known type does not fit Table 10-2 (R177): by its length, by the count byte of SUBMIT KEEP, or by a
bit of a flag, ring or timing byte that the layout does not name. -/
def misfit (t : Nat) (body : List Byte) : Prop :=
  (t ≠ 12 ∧ tableLengths[t - 1]? ≠ some body.length)
    ∨ (t = 12 ∧ (body.length ≠ 12 + 9 * (byteAt body 1).toNat ∨ (byteAt body 1).toNat = 0 ∨ 4 < (byteAt body 1).toNat
        ∨ byteAt body 0 &&& 0xEC#8 ≠ 0#8))
    ∨ (t = 3 ∧ byteAt body 37 &&& 0xFE#8 ≠ 0#8) ∨ (t = 5 ∧ byteAt body 4 &&& 0xFE#8 ≠ 0#8)
    ∨ (t = 6 ∧ (byteAt body 4 &&& 0xF8#8 ≠ 0#8 ∨ 1 < (byteAt body 1).toNat)) ∨ (t = 7 ∧ 1 < (byteAt body 1).toNat)

/-! ## Status records (section 10.3) -/

/-- A definition in the 24 bytes at an offset (section 10.2), in the fields that its kind carries; all zero while absent. -/
def DefinitionAt (body : List Byte) (off : Nat) : Option Definition → Prop
  | none => bytesAt body off 24 = List.replicate 24 0#8
  | some d =>
      (byteAt body (off + 1)).toNat = d.order % 256 ∧ flagAt body (off + 2) 0 = d.readBar
        ∧ flagAt body (off + 2) 1 = d.writeBar ∧ fieldAt body (off + 4) 8 = d.base % 2 ^ 64
        ∧ match d.kind with
          | .clear t => byteAt body off = 0x00#8 ∧ flagAt body (off + 2) 2 = t.isSome
              ∧ ∀ x, t = some x → fieldAt body (off + 12) 8 = x % 2 ^ 64
          | .programme t id => byteAt body off = 0x01#8 ∧ flagAt body (off + 2) 2 = t.isSome
              ∧ (∀ x, t = some x → fieldAt body (off + 12) 8 = x % 2 ^ 64) ∧ fieldAt body (off + 20) 4 = id.toNat
          | .ring r => byteAt body off = 0x02#8 ∧ (byteAt body (off + 3)).toNat = r % 256
          | .barred => byteAt body off = 0x03#8
          | .overlay => byteAt body off = 0x04#8

/-- The deadline of a key slot record at an offset: its flag, and its 4 bytes while it is present. -/
def DeadlineAt (body : List Byte) (flag off : Nat) (d : Option Nat) : Prop :=
  byteAt body flag = (if d = none then 0x00#8 else 0x01#8) ∧ ∀ v, d = some v → fieldAt body off 4 = v % 2 ^ 32

/-- A key slot record in the 12 bytes at an offset (section 10.3). -/
def SlotAt (body : List Byte) (off : Nat) (x : Slot) : Prop :=
  byteAt body (off + 2) = x.generation ∧
    match x.content with
    | .empty => byteAt body off = 0x00#8 ∧ byteAt body (off + 1) = 0x00#8 ∧ byteAt body (off + 3) = 0x00#8
    | .live id _ cls d => byteAt body off = 0x01#8
        ∧ byteAt body (off + 1) = (if cls = .keepAllowed then 0x00#8 else 0x01#8) ∧ fieldAt body (off + 4) 4 = id.toNat
        ∧ DeadlineAt body (off + 3) (off + 8) d
    | .expired id cls d => byteAt body off = 0x02#8
        ∧ byteAt body (off + 1) = (if cls = .keepAllowed then 0x00#8 else 0x01#8) ∧ fieldAt body (off + 4) 4 = id.toNat
        ∧ DeadlineAt body (off + 3) (off + 8) d

/-- A region report (section 10.3). -/
def RegionAt (body : List Byte) (e : RegionEntry) : Prop :=
  body.length = 52 ∧ byteAt body 0 = (if e.active = none then 0x00#8 else 0x01#8)
    ∧ (byteAt body 2).toNat = e.inFlight % 256 ∧ byteAt body 3 = 0x00#8 ∧ DefinitionAt body 4 e.active
    ∧ match e.staged with
      | none => byteAt body 1 = 0x00#8 ∧ DefinitionAt body 28 none
      | some (.define d) => byteAt body 1 = 0x01#8 ∧ DefinitionAt body 28 (some d)
      | some .vacate => byteAt body 1 = 0x02#8 ∧ DefinitionAt body 28 none

/-- A ring report (section 10.3); `held` is the ring's number of writes held in Overrun. -/
def RingAt (body : List Byte) (held : Nat) (r : Ring) : Prop :=
  body.length = 112 ∧ byteAt body 0 = (if r.live = true then 0x01#8 else 0x00#8)
    ∧ (byteAt body 1).toNat = r.epochs.length % 256 ∧ (byteAt body 2).toNat = r.accesses.length % 256
    ∧ (byteAt body 3).toNat = held % 256 ∧ (byteAt body 4).toNat = r.users % 256
    ∧ bytesAt body 5 3 = List.replicate 3 0#8
    ∧ [8, 16, 24, 32, 40, 48, 56].map (fieldAt body · 8) =
        [r.base, r.span, r.trail, r.claim, r.head, r.floor, if r.live = true then max r.floor (r.head - r.trail) else 0].map
          (· % 2 ^ 64)
    ∧ ∀ m < 4, (∀ e : Epoch, r.epochs[m]? = some e →
          fieldAt body (64 + 12 * m) 8 = e.start % 2 ^ 64 ∧ fieldAt body (72 + 12 * m) 4 = e.id.toNat)
        ∧ (r.epochs[m]? = none → bytesAt body (64 + 12 * m) 12 = List.replicate 12 0#8)

/-- The stop outcome code of a job (section 10.3): the reason codes of a Failed one are 1 to 7 in the order of the Outcome
List's table. -/
inductive StopCode : Option JobOutcome → Nat → Prop where
  | none : StopCode none 0
  | truncated : StopCode (some .truncated) 2
  | cancelled : StopCode (some .cancelled) 4
  | failed (m : Nat) (r : FailReason)
      (h : [FailReason.diskError, .keyLost, .expired, .keepRule, .mismatch, .ringStopped, .lockdown][m]? = some r) :
      StopCode (some (.failed r)) (9 + m)

/-- A keep job record in the 112 bytes at an offset (section 10.3); `holding` tells whether it blocks a write held in Overrun. -/
def JobAt (body : List Byte) (off : Nat) (active : Bool) (holding : Prop) (j : Job) : Prop :=
  (byteAt body off).toNat = j.id % 256 ∧ byteAt body (off + 1) = (if active then 0x01#8 else 0x00#8)
    ∧ (byteAt body (off + 2)).toNat = j.ring % 256 ∧ byteAt body (off + 3) = (if j.policy = .halt then 0x00#8 else 0x01#8)
    ∧ [Phase.idle, .reading, .transforming, .writing][(byteAt body (off + 4)).toNat]? = some j.phase
    ∧ (byteAt body (off + 5)).toNat = j.segments.length ∧ (byteAt body (off + 6)).toNat = j.extents.length
    ∧ (flagAt body (off + 7) 0 = true ↔ j.stopOutcome ≠ none) ∧ (flagAt body (off + 7) 1 = true ↔ holding)
    ∧ (∀ code, StopCode j.stopOutcome code → (byteAt body (off + 7)).toNat / 16 = code)
    ∧ fieldAt body (off + 8) 8 = j.start % 2 ^ 64 ∧ fieldAt body (off + 16) 4 = (j.upto - j.start) % 2 ^ 32
    ∧ fieldAt body (off + 20) 4 = (j.cursor - j.start) % 2 ^ 32 ∧ fieldAt body (off + 24) 4 = j.skipped % 2 ^ 32
    ∧ fieldAt body (off + 28) 4 = j.destination.toNat
    ∧ (∀ (m : Nat) (e : Epoch), j.segments[m]? = some e → fieldAt body (off + 32 + 8 * m) 4 = (e.start - j.start) % 2 ^ 32
        ∧ fieldAt body (off + 36 + 8 * m) 4 = e.id.toNat)
    ∧ ∀ (m : Nat) (e : Extent), j.extents[m]? = some e → fieldAt body (off + 64 + 12 * m) 8 = e.host % 2 ^ 64
        ∧ fieldAt body (off + 72 + 12 * m) 4 = e.count % 2 ^ 32

/-- An entry of the Outcome List in the 16 bytes at an offset (section 10.3). -/
def OutcomeAt (body : List Byte) (off : Nat) (e : OutcomeEntry) : Prop :=
  (byteAt body off).toNat = e.id % 256 ∧ (byteAt body (off + 1)).toNat = e.ring % 256
    ∧ fieldAt body (off + 4) 8 = e.cursor % 2 ^ 64 ∧ fieldAt body (off + 12) 4 = e.skipped % 2 ^ 32
    ∧ match e.outcome with
      | .finished => byteAt body (off + 2) = 0x00#8 ∧ byteAt body (off + 3) = 0x00#8
      | .truncated => byteAt body (off + 2) = 0x01#8 ∧ byteAt body (off + 3) = 0x00#8
      | .failed r => byteAt body (off + 2) = 0x02#8
          ∧ [FailReason.diskError, .keyLost, .expired, .keepRule, .mismatch, .ringStopped, .lockdown][
              (byteAt body (off + 3)).toNat - 1]? = some r ∧ byteAt body (off + 3) ≠ 0x00#8
      | .cancelled => byteAt body (off + 2) = 0x03#8 ∧ byteAt body (off + 3) = 0x00#8

/-- The profile-in-use report (section 10.3, in the codes of Table 10-4). -/
def ProfileAt (body : List Byte) (p : Profile) : Prop :=
  body.length = 13 ∧ (byteAt body 0).toNat = p.partTags % 256
    ∧ byteAt body 1 = (if p.unmapped = .pass then 0x00#8 else 0x01#8)
    ∧ byteAt body 2 = (if p.arbiter = .fixed then 0x00#8 else 0x01#8) ∧ (byteAt body 3).toNat = p.holdLimit % 256
    ∧ (p.keyWaitMs ∈ [50, 200, 800, 3200] → [50, 200, 800, 3200][(byteAt body 4).toNat]? = some p.keyWaitMs)
    ∧ (p.overrunMs ∈ [100, 400, 1600, 6400] → [100, 400, 1600, 6400][(byteAt body 5).toNat]? = some p.overrunMs)
    ∧ (byteAt body 6).toNat = p.gate % 256 ∧ fieldAt body 7 2 = p.increment % 2 ^ 16 ∧ byteAt body 9 = p.alertMask
    ∧ fieldAt body 10 2 = p.marks.toNat
    ∧ byteAt body 12 = (match p.result with | .good => 0x00#8 | .absent => 0x01#8 | .faulty => 0x02#8)

/-! ## Parts of a state, written short -/

/-- A downstream command that nothing has yet passed for. -/
def freshCommand (tag : Option Nat) (user : TagUser) (op : DownOp) (disk count host : Nat) (frame : List Byte) : DownCmd :=
  { tag := tag, user := user, op := op, disk := disk, count := count, host := host, frame := frame, passed := 0, asked := 0,
    broken := false, discarding := false }

/-- An entry of the Outcome List. -/
def outcomeEntry (id ring : Nat) (o : JobOutcome) (cursor skipped : Nat) : OutcomeEntry :=
  { id := id, ring := ring, outcome := o, cursor := cursor, skipped := skipped }

/-- The record of an arriving command: that of its tag, or the sole record (R76, R77). -/
def Arrival.key (a : Arrival) : RecordKey :=
  match a.tag with
  | some t => .tag t
  | none => .sole

/-- The jobs that end in one change, in queue order, each with this outcome (R133, R151): they leave the queue, enter the Outcome
List, the last to end first, and KeepEnded is latched if there are any, beside the causes that the change itself latches. -/
def State.jobsEnded (s : State) (ended : List Job) (o : JobOutcome) (also : AlertSet) (u : State) : Prop :=
  ended.Sublist s.keep.queue ∧ (∀ j ∈ s.keep.queue, j ∈ ended ↔ ∀ k ∈ u.keep.queue, k.id ≠ j.id)
    ∧ u.keep.outcomes =
        ((ended.reverse.map fun j => outcomeEntry j.id j.ring o j.cursor j.skipped) ++ s.keep.outcomes).take 4
    ∧ u.line = { s.line with latched := s.line.latched ||| also ||| if ended = [] then 0x00#8 else 0x04#8 }

/-! ## What ends and stops give up -/

/-- The buffers of an owner that ends are withdrawn from the ready queues and released, to the keep request where one stands
(R120, R121); a sector in the grant leaves its buffer to the end of that grant (R129). -/
def State.released (s u : State) (o : Owner) : Prop :=
  ∀ i < Config.bufferCount, (s.buffer i).owner = o → (s.buffer i).state ≠ .setAside →
    (s.engine.grant.bind Grant.buffer = some i →
        (u.buffer i).owner = .ended ∧ u.engine.grant.map Grant.fate = some .discard)
      ∧ (s.engine.grant.bind Grant.buffer ≠ some i →
        ((u.buffer i).state = .free ∨ (u.buffer i).state = .setAside ∧ s.keep.request ≠ none)
          ∧ i ∉ u.engine.readQ ∧ i ∉ u.engine.writeQ ∧ i ∉ u.engine.keepQ)

/-- The end of the chunk in flight of a job gives up what the chunk holds (R17, R143, R144, R147): its in-flight counts, its
ring's user count, its part tag and its buffers. -/
def State.chunkGivenUp (s u : State) (c : Chunk) (j : Job) : Prop :=
  u.keep.chunk = none ∧ u.tagUser c.tag = none ∧ s.released u .keep
    ∧ (∀ i < Config.regionCount, (u.entry i).inFlight = (s.entry i).inFlight - c.counted.count i)
    ∧ ∀ r < Config.ringCount, (u.ring r).users = (s.ring r).users - if r = j.ring then 1 else 0

/-- A job that is given a stop outcome ends within the event (R147): it is Queued, it has no chunk in flight, or it is
Transforming and not yet stopping. -/
def State.stopsAtOnce (s : State) (j : Job) : Prop :=
  s.keep.queue.head? ≠ some j ∨ s.keep.chunk = none ∨ (j.phase = .transforming ∧ j.stopOutcome = none)

/-- The job is the Active one, left in the queue by a stop (R147): it reads or writes and takes this stop outcome, or it was
stopping already and keeps its first one; nothing else of it changes. -/
def State.stopsAs (s : State) (o : JobOutcome) (j : Job) : Prop :=
  ∃ b, s.keep.queue.head? = some b ∧ s.keep.chunk ≠ none ∧ (b.stopOutcome ≠ none → j = b)
    ∧ (b.stopOutcome = none → (b.phase = .reading ∨ b.phase = .writing) ∧ j = { b with stopOutcome := some o })

/-- What a stop of the Active job does at once beside the job itself (R140, R147): with no chunk in flight its buffer request is
withdrawn; Transforming, its chunk ends; Reading, its buffers are released and its read's further data is discarded; Writing, or
already stopping, nothing; and only the end of a chunk gives up counts. -/
def State.stopGivesUp (s u : State) (j : Job) : Prop :=
  (s.keep.chunk = none → u.keep.request = none
      ∧ (s.keep.request ≠ none → ∀ i < Config.bufferCount, (s.buffer i).owner = .keep → (u.buffer i).state = .free))
    ∧ (∀ c, s.keep.chunk = some c → j.stopOutcome = none → j.phase = .transforming → s.chunkGivenUp u c j)
    ∧ (s.keep.chunk ≠ none → j.stopOutcome = none → j.phase = .reading → s.released u .keep
        ∧ ∀ d ∈ u.drive.outstanding ++ u.drive.issueOrder, d.user = .keep → d.discarding = true)
    ∧ (s.keep.chunk ≠ none → j.stopOutcome ≠ none ∨ j.phase = .writing → u.engine = s.engine ∧ u.drive = s.drive)
    ∧ (s.keep.chunk = none ∨ j.stopOutcome ≠ none ∨ j.phase ≠ .transforming → u.keep.chunk = s.keep.chunk
        ∧ (∀ i < Config.regionCount, u.entry i = s.entry i) ∧ ∀ r < Config.ringCount, (u.ring r).users = (s.ring r).users)

/-- The downstream command on a tag has failed under R84 and is not yet ended: no more of its data goes either way, and nothing
else changes. -/
def State.brokenOn (s u : State) (tag : Option Nat) (c : DownCmd) : Prop :=
  u.outstandingOn tag = some { c with broken := true } ∧ (∀ x, x ≠ tag → u.outstandingOn x = s.outstandingOn x)
    ∧ u = { s with drive := { s.drive with
        outstanding := u.drive.outstanding, sending := s.drive.sending.filter fun x => decide (x.tag ≠ tag) } }

/-! ## Issue, failed parts and failed chunks -/

/-- The first downstream command of a record (R101): the first range of its image, or the command as it arrived, on its host tag
or non-queued. -/
def Record.issues (x : Record) (c : DownCmd) : Prop :=
  (∀ im, x.kind.isData = true → x.image = some im → c = freshCommand (tagOf x.key) (.hostFirst x.key) x.kind.downOp
      im.first.start im.first.count x.host x.frame)
    ∧ (x.kind.isData = false → c = freshCommand (tagOf x.key) (.hostFirst x.key) x.kind.downOp 0
      (if x.kind = .identify then 1 else 0) 0 x.frame)

/-- A record that is issued hands its first downstream command over and takes its host tag; one that is not hands nothing
over (R101). -/
def State.issuedAs (s u : State) (x : Record) : Prop :=
  (x.state = .issued → x.part1 = .outstanding ∧ (∃ c, u.drive.issueOrder = s.drive.issueOrder ++ [c] ∧ x.issues c)
      ∧ ∀ t, tagOf x.key = some t → t < Config.tagCount → u.tagUser t = some (.hostFirst x.key))
    ∧ (x.state ≠ .issued → u.drive.issueOrder = s.drive.issueOrder)

/-- A record goes on from a hold with what its classification captured (R95, R96), its split but for a part tag granted. -/
def State.goesOn (s u : State) (x y : Record) : Prop :=
  y.key = x.key ∧ y.kind = x.kind ∧ y.host = x.host ∧ y.count = x.count ∧ y.frame = x.frame ∧ y.image = x.image
    ∧ untagged y.split = untagged x.split ∧ s.issuedAs u y

/-- A host LBA of one part of a record: the second of a split, else the first or the whole command (R96, R105). -/
def Record.inPart (x : Record) (second : Bool) (lba : Nat) : Prop :=
  match x.split with
  | none => x.host ≤ lba ∧ lba < x.host + x.count
  | some p => if second then p.host ≤ lba ∧ lba < p.host + p.count else x.host ≤ lba ∧ lba < p.host

/-- One buffer is released (R121): withdrawn from the ready queues, and Free or the keep request's; one in the grant stays for
the end of that grant to release (R129). -/
def State.bufferReleased (s u : State) (i : Nat) : Prop :=
  (s.engine.grant.bind Grant.buffer = some i →
      u.buffer i = s.buffer i ∧ u.engine.grant.map Grant.fate = some .discard)
    ∧ (s.engine.grant.bind Grant.buffer ≠ some i →
      ((u.buffer i).state = .free ∨ (u.buffer i).state = .setAside ∧ s.keep.request ≠ none)
        ∧ i ∉ u.engine.readQ ∧ i ∉ u.engine.writeQ ∧ i ∉ u.engine.keepQ)

/-- What failed parts of a read do to its data (R104, R129): its first key-lost field stays only below the delivery limit, its
buffers at or above the limit are released undelivered, and those below it stay. -/
def State.readFails (s u : State) (x y : Record) : Prop :=
  y.request = x.request ∧ ∀ l, y.limitIs l → y.firstLost = x.firstLost.filter (fun f => decide (f.1 < l))
    ∧ ∀ i < Config.bufferCount, (s.buffer i).owner = .record x.key →
        (l ≤ (s.buffer i).lba → s.bufferReleased u i) ∧ ((s.buffer i).lba < l → u.buffer i = s.buffer i)

/-- What failed parts of a write do to its data (R103, R129): a request of theirs for write data is withdrawn, sectors of theirs
still to arrive are to be discarded, and those in the pool are released unsent; the other part's stay. -/
def State.writeFails (s u : State) (parts : List Bool) (x y : Record) : Prop :=
  y.firstLost = x.firstLost ∧ (x.request = none → y.request = none)
    ∧ (∀ q, x.request = some q → ((∃ p ∈ parts, x.inPart p q.first) → y.request = none)
        ∧ ((∀ p ∈ parts, ¬ x.inPart p q.first) → y.request = some q))
    ∧ ∀ i < Config.bufferCount, (s.buffer i).owner = .record x.key →
        ((∃ p ∈ parts, x.inPart p (s.buffer i).lba) → (s.buffer i).state = .taken →
            u.buffer i = { s.buffer i with discard := true })
          ∧ ((∃ p ∈ parts, x.inPart p (s.buffer i).lba) → (s.buffer i).state ≠ .taken → s.bufferReleased u i)
          ∧ ((∀ p ∈ parts, ¬ x.inPart p (s.buffer i).lba) → u.buffer i = s.buffer i)

/-- Parts of a command have ended with an error (R103, R104, R106, R129): nothing else of the record changes but, with a first
part that prevents the second, the part tag, which is freed. -/
def State.partsFail (s u : State) (parts : List Bool) (x y : Record) : Prop :=
  y = { x with part1 := y.part1, part2 := y.part2, firstLost := y.firstLost, request := y.request, split := y.split }
    ∧ (false ∉ parts → y.part1 = x.part1) ∧ (true ∉ parts → y.part2 = x.part2)
    ∧ y.split = (if false ∈ parts ∧ x.part2 = .notIssued then untagged x.split else x.split)
    ∧ (∀ p t, false ∈ parts → x.part2 = .notIssued → x.split = some p → p.tag = some t → u.tagUser t = none)
    ∧ (x.kind.isRead = true ∨ x.kind = .identify → s.readFails u x y)
    ∧ (x.kind.isWrite = true → s.writeFails u parts x y)

/-- The parts of a record with a command at the disk (R105). -/
def State.partsAtDisk (s : State) (k : RecordKey) (parts : List Bool) : Prop :=
  ∀ p : Bool, p ∈ parts ↔ ∃ o ∈ s.drive.outstanding, o.user = if p then .hostSecond k else .hostFirst k

/-- The end of a command of the keep chunk of job `j`, its read or its write, Good or not (R142 to R145, R147, R151). A job that
is stopping ends with its stop outcome, a write's end having moved its cursor and skipped count; else a read goes on to
Transforming, as zero source after an error under Skip, a write moves the cursor past the chunk, which may end the job, and an
error under Halt fails it. A chunk that ends gives up what it holds, and a job that ends latches KeepEnded. -/
def State.keepCommandEnds (s u : State) (read ok : Bool) (j : Job) (rest : List Job) (k : Chunk) : Prop :=
  (u.keep.chunk = none → s.chunkGivenUp u k j)
    ∧ (u.keep.queue = rest → u.line = { s.line with latched := s.line.latched ||| 0x04#8 })
    ∧ (u.keep.queue ≠ rest → u.line = s.line)
    ∧ (∀ o, j.stopOutcome = some o → u.keep.chunk = none ∧ u.keep.queue = rest
        ∧ ∀ (n m : Nat), n = (if read = false ∧ (ok = true ∨ j.policy = .skip) then k.count else 0) →
          m = (if read = false ∧ (k.zeroSource = true ∨ ok = false ∧ j.policy = .skip) then k.count else 0) →
          u.keep.outcomes = (outcomeEntry j.id j.ring o (j.cursor + n) (j.skipped + m) :: s.keep.outcomes).take 4)
    ∧ (j.stopOutcome = none → read = true →
        (ok = true ∨ j.policy = .skip → u.keep.queue = { j with phase := .transforming } :: rest
            ∧ u.keep.chunk = some { k with readEnded := true, zeroSource := k.zeroSource || !ok })
          ∧ (ok = false → j.policy = .skip → ∀ i < Config.bufferCount, (s.buffer i).owner = .keep →
              u.buffer i = { s.buffer i with state := .queued, treatment := .zeroSource, data := zeroSector })
          ∧ (ok = false → j.policy = .halt → u.keep.chunk = none ∧ u.keep.queue = rest
            ∧ u.keep.outcomes = (outcomeEntry j.id j.ring (.failed .diskError) j.cursor j.skipped :: s.keep.outcomes).take 4))
    ∧ (j.stopOutcome = none → read = false → u.keep.chunk = none
          ∧ (ok = true ∨ j.policy = .skip → ∀ n, n = (if k.zeroSource = true ∨ ok = false then k.count else 0) →
              if j.cursor + k.count = j.upto then u.keep.queue = rest
                ∧ u.keep.outcomes = (outcomeEntry j.id j.ring (if j.upto = j.acceptedUpto then .finished else .truncated)
                    j.upto (j.skipped + n) :: s.keep.outcomes).take 4
              else u.keep.outcomes = s.keep.outcomes
                ∧ u.keep.queue = { j with phase := .idle, cursor := j.cursor + k.count, skipped := j.skipped + n } :: rest)
          ∧ (ok = false → j.policy = .halt → u.keep.queue = rest
            ∧ u.keep.outcomes = (outcomeEntry j.id j.ring (.failed .diskError) j.cursor
                (j.skipped + if k.zeroSource = true then k.count else 0) :: s.keep.outcomes).take 4))

end Sys2Proof.Machine
end

