-- ==== Sys2Proof/Certificates/Slice0/Obligations.lean ====
section
/-! DEFINITION. The statements for the provers. `settle u` in a statement is the state after the effects that the rules place
within the same event as `u`; the statements of the first part say what it and every command leave alone. -/

open Sys2Proof Sys2Proof.Machine

/-! ## The step, the internal steps and the laws that every command keeps -/

/-- The step runs the command at the front of the queue on the state with the queue's rest. -/
def Obligations.StepRunsFrontCommand : Prop :=
  ∀ (c : Instr) (rest : List Instr) (s : State), s.pending = c :: rest → step s = exec c { s with pending := rest }

/-- Every command answers a next state from every state, leaves the waiting commands alone, and only adds to what the part has
put on its wires. The model's choices: a command whose event cannot happen in a state leaves it as it is (assumption log entry
11), and the wire log and the queue, which are the model's own, stand through POWER_ON_RESET (entries 4 and 39). It says no
command's own effect, which the statements below do. -/
def Obligations.EveryCommandCompletes : Prop :=
  ∀ (c : Instr) (s : State), ∃ t, exec c s = .next t ∧ t.pending = s.pending ∧ s.wires.up <+: t.wires.up
    ∧ s.wires.down <+: t.wires.down ∧ s.wires.spi <+: t.wires.spi

/-- An internal step that is due is taken: `settle` takes each as it becomes due, until none is due or as many as the bound of
assumption log entry 10 are taken; and a step from a state in which none is due ends in one in which none is due, unless it
takes that bound (R22, R39, R66, R68, R82, R100, R105, R107, R120, R139, R141, R142: the effects placed within one event). -/
def Obligations.SettleTakesDueSteps : Prop :=
  (∀ s : State, (internalStep s = none → settle s = s)
      ∧ ∃ n ≤ settleBound s, InternalRun n s (settle s) ∧ (internalStep (settle s) = none ∨ n = settleBound s))
    ∧ ∀ s t : State, internalStep s = none → step s = .next t → internalStep t = none
        ∨ ∃ u v l, t = { v with line := l } ∧ InternalRun (settleBound u) u v

/-- What it means that no internal step is due: no pending definition stands on an entry whose count is 0 and every drained
command still meets a staged entry (R22); no id waited for in KeyWait has a slot (R39); every command in RingOrder waits for an
access (R66), and every write in Overrun runs its timer and is held by a job (R68); no part tag is free for a record in TagWait
(R82); a sole command waits only for a chunk (R100); no second part may be issued (R105), no completion is decided (R107); the
Keep Unit has neither a request to meet, to start or to place nor a destination write to issue (R120, R139, R142); no frame of
the disk waits but for room (R118); nothing stands at a port that may send (R83, R122). The model's readings: nothing waits at
a sleeping link either, since a wake of R85 is one step and a write request without room for a sector wakes none (assumption
log entry 24); and the System Port is NotReady only for want of the load's end or of the disk, since it becomes Ready within
the event in which both stand (R74, entry 19). -/
def Obligations.AtRestNothingDue : Prop :=
  ∀ s : State, internalStep s = none →
    (∀ i < Config.regionCount, (s.entry i).inFlight = 0 → (s.entry i).staged = none)
      ∧ (∀ k x, s.record? k = some x →
          (k ∈ s.regions.drain → s.drains x.host x.count)
            ∧ (k ∈ s.tracker.keyWait → ∀ id ∈ x.awaited, ¬ s.holds id)
            ∧ (k ∈ s.tracker.ringOrder → x.waitsFor ≠ [])
            ∧ (k ∈ s.tracker.overrun → x.timer ≠ none ∧ ∃ j ∈ s.keep.queue, s.heldByJob k j)
            ∧ (k = .sole → x.state = .soleWait → s.keep.chunk ≠ none)
            ∧ (∀ p, x.split = some p → x.state = .issued → x.part2 = .notIssued →
                ¬ (k = .sole ∧ x.part1 = .good)
                  ∧ ¬ (k ≠ .sole ∧ (x.part1 = .outstanding ∨ x.part1 = .good) ∧ p.host - x.host ≤ x.downCount))
            ∧ (x.state = .issued → ¬ s.completes x))
      ∧ (s.tracker.tagWait ≠ [] → ∀ t, ¬ s.lowestPartTag t)
      ∧ (∀ q, s.keep.request = some q → q.met = false → s.setAsideBuffers < q.count)
      ∧ (∀ j rest, s.keep.queue = j :: rest →
          (∀ q t, s.keep.request = some q → q.met = true → s.keep.chunk = none → s.tracker.tagWait = [] → s.driveUp →
              ¬ s.lowestPartTag t)
            ∧ ¬ s.placesRequest j
            ∧ ∀ c h disk left, s.keep.chunk = some c → j.phase = .transforming → j.destinationAt h disk left →
                s.doneKeepBuffers ≠ c.count)
      ∧ (s.drive.inbox ≠ [] → s.freeBuffers = 0 ∨ Config.hostClassLimit ≤ s.classBuffers .hostRead)
      ∧ (∀ c rest, s.drive.issueOrder = c :: rest → (∀ d, s.drive.link ≠ .asleep d)
          ∧ (s.drive.link = .ready → s.drive.inbox = [] → s.drive.sending = none →
              c.tag = none ∧ ∃ x ∈ s.drive.outstanding, x.tag ≠ none))
      ∧ (∀ c ∈ s.drive.outstanding, ∀ i < Config.bufferCount, s.drive.link = .ready → s.drive.inbox = [] →
          s.drive.sending = none → c.op = .write → c.broken = false → c.passed < c.asked →
          ¬ ((s.buffer i).state = .done ∧ (s.buffer i).owner = c.owner ∧ (s.buffer i).lba = c.host + c.passed))
      ∧ (s.sys.link = .notReady → s.sys.loading = true ∨ s.drive.link ≠ .ready)
      ∧ ∀ d, s.sys.link = .asleep d → s.sys.sendOrder = [] ∧ ∀ r ∈ s.tracker.records, s.exchangeReady r = false

/-- The state after power-on reset: the values of R3, R45, R72, R90, R93, R130, R153, R162 and R174 that concern the blocks;
every law of the blocks holds there. -/
def Obligations.ResetValuesAndLaws : Prop :=
  (∀ i < Config.regionCount, State.reset.entry i = { active := none, staged := none, inFlight := 0 })
    ∧ State.reset.regions.drain = []
    ∧ (∀ i < Config.slotCount, State.reset.slot i = { content := .empty, generation := 0#8 })
    ∧ State.reset.keys.missList = [] ∧ State.reset.keys.lockdown = false
    ∧ (∀ r < Config.ringCount, (State.reset.ring r).live = false ∧ (State.reset.ring r).span = 0
        ∧ (State.reset.ring r).epochs = [] ∧ (State.reset.ring r).users = 0)
    ∧ State.reset.tracker.records = [] ∧ State.reset.sys.link = .down ∧ State.reset.sys.loading = true
    ∧ State.reset.drive.link = .down ∧ State.reset.freeBuffers = Config.bufferCount ∧ State.reset.engine.grant = none
    ∧ State.reset.keep.queue = [] ∧ State.reset.keep.outcomes = [] ∧ State.reset.clock.set = false
    ∧ State.reset.clock.minute = 0 ∧ State.reset.line.state = .loading ∧ State.reset.line.reply = none
    ∧ State.reset.line.latched = 0#8 ∧ State.reset.line.enabled = 0#8
    ∧ State.reset.clock.Law ∧ State.reset.KeyTableLaw ∧ State.reset.DeadlineLaw ∧ State.reset.MissListLaw
    ∧ State.reset.LockdownLaw ∧ State.reset.RingLaw ∧ State.reset.RingNameLaw ∧ State.reset.keep.Law
    ∧ State.reset.PoolLaw

/-- Every step keeps the ranges of the Retention Clock, and its minute count never decreases but at POWER_ON_RESET (R156). -/
def Obligations.StepKeepsClockLaw : Prop :=
  ∀ s t : State, s.clock.Law → step s = .next t →
    t.clock.Law ∧ (s.pending.head? ≠ some .powerOnReset → s.clock.minute ≤ t.clock.minute)

/-- Every step keeps the Key Table a map from programme id to slot (R26), the law of deadlines (R28), and the Miss List within
its 4 places, without duplicates, and free of ids that have a slot (R37); and it keeps Lockdown's emptiness, only POWER_ON_RESET
clearing the flag (R44). -/
def Obligations.StepKeepsTableLaws : Prop :=
  ∀ s t : State, step s = .next t →
    (s.KeyTableLaw → t.KeyTableLaw) ∧ (s.DeadlineLaw → t.DeadlineLaw) ∧ (s.MissListLaw → t.MissListLaw)
      ∧ (s.LockdownLaw → t.LockdownLaw
          ∧ (s.pending.head? ≠ some .powerOnReset → s.keys.lockdown = true → t.keys.lockdown = true))

/-- Every step keeps the shape, offset and epoch laws of the rings, F ≤ H ≤ C among them, and while a ring stays Live neither
its claim nor its head decreases (R47); and it keeps each ring named by at most one entry, and a Live ring's entry free of
staged changes (R19). -/
def Obligations.StepKeepsRingLaws : Prop :=
  ∀ s t : State, step s = .next t →
    (s.RingLaw → t.RingLaw ∧ (s.pending.head? ≠ some .powerOnReset → ∀ r < Config.ringCount, (s.ring r).live = true →
        (t.ring r).live = true → (s.ring r).claim ≤ (t.ring r).claim ∧ (s.ring r).head ≤ (t.ring r).head))
      ∧ (s.RingNameLaw → t.RingNameLaw)

/-- Every step keeps the laws of the keep jobs: at most 4 with distinct ids, start ≤ cursor ≤ end; and while a job stays in the
queue its cursor never decreases and its end never increases (R131). -/
def Obligations.StepKeepsKeepLaw : Prop :=
  ∀ s t : State, s.keep.Law → step s = .next t →
    t.keep.Law ∧ (s.pending.head? ≠ some .powerOnReset → ∀ j ∈ s.keep.queue, ∀ k ∈ t.keep.queue, j.id = k.id →
      j.cursor ≤ k.cursor ∧ k.upto ≤ j.upto)

/-- Every step keeps the class limits of the Sector Pool (R117), and that the Keep Unit's buffers and the buffers set aside for
it are of the Keep class (R120). -/
def Obligations.StepKeepsPoolLaw : Prop := ∀ s t : State, s.PoolLaw → step s = .next t → t.PoolLaw

/-- A cause stays latched until CLEAR ALERTS or POWER_ON_RESET clears it; the enable set changes at MASK ALERTS, at the end of
the load and at POWER_ON_RESET alone, and what the profile gave at the last two alone (R170, R171, R173). Only the Retention
Clock's own commands, the end of the load and POWER_ON_RESET change the clock; only the requests of the Key Table, an expiry,
Lockdown and POWER_ON_RESET change a key slot, the end of the load where Lockdown is entered with it (R26, R43, R154, R162). -/
def Obligations.AlertClockAndSlotFrames : Prop :=
  ∀ (c : Instr) (s t : State), exec c s = .next t → c ≠ .powerOnReset →
    (c ≠ .clearAlerts → s.line.latched &&& t.line.latched = s.line.latched)
      ∧ ((∀ r, c ≠ .profileLoadEnd r) → c ≠ .profileLoadTimeout →
          (c ≠ .maskAlerts → t.line.enabled = s.line.enabled)
            ∧ t.line.profile = s.line.profile
            ∧ (c ∉ [Instr.setClock, .trimClock, .oscillatorCycle, .secondCounted, .minuteTick] → t.clock = s.clock)
            ∧ (c ∉ [Instr.setClock, .oscillatorCycle, .secondCounted, .minuteTick, .loadKey, .dropKey, .setDeadline, .lockdown] →
                t.keys.slots = s.keys.slots))

/-- A change of the map and of a ring's shape comes from its own request alone: but for PUT REGION and FREE REGION an entry
keeps its definitions or has its pending definition applied (R22), and but for SHAPE RING a ring keeps its base, span and trail.
A slot's generation changes only by the LOAD KEY that places a key in it, by one, and at POWER_ON_RESET (R27). -/
def Obligations.MapShapeAndGenerationFrames : Prop :=
  ∀ (c : Instr) (s t : State), exec c s = .next t → c ≠ .powerOnReset →
    (c ∉ [Instr.putRegionNow, .putRegionBoundary, .freeRegionNow, .freeRegionBoundary] → ∀ i,
        ((t.entry i).active = (s.entry i).active ∧ (t.entry i).staged = (s.entry i).staged)
          ∨ ((s.entry i).staged ≠ none ∧ (t.entry i).active = (s.entry i).applied.active ∧ (t.entry i).staged = none))
      ∧ (c ≠ .shapeRing → ∀ r, (t.ring r).base = (s.ring r).base ∧ (t.ring r).span = (s.ring r).span
          ∧ (t.ring r).trail = (s.ring r).trail)
      ∧ ∀ i, (t.slot i).generation = (s.slot i).generation
          ∨ c = .loadKey ∧ (s.slot i).content = .empty ∧ (∃ id key cls d, (t.slot i).content = .live id key cls d)
            ∧ (t.slot i).generation = (s.slot i).generation + 1#8

/-! ## Requests: frames, refusals and the Module Line -/

/-- A request read back from its frame is the request, its sequence byte is the frame's, and the frame goes to a request row. -/
def Obligations.RequestFrameRoundTrip : Prop :=
  ∀ (sequence : Byte) (r : Request), r.fits = true →
    decodeFrame (r.frame sequence) = .request r ∧ frameSequence (r.frame sequence) = sequence
      ∧ rowOf (r.frame sequence) ≠ .malformedFrame ∧ rowOf (r.frame sequence) ≠ .unknownRequest

/-- A refused request changes nothing but the line's own request, reply and state (R168): said of every command, in every state
in which no internal step is due. -/
def Obligations.RefusedRequestChangesNothing : Prop :=
  ∀ (c : Instr) (s t : State) (why : LineReason) (sequence : Byte) (body : List Byte),
    s.line.state = .working → internalStep s = none → exec c s = .next t → t.line.state = .idle →
    t.line.reply = some { status := .refused why, sequence := sequence, body := body } →
    c ≠ .powerOnReset →
    t = { s with line := { s.line with
            state := .idle, request := none, reply := some { status := .refused why, sequence := sequence, body := [] } } }

/-- A send that completes with no request in progress becomes it, and one that completes while a request is in progress is
discarded and latches LineOverlap (R165, R167). A fetch shifts out Pending with the sequence byte of the request in progress,
else the reply in the slot, else Pending with sequence byte 0; bytes clocked past the frame are FFh; and it changes nothing
else (R166, R178). A reply frame is its status byte, its sequence byte, the length of its body in two bytes and the body; the
status bytes are 00h, 01h, 02h and 80h plus the codes of the refusal reasons (R175). A transaction is a send or a fetch by its
first byte, 3Ch or C3h, and ignored with another or with none (R163, R175). The model's choices: the filler of a send joins no
log (assumption log entry 46), and Pending has sequence byte 0 while a malformed frame without one is in progress (entry 47).
-/
def Obligations.SendAndFetch : Prop :=
  (∀ (frame : List Byte) (s : State),
      (s.line.request = none → exec (.send frame) s = .next { s with line := { s.line with
          request := some frame, state := if s.line.state = .loading then .loading else .working } })
        ∧ (∀ f, s.line.request = some f → exec (.send frame) s = .next (s.withLatched 0x20#8)))
    ∧ (∀ (n : Nat) (s : State), ∃ reply : Reply,
      exec (.fetch n) s = .next { s with wires := { s.wires with spi := s.wires.spi ++
          [(reply.frame ++ List.replicate n 0xFF#8).take n] } }
        ∧ (∀ f, s.line.request = some f → reply = { status := .waiting, sequence := frameSequence f, body := [] })
        ∧ (∀ r, s.line.request = none → s.line.reply = some r → reply = r)
        ∧ (s.line.request = none → s.line.reply = none → reply = { status := .waiting, sequence := 0#8, body := [] })
        ∧ reply.frame.length = 4 + reply.body.length
        ∧ byteAt reply.frame 0 = reply.status.code ∧ byteAt reply.frame 1 = reply.sequence
        ∧ (reply.body.length < 2 ^ 16 → fieldAt reply.frame 2 2 = reply.body.length)
        ∧ reply.frame.drop 4 = reply.body)
    ∧ ReplyStatus.finished.code = 0x00#8 ∧ ReplyStatus.staged.code = 0x01#8 ∧ ReplyStatus.waiting.code = 0x02#8
    ∧ ([.badArgument, .duplicate, .full, .notFound, .clockUnset, .clockBackward, .expired, .ringLive, .ringIdle, .ringTaken,
        .notMapped, .ringStale, .keepRule, .mismatch, .overlap, .busy, .locked, .unknown] : List LineReason).map
        (fun why => (ReplyStatus.refused why).code.toNat) = List.range' 0x81 18
    ∧ decodeTransaction [] = none
    ∧ ∀ (code : Byte) (shifted : List Byte),
      (code = 0x3C#8 → decodeTransaction (code :: shifted) = some (.send shifted))
        ∧ (code = 0xC3#8 → decodeTransaction (code :: shifted) = some (.fetch shifted.length))
        ∧ (code ≠ 0x3C#8 → code ≠ 0xC3#8 → decodeTransaction (code :: shifted) = none)

/-- A malformed frame is answered BadArgument with the sequence byte it has or 0 (R176), and a well-formed frame of a type that
names no request Unknown (R165), without reaching a block. A body that does not fit Table 10-2, by its length, by SUBMIT KEEP's
count byte or by a bit of a flag, ring or timing byte that the layout does not name, is answered BadArgument before every check
of the owning rule (R177), by a row of its type: which one, where the type has several, is the model's choice (assumption log
entry 6). -/
def Obligations.MalformedAndUnknownAnswered : Prop :=
  ∀ (f : List Byte) (s : State), s.line.state = .working → s.line.request = some f → internalStep s = none →
    (f.length < 3 ∨ 48 < (byteAt f 2).toNat ∨ f.length ≠ 3 + (byteAt f 2).toNat →
        exec .malformedFrame s = .next (s.turnedAway (f.getD 1 0#8) .badArgument))
      ∧ (3 ≤ f.length → (byteAt f 2).toNat ≤ 48 → f.length = 3 + (byteAt f 2).toNat →
          ((byteAt f 0).toNat = 0 ∨ 16 < (byteAt f 0).toNat →
              exec .unknownRequest s = .next (s.turnedAway (f.getD 1 0#8) .unknown))
            ∧ (1 ≤ (byteAt f 0).toNat → (byteAt f 0).toNat ≤ 16 → misfit (byteAt f 0).toNat (f.drop 3) →
                ∃ c ∈ rowsOf (byteAt f 0).toNat, exec c s = .next (s.turnedAway (f.getD 1 0#8) .badArgument)))

/-- READ STATUS answers Done with the report of its selector and changes nothing else in a state in which no internal step is
due: the alerts, the clock and the Miss List with its waiter counts; a region or ring index outside its range, and a selector
above 08h, is refused BadArgument (R37, R154, R169, R170). That the row of the alerts takes the frame of such a selector is the
model's choice (assumption log entry 6). -/
def Obligations.ReadStatusReports : Prop :=
  ∀ (sequence : Byte) (index : Nat) (s : State), internalStep s = none →
    (s.inProgress sequence (.readStatus 0 index) → exec .readStatusAlerts s = .next (s.answered sequence .finished
        [s.line.latched, s.line.enabled, if s.line.latched &&& s.line.enabled = 0#8 then 0x00#8 else 0x01#8]))
      ∧ (s.inProgress sequence (.readStatus 1 index) → exec .readStatusClock s = .next (s.answered sequence .finished
          ([if s.clock.set = true then 0x01#8 else 0x00#8, BitVec.ofNat 8 s.clock.seconds] ++ leBytes 2 s.clock.increment
            ++ leBytes 4 s.clock.minute ++ leBytes 4 s.clock.accumulator)))
      ∧ (s.inProgress sequence (.readStatus 3 index) → 64 ≤ index →
          exec .readStatusRegion s = .next (s.turnedAway sequence .badArgument))
      ∧ (s.inProgress sequence (.readStatus 4 index) → 4 ≤ index →
          exec .readStatusRing s = .next (s.turnedAway sequence .badArgument))
      ∧ (s.inProgress sequence (.readStatus 7 index) → exec .readStatusMissList s = .next (s.answered sequence .finished
          (BitVec.ofNat 8 s.keys.missList.length ::
            s.keys.missList.flatMap fun id => leBytes 4 id.toNat ++ [BitVec.ofNat 8
              (s.tracker.records.countP fun r => r.state == .keyWait && r.awaited.contains id)])))
      ∧ ∀ sel, 8 < sel → s.inProgress sequence (.readStatus sel index) →
          exec .readStatusAlerts s = .next (s.turnedAway sequence .badArgument)

/-- The other reports of READ STATUS, byte by byte in the layouts of section 10.3, in a state in which no internal step is due:
the key table, a region, a ring, the Keep Queue, the Outcome List and the profile in use; and the key table report does not
depend on a key (R26). Bytes that the layouts leave open (assumption log entry 44) are not described. -/
def Obligations.StatusRecordLayouts : Prop :=
  ∀ (sequence : Byte) (index : Nat) (s : State), internalStep s = none →
    (s.inProgress sequence (.readStatus 2 index) →
        ∃ body, exec .readStatusKeyTable s = .next (s.answered sequence .finished body) ∧ body.length = 192
          ∧ (∀ i < Config.slotCount, SlotAt body (12 * i) (s.slot i))
          ∧ ∀ i id key other cls d t, (s.slot i).content = .live id key cls d →
              t = s.withSlot i { content := .live id other cls d, generation := (s.slot i).generation } →
              internalStep t = none → exec .readStatusKeyTable t = .next (t.answered sequence .finished body))
      ∧ (s.inProgress sequence (.readStatus 3 index) → index < 64 →
          ∃ body, exec .readStatusRegion s = .next (s.answered sequence .finished body) ∧ RegionAt body (s.entry index))
      ∧ (s.inProgress sequence (.readStatus 4 index) → index < 4 → s.RingLaw →
          ∃ body, exec .readStatusRing s = .next (s.answered sequence .finished body)
            ∧ RingAt body (((s.ring index).accesses.filter fun a => a.write && decide (a.record ∈ s.tracker.overrun)).length)
              (s.ring index))
      ∧ (s.inProgress sequence (.readStatus 5 index) →
          (∀ j ∈ s.keep.queue, j.segments.length ≤ 4 ∧ j.extents.length ≤ 4) →
          ∃ body, exec .readStatusKeepQueue s = .next (s.answered sequence .finished body)
            ∧ body.length = 1 + 112 * s.keep.queue.length ∧ (byteAt body 0).toNat = s.keep.queue.length % 256
            ∧ ∀ (m : Nat) (j : Job), s.keep.queue[m]? = some j →
                JobAt body (1 + 112 * m) (m == 0) (∃ k ∈ s.tracker.overrun, s.heldByJob k j) j)
      ∧ (s.inProgress sequence (.readStatus 6 index) →
          ∃ body, exec .readStatusOutcomeList s = .next (s.answered sequence .finished body)
            ∧ body.length = 1 + 16 * s.keep.outcomes.length ∧ (byteAt body 0).toNat = s.keep.outcomes.length % 256
            ∧ ∀ (m : Nat) (e : OutcomeEntry), s.keep.outcomes[m]? = some e → OutcomeAt body (1 + 16 * m) e)
      ∧ (s.inProgress sequence (.readStatus 8 index) →
          ∃ body, exec .readStatusProfileInUse s = .next (s.answered sequence .finished body) ∧ ProfileAt body s.line.profile)

/-- CLEAR ALERTS and MASK ALERTS (R171), in a state in which no internal step is due. -/
def Obligations.ClearAndMaskAlerts : Prop :=
  ∀ (sequence : Byte) (set : AlertSet) (s : State), internalStep s = none →
    (s.inProgress sequence (.clearAlerts set) → exec .clearAlerts s = .next
        (if set &&& 0x80#8 = 0#8 then
          { s with line := { s.line with latched := s.line.latched &&& ~~~set } }.answered sequence .finished
            [s.line.latched &&& ~~~set]
        else s.turnedAway sequence .badArgument))
      ∧ (s.inProgress sequence (.maskAlerts set) → exec .maskAlerts s = .next
          (if set &&& 0x80#8 = 0#8 then
            { s with line := { s.line with enabled := set } }.answered sequence .finished [set, s.line.latched]
          else s.turnedAway sequence .badArgument))

/-! ## The Retention Clock -/

/-- SET CLOCK, by the four lines of R159's table; and TRIM CLOCK, which clamps its value to 256 to 1023 and makes it the
increment (R158). -/
def Obligations.ClockRequests : Prop :=
  (∀ (sequence : Byte) (m : Nat) (s : State), s.inProgress sequence (.setClock m) →
      (s.clock.set = false → exec .setClock s = .next ((settle { s with clock := { s.clock with
          set := true, minute := m, seconds := 0, accumulator := 0 } }).answered sequence .finished (leBytes 4 m ++ [0x00#8])))
        ∧ (s.clock.set = true → m = s.clock.minute →
            exec .setClock s = .next ((settle s).answered sequence .finished (leBytes 4 m ++ [0x00#8])))
        ∧ (s.clock.set = true → s.clock.minute < m → ∃ u, exec .setClock s =
            .next ((settle u).answered sequence .finished
              (leBytes 4 m ++ [BitVec.ofNat 8 (s.keys.slots.toList.countP (Slot.overdue m))]))
            ∧ u.clock = { s.clock with minute := m, seconds := 0, accumulator := 0 }
            ∧ (∀ i < Config.slotCount, u.slot i = if (s.slot i).overdue m = true then (s.slot i).expire else s.slot i)
            ∧ u.line = { s.line with latched := s.line.latched |||
                if ∃ i < Config.slotCount, (s.slot i).overdue m = true then 0x02#8 else 0x00#8 }
            ∧ { u with clock := s.clock, keys := s.keys, line := s.line } = s
            ∧ { u.keys with slots := s.keys.slots } = s.keys)
        ∧ (s.clock.set = true → m < s.clock.minute →
            exec .setClock s = .next ((settle s).turnedAway sequence .clockBackward)))
    ∧ ∀ (sequence : Byte) (i v : Nat) (s : State), s.inProgress sequence (.trimClock i) →
      v = (if i < 256 then 256 else if 1023 < i then 1023 else i) →
      exec .trimClock s = .next ((settle { s with clock := { s.clock with increment := v } }).answered sequence .finished
        (leBytes 2 v))

/-- One cycle of the standby oscillator (R155, R156, R157, R33): below 2^24 the sum becomes the accumulator; a carry counts a
second; the sixtieth second takes a minute tick below saturation, and every Live slot whose deadline the new minute reaches
expires within it. While the clock is Unset no cycle is counted. That SECOND_COUNTED and MINUTE_TICK are the cycles that carry
and that tick, not counts of their own, is the model's choice (assumption log entry 33). -/
def Obligations.OscillatorCycles : Prop :=
  ∀ s : State,
    (s.clock.set = false → exec .oscillatorCycle s = .next s)
      ∧ (s.clock.set = true → s.clock.accumulator + s.clock.increment < 2 ^ 24 →
          exec .oscillatorCycle s =
            .next { s with clock := { s.clock with accumulator := s.clock.accumulator + s.clock.increment } })
      ∧ (s.clock.set = true → 2 ^ 24 ≤ s.clock.accumulator + s.clock.increment → s.clock.seconds < 59 →
          ∀ c ∈ [Instr.oscillatorCycle, .secondCounted], exec c s = .next { s with clock := { s.clock with
            accumulator := s.clock.accumulator + s.clock.increment - 2 ^ 24, seconds := s.clock.seconds + 1 } })
      ∧ (s.clock.set = true → 2 ^ 24 ≤ s.clock.accumulator + s.clock.increment → s.clock.seconds = 59 →
          s.clock.minute = 2 ^ 32 - 1 → ∀ c ∈ [Instr.oscillatorCycle, .secondCounted], exec c s = .next { s with clock :=
            { s.clock with accumulator := s.clock.accumulator + s.clock.increment - 2 ^ 24, seconds := 0 } })
      ∧ (s.clock.set = true → 2 ^ 24 ≤ s.clock.accumulator + s.clock.increment → s.clock.seconds = 59 →
          s.clock.minute < 2 ^ 32 - 1 → ∃ t, (∀ c ∈ [Instr.oscillatorCycle, .secondCounted, .minuteTick], exec c s = .next t)
            ∧ t.clock = { s.clock with
                accumulator := s.clock.accumulator + s.clock.increment - 2 ^ 24, seconds := 0, minute := s.clock.minute + 1 }
            ∧ (∀ i < Config.slotCount, t.slot i =
                if (s.slot i).overdue (s.clock.minute + 1) = true then (s.slot i).expire else s.slot i)
            ∧ t.line = { s.line with latched := s.line.latched |||
                if ∃ i < Config.slotCount, (s.slot i).overdue (s.clock.minute + 1) = true then 0x02#8 else 0x00#8 }
            ∧ { t with clock := s.clock, keys := s.keys, line := s.line } = s
            ∧ { t.keys with slots := s.keys.slots } = s.keys)

/-! ## The Key Table -/

/-- LOAD KEY: refused with the first reason of R29's table, else carried out under R30 in the lowest-numbered Empty slot. -/
def Obligations.LoadKey : Prop :=
  ∀ (sequence : Byte) (id : ProgId) (key : Key) (cls : Byte) (d : Option Nat) (s : State),
    s.inProgress sequence (.loadKey id key cls d) →
    (∀ why, s.loadKeyRefusal id cls d = some why → exec .loadKey s = .next ((settle s).turnedAway sequence why))
      ∧ (∀ i, s.loadKeyRefusal id cls d = none → s.lowestEmpty i → exec .loadKey s = .next
          ((settle { s with keys := { s.keys with
              slots := s.keys.slots.setIfInBounds i
                { content := .live id key (if cls = 0x00#8 then .keepAllowed else .keepNever) d
                  generation := (s.slot i).generation + 1#8 }
              missList := s.keys.missList.filter (· ≠ id) } }).answered sequence .finished
            [BitVec.ofNat 8 i, (s.slot i).generation + 1#8]))

/-- DROP KEY (R31), where the Key Table is a map: the slot that holds the id becomes Empty and keeps its generation. SET
DEADLINE (R32), likewise: refused with the first reason of the table, else the deadline is replaced, and one at or before the
current minute expires the slot within the request. -/
def Obligations.DropKeyAndSetDeadline : Prop :=
  (∀ (sequence : Byte) (id : ProgId) (s : State), s.KeyTableLaw → s.inProgress sequence (.dropKey id) →
      (id = 0#32 → exec .dropKey s = .next ((settle s).turnedAway sequence .badArgument))
        ∧ (id ≠ 0#32 → ¬ s.holds id → exec .dropKey s = .next ((settle s).turnedAway sequence .notFound))
        ∧ (∀ i < Config.slotCount, id ≠ 0#32 → (s.slot i).content.id? = some id → exec .dropKey s =
            .next ((settle (s.withSlot i { content := .empty, generation := (s.slot i).generation })).answered sequence .finished
              [BitVec.ofNat 8 i])))
    ∧ ∀ (sequence : Byte) (id : ProgId) (d : Option Nat) (s : State), s.KeyTableLaw →
      s.inProgress sequence (.setDeadline id d) →
      (id = 0#32 → exec .setDeadline s = .next ((settle s).turnedAway sequence .badArgument))
        ∧ (id ≠ 0#32 → ¬ s.holds id → exec .setDeadline s = .next ((settle s).turnedAway sequence .notFound))
        ∧ (∀ i < Config.slotCount, id ≠ 0#32 → ∀ cls e, (s.slot i).content = .expired id cls e →
            exec .setDeadline s = .next ((settle s).turnedAway sequence .expired))
        ∧ (∀ i < Config.slotCount, id ≠ 0#32 → ∀ key cls e, (s.slot i).content = .live id key cls e →
            (d ≠ none → s.clock.set = false → exec .setDeadline s = .next ((settle s).turnedAway sequence .clockUnset))
              ∧ (d = none ∨ (s.clock.set = true ∧ ∃ v, d = some v ∧ s.clock.minute < v) → exec .setDeadline s =
                  .next ((settle (s.withSlot i { content := .live id key cls d, generation := (s.slot i).generation })).answered
                    sequence .finished [0x01#8]))
              ∧ (∀ v, d = some v → s.clock.set = true → v ≤ s.clock.minute → exec .setDeadline s =
                  .next ((settle ((s.withSlot i { content := .expired id cls d, generation := (s.slot i).generation }).withLatched
                    0x02#8)).answered sequence .finished [0x02#8])))

/-! ## The Region Map -/

/-- PUT REGION (R18 to R21): refused with the first reason that applies; under Now, and under Boundary with an in-flight count
of 0, the definition becomes active and any staged change is discarded; under Boundary otherwise it is staged. FREE REGION
(R24): refused for an index outside the map or an entry of a Live ring; under Now, and under Boundary with a count of 0, the
entry becomes Vacant; under Boundary otherwise a vacate order is staged, unless there is nothing to vacate. -/
def Obligations.PutAndFreeRegion : Prop :=
  (∀ (sequence : Byte) (i : Nat) (boundary : Bool) (d : RawDefinition) (s : State) (v : Option LineReason),
      s.inProgress sequence (.putRegion i boundary d) → PutVerdict s i d v →
      exec (if boundary then .putRegionBoundary else .putRegionNow) s = .next
        (match v with
        | some why => (settle s).turnedAway sequence why
        | none =>
            if boundary = false ∨ (s.entry i).inFlight = 0 then
              (settle (s.withEntry i (some d.stored) none)).answered sequence .finished []
            else (settle (s.withEntry i (s.entry i).active (some (.define d.stored)))).answered sequence .staged []))
    ∧ ∀ (sequence : Byte) (i : Nat) (boundary : Bool) (s : State), s.inProgress sequence (.freeRegion i boundary) →
      ∃ u : State, exec (if boundary then .freeRegionBoundary else .freeRegionNow) s = .next u
        ∧ (64 ≤ i → u = (settle s).turnedAway sequence .badArgument)
        ∧ (i < 64 → s.ringLiveAt i → u = (settle s).turnedAway sequence .ringLive)
        ∧ (i < 64 → ¬ s.ringLiveAt i → boundary = false →
            u = (settle (s.withEntry i none none)).answered sequence .finished [])
        ∧ (i < 64 → ¬ s.ringLiveAt i → boundary = true → (s.entry i).active = none → (s.entry i).staged = none →
            u = (settle s).answered sequence .finished [])
        ∧ (i < 64 → ¬ s.ringLiveAt i → boundary = true → (s.entry i).active ≠ none ∨ (s.entry i).staged ≠ none →
            u = if (s.entry i).inFlight = 0 then (settle (s.withEntry i none none)).answered sequence .finished []
              else (settle (s.withEntry i (s.entry i).active (some .vacate))).answered sequence .staged [])

/-- The binding entry of a sector is the matching entry with the lowest index among those whose kind is not Overlay; Vacant
entries and pending definitions play no part (R4). A command is barred when one of its sectors has the bar of its direction (R5,
R12): of a bound sector, the bar of any matching entry or a Barred binding; of an unmapped one, the Bar policy or the bar of an
Overlay entry over it (R7). -/
def Obligations.BindingAndBars : Prop :=
  (∀ (s : State) (x i : Nat) (d : Definition), s.binding x = some (i, d) ↔
      (i < Config.regionCount ∧ (s.entry i).active = some d ∧ d.base ≤ x ∧ x < d.base + 2 ^ d.order ∧ d.kind ≠ .overlay
        ∧ ∀ j < i, ∀ e, (s.entry j).active = some e → e.base ≤ x → x < e.base + 2 ^ e.order → e.kind = .overlay))
    ∧ ∀ (s : State) (write : Bool) (x n : Nat), 0 < n →
      (s.barredRange write x n = true ↔ ∃ y, x ≤ y ∧ y < x + n ∧ s.sectorBarred write y)

/-- The class of a sector: unmapped sectors pass at their own LBA or are Barred, by the policy (R7); a Clear or Programme sector
stands at the target of its definition plus its place (R8); a Ring sector at PB plus its virtual offset modulo P, under the
latest epoch that starts at or below that offset, with no id below the floor and neither disk LBA nor id on an Idle ring (R10,
R48). The walk of R9: the runs of `[x, x + n)` follow one another without a gap from `x` to `x + n`, every sector of a run has
the run's binding entry, kind, programme id and epoch, two neighbouring runs differ in binding entry, kind or epoch, and a run
takes its disk LBA from its first sector and its wrap split point from R10. -/
def Obligations.SectorClassAndRuns : Prop :=
  (∀ (s : State) (y : Nat) (c : SectorClass), c = s.classOf y →
      (s.binding y = none → c.binding = none ∧ c.ring = none ∧ c.id = none ∧ c.epochStart = none
          ∧ (s.line.profile.unmapped = .pass → c.kind = .clear ∧ c.disk = some y)
          ∧ (s.line.profile.unmapped = .bar → c.kind = .barred ∧ c.disk = none))
        ∧ ∀ i d, s.binding y = some (i, d) → c.binding = some i
          ∧ (∀ t, d.kind = .clear t → c.kind = .clear ∧ c.id = none ∧ c.ring = none ∧ c.epochStart = none
              ∧ c.disk = some (t.getD d.base + (y - d.base)))
          ∧ (∀ t id, d.kind = .programme t id → c.kind = .programme ∧ c.id = some id ∧ c.ring = none ∧ c.epochStart = none
              ∧ c.disk = some (t.getD d.base + (y - d.base)))
          ∧ (d.kind = .barred → c.kind = .barred ∧ c.id = none ∧ c.ring = none ∧ c.epochStart = none ∧ c.disk = none)
          ∧ ∀ r, d.kind = .ring r → c.kind = .ring ∧ c.ring = some r ∧ c.virt = some (y - d.base)
            ∧ ((s.ring r).live = false → c.disk = none ∧ c.id = none ∧ c.epochStart = none)
            ∧ ((s.ring r).live = true → c.disk = some ((s.ring r).base + (y - d.base) % (s.ring r).span)
              ∧ (y - d.base < (s.ring r).floor → c.id = none ∧ c.epochStart = none)
              ∧ ((s.ring r).floor ≤ y - d.base → ∀ earlier e later, (s.ring r).epochs = earlier ++ e :: later →
                  e.start ≤ y - d.base → (∀ f ∈ later, y - d.base < f.start) → c.id = some e.id ∧ c.epochStart = some e.start)))
    ∧ ∀ (s : State) (x n : Nat), 0 < n →
      (∀ r ∈ s.classify x n, 0 < r.count ∧ x ≤ r.first ∧ r.first + r.count ≤ x + n ∧ r.capture = none
          ∧ r.disk = (s.classOf r.first).disk ∧ r.ring = (s.classOf r.first).ring ∧ r.virt = (s.classOf r.first).virt
          ∧ ∀ y, r.first ≤ y → y < r.first + r.count → (s.classOf y).binding = r.binding ∧ (s.classOf y).kind = r.kind
            ∧ (s.classOf y).id = r.id ∧ (s.classOf y).epochStart = r.epochStart)
        ∧ (s.classify x n).head?.map Run.first = some x
        ∧ ((s.classify x n).getLast?.map fun r => r.first + r.count) = some (x + n)
        ∧ (∀ (i : Nat) (r q : Run), (s.classify x n)[i]? = some r → (s.classify x n)[i + 1]? = some q →
            q.first = r.first + r.count ∧ (q.binding ≠ r.binding ∨ q.kind ≠ r.kind ∨ q.epochStart ≠ r.epochStart))
        ∧ ∀ (i : Nat) (r : Run), (s.classify x n)[i]? = some r →
            (r.ring = none ∨ r.disk = none → r.split = none)
              ∧ ∀ q v, r.ring = some q → r.virt = some v → r.disk ≠ none →
                ((s.ring q).span < v % (s.ring q).span + r.count → r.split = some ((s.ring q).span - v % (s.ring q).span))
                  ∧ (v % (s.ring q).span + r.count ≤ (s.ring q).span → r.split =
                      if v % (s.ring q).span = 0 ∧ 0 < i ∧ (s.classify x n)[i - 1]?.bind Run.ring = some q then some 0
                      else none)

/-! ## The Ring Unit -/

/-- SHAPE RING (R50): refused with the first reason of the table, else the base, span and trail are replaced. OPEN RING (R51):
refused with the first reason of the table, else the ring is Live with its offsets at 0, one epoch and an empty access list,
which its user count of 0 implies (R46, R63). -/
def Obligations.ShapeAndOpenRing : Prop :=
  (∀ (sequence : Byte) (r pb p w : Nat) (s : State), s.inProgress sequence (.shapeRing r pb p w) →
      exec .shapeRing s = .next (match s.shapeRefusal r pb p w with
        | some why => (settle s).turnedAway sequence why
        | none => (settle (s.withRing r { s.ring r with base := pb, span := p, trail := w })).answered sequence .finished []))
    ∧ ∀ (sequence : Byte) (r : Nat) (id : ProgId) (s : State), s.inProgress sequence (.openRing r id) →
      exec .openRing s = .next (match s.openRefusal r id with
        | some why => (settle s).turnedAway sequence why
        | none => (settle (s.withRing r { s.ring r with
            live := true, claim := 0, head := 0, floor := 0, epochs := [{ start := 0, id := id }], accesses := [] })).answered
              sequence .finished [])

/-- SWITCH RING (R52, R53): the newest epoch is renamed when it starts at the claim, else a new epoch joins at the claim, after
the oldest is cut from a full list, which is refused Full while its second epoch starts above the head. -/
def Obligations.SwitchRing : Prop :=
  ∀ (sequence : Byte) (r : Nat) (id : ProgId) (s : State), s.inProgress sequence (.switchRing r id) →
    (4 ≤ r ∨ id = 0#32 → exec .switchRing s = .next ((settle s).turnedAway sequence .badArgument))
      ∧ (r < 4 → id ≠ 0#32 → (s.ring r).live = false →
          exec .switchRing s = .next ((settle s).turnedAway sequence .ringIdle))
      ∧ (r < 4 → id ≠ 0#32 → (s.ring r).live = true → ∀ earlier newest,
          (s.ring r).epochs = earlier ++ [newest] → newest.start = (s.ring r).claim →
          exec .switchRing s = .next ((settle (s.withRing r { s.ring r with
              epochs := earlier ++ [{ start := (s.ring r).claim, id := id }] })).answered sequence .finished
            (leBytes 8 (s.ring r).claim ++ [BitVec.ofNat 8 (s.ring r).epochs.length])))
      ∧ (r < 4 → id ≠ 0#32 → (s.ring r).live = true → ∀ earlier newest,
          (s.ring r).epochs = earlier ++ [newest] → newest.start < (s.ring r).claim → (s.ring r).epochs.length < 4 →
          exec .switchRing s = .next ((settle (s.withRing r { s.ring r with
              epochs := (s.ring r).epochs ++ [{ start := (s.ring r).claim, id := id }] })).answered sequence .finished
            (leBytes 8 (s.ring r).claim ++ [BitVec.ofNat 8 ((s.ring r).epochs.length + 1)])))
      ∧ (r < 4 → id ≠ 0#32 → (s.ring r).live = true → ∀ oldest second third newest,
          (s.ring r).epochs = [oldest, second, third, newest] → newest.start < (s.ring r).claim →
          exec .switchRing s = .next
            (if (s.ring r).head < second.start then (settle s).turnedAway sequence .full
            else (settle ((s.withRing r { s.ring r with
                floor := second.start
                epochs := [second, third, newest, { start := (s.ring r).claim, id := id }] }).withLatched 0x08#8)).answered
              sequence .finished (leBytes 8 (s.ring r).claim ++ [0x04#8])))

/-- CLOSE RING (R54, R147, R149, R151): the ring becomes Idle with an empty epoch list, its offsets stay, and every job of the
ring is given Failed with RingStopped: a Queued one, and the Active one with no chunk in flight or Transforming, ends at once,
enters the Outcome List in queue order and latches KeepEnded; the Active one that reads or writes stays, otherwise unchanged, and
one that was stopping already keeps its first outcome. What the stop of the Active job gives up at once is said as well. -/
def Obligations.CloseRing : Prop :=
  ∀ (sequence : Byte) (r : Nat) (s : State), s.inProgress sequence (.closeRing r) → s.keep.Law →
    (4 ≤ r → exec .closeRing s = .next ((settle s).turnedAway sequence .badArgument))
      ∧ (r < 4 → (s.ring r).live = false → exec .closeRing s = .next ((settle s).turnedAway sequence .ringIdle))
      ∧ (r < 4 → (s.ring r).live = true → ∃ u ended, exec .closeRing s = .next ((settle u).answered sequence .finished [])
          ∧ (u.ring r).live = false ∧ (u.ring r).epochs = [] ∧ (u.ring r).claim = (s.ring r).claim
          ∧ (u.ring r).head = (s.ring r).head ∧ (u.ring r).floor = (s.ring r).floor
          ∧ (∀ q, q ≠ r → u.ring q = { s.ring q with users := (u.ring q).users })
          ∧ (∀ j ∈ u.keep.queue, j.ring = r → s.stopsAs (.failed .ringStopped) j)
          ∧ (∀ j ∈ s.keep.queue, j.ring ≠ r → j ∈ u.keep.queue)
          ∧ s.jobsEnded ended (.failed .ringStopped) 0x00#8 u
          ∧ (∀ j ∈ s.keep.queue, j ∈ ended ↔ j.ring = r ∧ s.stopsAtOnce j)
          ∧ (∀ j, s.keep.queue.head? = some j → j.ring = r → s.stopGivesUp u j)
          ∧ u.keys = s.keys ∧ u.clock = s.clock ∧ u.sys = s.sys)

/-- The tests of a read access (R57) and of a write access (R58) on a Live ring, in their order; the overwritten range of a
write of `[first, first + count)` on a span of P sectors is the range P lower, its part below 0 meeting nothing (R49). -/
def Obligations.RingAcceptanceTests : Prop :=
  (∀ span first count c d : Nat, overwrites span first count c d = true ↔
      ∃ o : Nat, c ≤ o ∧ o < d ∧ first ≤ o + span ∧ o + span < first + count)
    ∧ ∀ (q : Ring) (v n : Nat), q.live = true → 0 < n →
      (q.readFailure v n =
          if v < max q.floor (q.head - q.trail) then some .ringStale
          else if q.head < v + n then some .ringAhead
          else if ∃ a ∈ q.accesses, a.write = true ∧ a.issued = false ∧
            overwrites q.span a.first a.count v (v + n) = true then some .ringStale
          else none)
        ∧ (q.writeFailure v =
          if v < max q.floor (q.head - q.trail) then some .ringStale else if q.claim < v then some .ringGap else none)

/-! ## Start-up, resets, Lockdown and the links -/

/-- POWER_ON_RESET gives every block its power-on value (R172); the end of the load, or its timeout, puts the profile in force
and takes a waiting request up, and latches ProfileFault unless the result is Good (R173); a LOCKDOWN input seen during the load
is taken with it (R43). The model's choices: the profile and the increment before the load ends (assumption log entry 5), the
other reset values that the manual leaves open (entry 34), the model's own fields, which POWER_ON_RESET keeps (entry 39), and
that a load end outside Loading changes nothing (entry 11). -/
def Obligations.PowerOnAndLoad : Prop :=
  ∀ (r : ProfileRead) (c : Instr) (p : Profile) (s : State),
    c = .profileLoadEnd r ∧ p = profileOf r ∨ c = .profileLoadTimeout ∧ p = Profile.faultDefaults .absent →
    exec .powerOnReset s = .next { State.reset with wires := s.wires, fresh := s.fresh, pending := s.pending }
      ∧ (s.line.state ≠ .loading → exec c s = .next s)
      ∧ (s.line.state = .loading → s.keys.lockdownSeen = false → exec c s = .next (settle { s with
          clock := { s.clock with increment := p.increment }
          sys := { s.sys with loading := false }
          line := { s.line with
            profile := p, enabled := p.alertMask
            state := if s.line.request = none then .idle else .working
            latched := s.line.latched ||| if p.result = .good then 0x00#8 else 0x40#8 } }))
      ∧ (s.line.state = .loading → s.keys.lockdownSeen = true → ∃ u, exec c s = .next (settle u)
          ∧ u.keys.lockdown = true ∧ u.keys.lockdownSeen = false ∧ u.line.profile = p
          ∧ (∀ i < Config.slotCount, (u.slot i).content = .empty) ∧ u.sys.loading = false)

/-- The load result (R172) and the values in force (R173), each field of a Good image read at its offset of Table 10-4: a value
out of range is replaced by the middle column of the table and marked, and a load that is not Good puts the fault defaults in
force with every mark. A read that did not give 64 bytes is Absent (the model's reading: assumption log entry 40). -/
def Obligations.ProfileInRange : Prop :=
  profileOf .noAcknowledge =
      { partTags := 4, unmapped := .pass, arbiter := .alternate, holdLimit := 32, keyWaitMs := 200, overrunMs := 400, gate := 4,
        increment := 512, alertMask := 0x7F#8, marks := 0x1FF#16, result := .absent }
    ∧ (∀ image : List Byte, image.length ≠ 64 → profileOf (.bytes image) = profileOf .noAcknowledge)
    ∧ ∀ (image : List Byte) (p : Profile) (m : Nat → Nat), image.length = 64 → p = profileOf (.bytes image) →
      (∀ i, m i = (byteAt image i).toNat) →
      (¬ ((image.map BitVec.toNat).sum % 256 = 0 ∧ m 0 = 1) → p = { profileOf .noAcknowledge with result := .faulty })
        ∧ ((image.map BitVec.toNat).sum % 256 = 0 → m 0 = 1 → p.result = .good
          ∧ p.partTags = (if 2 ≤ m 1 ∧ m 1 ≤ 8 then m 1 else 4) ∧ p.marks.getLsbD 0 = decide (¬ (2 ≤ m 1 ∧ m 1 ≤ 8))
          ∧ p.unmapped = (if m 2 = 1 then .bar else .pass) ∧ p.marks.getLsbD 1 = decide (1 < m 2)
          ∧ p.arbiter = (if m 3 = 0 then .fixed else .alternate) ∧ p.marks.getLsbD 2 = decide (1 < m 3)
          ∧ p.holdLimit = (if m 4 < 8 then 8 else m 4) ∧ p.marks.getLsbD 3 = decide (m 4 < 8)
          ∧ p.keyWaitMs = [50, 200, 800, 3200].getD (m 5) 200 ∧ p.marks.getLsbD 4 = decide (3 < m 5)
          ∧ p.overrunMs = [100, 400, 1600, 6400].getD (m 6) 400 ∧ p.marks.getLsbD 5 = decide (3 < m 6)
          ∧ p.gate = (if 8 < m 7 then 8 else m 7) ∧ p.marks.getLsbD 6 = decide (8 < m 7)
          ∧ p.increment = (if m 8 + 256 * m 9 < 256 then 256 else if 1023 < m 8 + 256 * m 9 then 1023 else m 8 + 256 * m 9)
          ∧ p.marks.getLsbD 7 = decide (¬ (256 ≤ m 8 + 256 * m 9 ∧ m 8 + 256 * m 9 ≤ 1023))
          ∧ p.alertMask.toNat = (if m 10 < 128 then m 10 else 127) ∧ p.marks.getLsbD 8 = decide (128 ≤ m 10)
          ∧ ∀ i, 9 ≤ i → p.marks.getLsbD i = false)

/-- A line reset (R89), by the reset tables of R3, R45, R72, R90, R93, R130 and R153: both ports Down, no command, hold, job,
outcome, buffer or downstream tag left; the acceptance order and the arbiter's streaks and last side begun anew; the map's
definitions, the keys, the ring offsets, the clock and the line stay. While the input stays asserted nothing more happens. The
model's choices: the pin as two events, the deassertion clearing one bit and leaving the bring-up of the link to its own row
(assumption log entry 32), and no command served last (entry 34). -/
def Obligations.LineReset : Prop :=
  ∀ s : State,
    (s.resetAsserted = true → exec .resetAsserted s = .next s)
      ∧ exec .resetDeasserted s = .next { s with resetAsserted := false }
      ∧ (s.resetAsserted = false → ∃ u, exec .resetAsserted s = .next (settle u) ∧ u.resetAsserted = true
          ∧ (∀ i < Config.regionCount, u.entry i = { s.entry i with inFlight := 0 }) ∧ u.regions.drain = []
          ∧ u.keys = { s.keys with missList := [] }
          ∧ (∀ r < Config.ringCount, u.ring r = { s.ring r with accesses := [], users := 0 })
          ∧ u.tracker = { records := [], nextOrder := 0, keyWait := [], ringOrder := [], overrun := [], tagWait := [] }
          ∧ u.sys = { s.sys with link := .down, sendOrder := [], lastServed := none }
          ∧ u.drive.link = .down ∧ u.drive.issueOrder = [] ∧ u.drive.outstanding = [] ∧ u.drive.inbox = []
          ∧ u.drive.sending = none
          ∧ (∀ t < Config.tagCount, u.tagUser t = none)
          ∧ (∀ i < Config.bufferCount, (u.buffer i).state = .free) ∧ u.engine.readQ = [] ∧ u.engine.writeQ = []
          ∧ u.engine.keepQ = [] ∧ (∀ g, u.engine.grant = some g → g.buffer = none)
          ∧ u.engine.readStreak = 0 ∧ u.engine.keepStreak = 0 ∧ u.engine.lastSide = .writeSide
          ∧ u.keep = { s.keep with queue := [], outcomes := [], request := none, chunk := none }
          ∧ u.clock = s.clock ∧ u.line = s.line ∧ u.wires = s.wires)

/-- A link reset, and the loss of the upstream link (R73, R88): every host command is abandoned with no completion, the keep
chunk is dropped, their buffers released, their tags freed and the in-flight and user counts they took given up, and a link
reset goes downstream unless the Drive Port is Down; keys, definitions and ring offsets stay. The job of the dropped chunk ends
with its stop outcome, ends Truncated at its cursor where its end was lowered to the chunk's, and otherwise stays Active to
start the chunk anew (R152). The model's choices: on a System Port that is Down nothing changes at the loss of its link either
(assumption log entry 11; for the reset see R89), and no command stands served last (entry 34). -/
def Obligations.LinkResets : Prop :=
  ∀ (c : Instr) (l : SysLink) (s : State), (c, l) ∈ [(Instr.linkReset, SysLink.notReady), (.upstreamLinkLost, .down)] →
    s.keep.Law →
    (s.sys.link = .down → exec c s = .next s)
      ∧ (s.sys.link ≠ .down → ∃ u, exec c s = .next (settle u)
          ∧ u.tracker.records = [] ∧ u.tracker.keyWait = [] ∧ u.tracker.ringOrder = [] ∧ u.tracker.overrun = []
          ∧ u.tracker.tagWait = [] ∧ u.regions.drain = [] ∧ u.keys = { s.keys with missList := [] }
          ∧ u.sys = { s.sys with link := l, sendOrder := [], lastServed := none }
          ∧ (∀ r < Config.ringCount, u.ring r = { s.ring r with accesses := [], users := (u.ring r).users })
          ∧ (∀ i < Config.regionCount, u.entry i = { s.entry i with
              inFlight := (s.entry i).inFlight - ((s.tracker.records.map fun x => x.counted.count i).sum
                + s.keep.chunk.elim 0 fun k => k.counted.count i) })
          ∧ (∀ r < Config.ringCount, (u.ring r).users = (s.ring r).users
              - ((s.tracker.records.map fun x => x.rings.count r).sum
                + s.keep.chunk.elim 0 fun _ => if s.keep.queue.head?.map Job.ring = some r then 1 else 0))
          ∧ (∀ x ∈ s.tracker.records, s.released u (.record x.key))
          ∧ (∀ k, s.keep.chunk = some k → u.tagUser k.tag = none ∧ s.released u .keep)
          ∧ u.keep.chunk = none ∧ (∀ x ∈ u.drive.issueOrder ++ u.drive.outstanding, x.user = .keep ∧ s.keep.chunk = none)
          ∧ (∀ t k, u.tagUser t ≠ some (.hostFirst k) ∧ u.tagUser t ≠ some (.hostSecond k))
          ∧ u.drive.link = (if s.drive.link = .down then .down else .starting)
          ∧ u.wires.down = s.wires.down ++ (if s.drive.link = .down then [] else [.linkReset])
          ∧ u.wires.up = s.wires.up ∧ u.clock = s.clock ∧ u.line = { s.line with latched := u.line.latched }
          ∧ (s.keep.chunk = none → u.keep = s.keep)
          ∧ ∀ j rest k, s.keep.queue = j :: rest → s.keep.chunk = some k →
              (∀ o, j.stopOutcome = some o → s.jobsEnded [j] o 0x00#8 u ∧ u.keep.queue = rest)
                ∧ (j.stopOutcome = none → j.phase ≠ .reading → j.upto ≠ j.acceptedUpto → j.upto = j.cursor + k.count →
                    s.jobsEnded [j] .truncated 0x00#8 u ∧ u.keep.queue = rest)
                ∧ (j.stopOutcome = none → j.phase = .reading ∨ j.upto = j.acceptedUpto ∨ j.upto ≠ j.cursor + k.count →
                    u.keep = { s.keep with queue := { j with phase := .idle } :: rest, chunk := none } ∧ u.line = s.line))

/-- The LOCKDOWN input (R43, R55, R147, R149, R151): every slot becomes Empty and keeps its generation, every command in KeyWait
is refused Locked in the order of its entry, every Live ring becomes Idle with an empty epoch list and keeps its offsets, and
every keep job is given Failed with Lockdown: a Queued one, and the Active one with no chunk in flight or Transforming, ends at
once and enters the Outcome List in queue order; the Active one that reads or writes stays, otherwise unchanged, and one that was
stopping already keeps its first outcome. During the load it is noted; with the flag set it does nothing (R44). -/
def Obligations.EntersLockdown : Prop :=
  ∀ s : State, s.keep.Law →
    (s.line.state = .loading → exec .lockdown s = .next { s with keys := { s.keys with lockdownSeen := true } })
      ∧ (s.line.state ≠ .loading → s.keys.lockdown = true → exec .lockdown s = .next s)
      ∧ (s.line.state ≠ .loading → s.keys.lockdown = false → ∃ u ended, exec .lockdown s = .next (settle u)
          ∧ (∀ i < Config.slotCount, u.slot i = { content := .empty, generation := (s.slot i).generation })
          ∧ u.keys.missList = [] ∧ u.keys.lockdown = true
          ∧ (∀ r < Config.ringCount, u.ring r = { s.ring r with
              live := false, epochs := if (s.ring r).live = true then [] else (s.ring r).epochs, users := (u.ring r).users })
          ∧ u.tracker.keyWait = [] ∧ u.sys = { s.sys with sendOrder := s.sys.sendOrder ++ s.tracker.keyWait.map .record }
          ∧ (∀ k ∈ s.tracker.keyWait, ∀ x, u.record? k = some x → x.state = .due ∧ x.outcome = some (.refused .locked))
          ∧ (∀ j ∈ u.keep.queue, s.stopsAs (.failed .lockdown) j) ∧ s.jobsEnded ended (.failed .lockdown) 0x10#8 u
          ∧ (∀ j ∈ s.keep.queue, j ∈ ended ↔ s.stopsAtOnce j) ∧ (∀ j, s.keep.queue.head? = some j → s.stopGivesUp u j)
          ∧ u.clock = s.clock)

/-- The link states (R73, R74, R83, R86): the upstream link is established, the System Port becomes Ready and passes the disk's
signature on, the downstream link comes up, the disk is ready; and the disk is lost, by its link or by its own reset, which
ends every outstanding downstream command as an error at its first sector not yet passed (at its first, where all have passed:
assumption log entry 50), with a free error byte (entry 2: the manual gives none), and leaves the System Port and the waiting
commands as they are. The data of the failed parts goes as at every error (R103, R104, R106, R129), the tags of the ended
commands are free and the others stay with their users (the model's reading: entry 27), and the keep chunk's command ends with
an error (R86, R143 to R145, R147, R151). -/
def Obligations.LinkStates : Prop :=
  ∀ (signature : List Byte) (s : State),
    (s.sys.link = .down → s.resetAsserted = false →
        exec .upstreamLinkEstablished s = .next (settle { s with sys := { s.sys with link := .notReady } }))
      ∧ (s.sys.link = .notReady → s.sys.loading = false → s.drive.link = .ready →
          exec .systemPortReady s = .next (settle { s with
            sys := { s.sys with link := .ready }
            wires := { s.wires with up := s.wires.up ++ [.signature s.drive.signature] } }))
      ∧ (s.drive.link = .down → s.resetAsserted = false →
          exec .downstreamLinkUp s = .next (settle { s with drive := { s.drive with link := .starting } }))
      ∧ (s.drive.link = .starting → exec (.diskReadySignature signature) s =
          .next (settle { s with drive := { s.drive with link := .ready, signature := signature } }))
      ∧ ∀ c l, (c = Instr.downstreamLinkLost ∧ l = DriveLink.down ∧ s.drive.link ≠ .down)
          ∨ (c = .diskSelfReset ∧ l = .starting ∧ (s.drive.link = .ready ∨ ∃ d, s.drive.link = .asleep d)) →
        ∃ u, exec c s = .next (settle u) ∧ u.drive.link = l ∧ u.drive.outstanding = [] ∧ u.drive.inbox = []
          ∧ u.drive.issueOrder = s.drive.issueOrder ∧ u.sys = s.sys ∧ u.keys = s.keys ∧ u.clock = s.clock
          ∧ u.wires = s.wires
          ∧ (∀ o ∈ s.drive.outstanding, ∀ k x, (o.user = .hostFirst k ∨ o.user = .hostSecond k) → s.record? k = some x →
              (∀ p ∈ s.drive.outstanding, p.user = o.user → p = o) →
              ∃ y m, u.record? k = some y ∧ y.state = x.state
                ∧ (if o.user = .hostFirst k then y.part1 else y.part2) =
                    .error (if o.passed < o.count then o.host + o.passed else o.host) (Config.missingErrorByte m))
          ∧ (∀ k x y parts, s.record? k = some x → u.record? k = some y → s.partsAtDisk k parts →
              (s.drive.outstanding.map DownCmd.user).Nodup → (false ∈ parts → x.part1 = .outstanding) →
              (true ∈ parts → x.part2 = .outstanding) →
              (parts ≠ [] → s.partsFail u parts x y)
                ∧ (parts = [] → y = x ∧ ∀ i < Config.bufferCount, (s.buffer i).owner = .record k → u.buffer i = s.buffer i))
          ∧ (∀ o ∈ s.drive.outstanding, o.user ≠ .keep → ∀ t < Config.tagCount, o.tag = some t → u.tagUser t = none)
          ∧ (∀ t < Config.tagCount, (∀ o ∈ s.drive.outstanding, o.tag ≠ some t) → (∀ k, s.keep.chunk = some k → k.tag ≠ t) →
              (∀ x ∈ s.tracker.records, x.part2 = .notIssued → ∀ p, x.split = some p → p.tag ≠ some t) →
              u.tagUser t = s.tagUser t)
          ∧ ∀ o j rest k, o ∈ s.drive.outstanding → o.user = .keep → o.op = .read ∨ o.op = .write →
              (s.drive.outstanding.map DownCmd.user).Nodup → s.keep.Law → s.keep.queue = j :: rest → s.keep.chunk = some k →
              s.keepCommandEnds u (decide (o.op = .read)) false j rest k

/-! ## Arrivals -/

/-- A command that an arrival check refuses gets a completion and no record; in NotReady its frame is rejected at the link level
(R74, R76, R77). That the completion joins the tail of the send order is the model's reading (assumption log entry 21: R76 only
says that the System Port sends it). -/
def Obligations.ArrivalRefused : Prop :=
  ∀ (c : Instr) (a : Arrival) (s : State), arrivalOf c = some a →
    (∀ why, s.sys.link = .ready → ArrivalVerdict s a (some why) → exec c s = .next (settle { s with
        keep := { s.keep with gateOpen := false }
        sys := { s.sys with sendOrder := s.sys.sendOrder ++ [.arrival a.tag why] } }))
      ∧ (s.sys.link = .notReady →
          exec c s = .next { s with wires := { s.wires with up := s.wires.up ++ [.frameRejected] } })

/-- A command that passes the arrival checks gets a record with the next acceptance number and leaves Classify within the event,
held, issued or Due; every other record stays as it is, and the idle gate closes (R76, R92, R94, R138). -/
def Obligations.ArrivalAccepted : Prop :=
  ∀ (c : Instr) (a : Arrival) (s : State), arrivalOf c = some a → s.sys.link = .ready → ArrivalVerdict s a none →
    ∃ u x, exec c s = .next (settle u)
      ∧ u.tracker.records.map Record.key = s.tracker.records.map Record.key ++ [a.key]
      ∧ u.tracker.nextOrder = s.tracker.nextOrder + 1 ∧ u.keep.gateOpen = false
      ∧ (∀ q, q ≠ a.key → u.record? q = s.record? q)
      ∧ u.record? a.key = some x ∧ x.kind = a.kind ∧ x.host = a.host ∧ x.count = a.count ∧ x.frame = a.frame
      ∧ x.order = s.tracker.nextOrder ∧ x.state ≠ .classify
      ∧ (x.state = .due → u.sys.sendOrder = s.sys.sendOrder ++ [.record a.key])
      ∧ (x.state ≠ .due → u.sys.sendOrder = s.sys.sendOrder)

/-- A command that no entry, ring, keep job or chunk concerns, with Pass for unmapped sectors, is issued within its arrival: it
goes to the Drive Port's issue order at its own LBA and length, on its own tag or non-queued (R7, R94, R101). A low-power
request that the disk declined may then be made again, one that it has yet to answer stands (R85; the model's reading:
assumption log entry 25). -/
def Obligations.PlainCommandIssued : Prop :=
  ∀ (c : Instr) (a : Arrival) (s : State), arrivalOf c = some a → s.sys.link = .ready → ArrivalVerdict s a none →
    s.line.profile.unmapped = .pass → s.keep.queue = [] → s.keep.chunk = none →
    (∀ i < Config.regionCount, (s.entry i).active = none) →
    (∀ r < Config.ringCount, (s.ring r).span = 0 ∧ (s.ring r).accesses = []) →
    ∃ u x, exec c s = .next (settle u)
      ∧ u.record? a.key = some x ∧ x.state = .issued ∧ x.part1 = .outstanding ∧ x.split = none
      ∧ u.drive.issueOrder = s.drive.issueOrder ++ [freshCommand a.tag (.hostFirst a.key)
          a.kind.downOp a.host a.count a.host a.frame]
      ∧ u.drive.lowPower = (if s.drive.lowPower = .declined then .idle else s.drive.lowPower)
      ∧ (∀ t, a.tag = some t → u.tagUser t = some (.hostFirst a.key)) ∧ u.sys.sendOrder = s.sys.sendOrder
      ∧ u.regions = s.regions ∧ u.rings = s.rings ∧ u.keys = s.keys

/-- The classification of an arriving data command that is not drained (R6, R8, R9, R11 to R14, R16, R46, R96): it is refused
with the first of the five tests that fails, and then counts nothing; else its record takes the runs of the walk, the
downstream image and the split at the wrap, one in-flight count is taken of every entry that a sector matches, and one user
count of every Live ring that a sector is bound to. One that is issued within its arrival has an image and hands over a command
for the image's first range, its disk LBA and its count; any other hands nothing over (R101). -/
def Obligations.ArrivalClassified : Prop :=
  ∀ (c : Instr) (a : Arrival) (s : State) (v : Option HostReason), arrivalOf c = some a → s.sys.link = .ready →
    ArrivalVerdict s a none → a.kind.isData = true → a.count ≤ 65536 → s.RingLaw → ¬ s.drains a.host a.count →
    FirstReason (s.classifyTable a.kind.isWrite a.host a.count) v →
    ∃ u x, exec c s = .next (settle u) ∧ u.record? a.key = some x
      ∧ (∀ why, v = some why → x.state = .due ∧ x.outcome = some (.refused why) ∧ x.counted = [] ∧ x.rings = []
          ∧ u.regions = s.regions ∧ u.rings = s.rings ∧ u.keys = s.keys)
      ∧ (v = none → x.runs.map Run.uncaptured = s.classify a.host a.count
          ∧ ImageOf s a.host a.count x.image (untagged x.split)
          ∧ x.counted.Nodup ∧ (∀ i, i ∈ x.counted ↔ i < Config.regionCount ∧ s.matches i a.host a.count)
          ∧ (∀ i < Config.regionCount, ∃ n, u.entry i = { s.entry i with inFlight := (s.entry i).inFlight + n }
              ∧ (s.matches i a.host a.count → n = 1) ∧ (¬ s.matches i a.host a.count → n = 0))
          ∧ x.rings.Nodup
          ∧ (∀ r, r ∈ x.rings ↔ ∃ y, a.host ≤ y ∧ y < a.host + a.count ∧ (s.classOf y).ring = some r
              ∧ (s.classOf y).disk ≠ none)
          ∧ (∀ r < Config.ringCount, (u.ring r).users = (s.ring r).users + if r ∈ x.rings then 1 else 0)
          ∧ (x.state = .issued → x.image ≠ none))
      ∧ s.issuedAs u x

/-- The Drain check and the key lookup of an arriving data command. While a sector lies in the active range of a staged entry it
is held in Drain, last in the list, with no runs and no counts (R23). Else, classified without a refusal, it is refused Expired
or Locked with no capture kept; or, missing ids, it is refused NoKey where the Miss List has no room for the new ones, or waits
in KeyWait under the profile's timer, the new ids at the end of the Miss List, in the order of their first appearance, and
KeyMiss latched if there are any; or, every id being Live, each protected run captures its slot and generation (R35, R36, R38).
-/
def Obligations.ArrivalLookedUp : Prop :=
  ∀ (c : Instr) (a : Arrival) (s : State), arrivalOf c = some a → s.sys.link = .ready → ArrivalVerdict s a none →
    a.kind.isData = true → a.count ≤ 65536 → s.RingLaw → s.KeyTableLaw → a.key ∉ s.tracker.keyWait →
    ∃ u x, exec c s = .next (settle u) ∧ u.record? a.key = some x
      ∧ (s.drains a.host a.count → x.state = .drain ∧ x.runs = [] ∧ x.counted = [] ∧ x.timer = none
          ∧ u.regions = { s.regions with drain := s.regions.drain ++ [a.key] } ∧ u.rings = s.rings ∧ u.keys = s.keys)
      ∧ (¬ s.drains a.host a.count → FirstReason (s.classifyTable a.kind.isWrite a.host a.count) none →
          ((∃ id, s.needs a.host a.count id ∧ s.expiredId id) →
              x.state = .due ∧ x.outcome = some (.refused .expired) ∧ (∀ r ∈ x.runs, r.capture = none) ∧ u.keys = s.keys
                ∧ u.line = s.line)
            ∧ ((∀ id, s.needs a.host a.count id → ¬ s.expiredId id) →
                (∃ id, s.needs a.host a.count id ∧ ¬ s.holds id) →
                (s.keys.lockdown = true → x.state = .due ∧ x.outcome = some (.refused .locked)
                    ∧ (∀ r ∈ x.runs, r.capture = none) ∧ u.keys = s.keys ∧ u.line = s.line)
                  ∧ ∀ new, s.keys.lockdown = false → s.newIds a.host a.count new →
                    (4 - s.keys.missList.length < new.length →
                        x.state = .due ∧ x.outcome = some (.refused .noKey) ∧ u.keys = s.keys ∧ u.line = s.line)
                      ∧ (new.length ≤ 4 - s.keys.missList.length →
                        x.state = .keyWait ∧ x.timer = some (.keyWait s.line.profile.keyWaitMs)
                          ∧ u.tracker.keyWait = s.tracker.keyWait ++ [a.key]
                          ∧ (∀ id, id ∈ x.awaited ↔ s.needs a.host a.count id ∧ ¬ s.holds id)
                          ∧ u.keys = { s.keys with missList := s.keys.missList ++ new }
                          ∧ u.line = { s.line with latched := s.line.latched ||| if new = [] then 0x00#8 else 0x01#8 }))
            ∧ ((∀ id, s.needs a.host a.count id → ∃ p, s.liveAs id p) →
                x.state ≠ .drain ∧ x.state ≠ .keyWait ∧ x.state ≠ .classify ∧ u.keys = s.keys ∧ u.line = s.line
                  ∧ ∀ r ∈ x.runs, ∀ id p, r.protectedId = some id → s.liveAs id p → r.capture = some p))

/-- Ring acceptance and the ordering guards of an arriving data command whose keys are all Live (R56 to R61, R63 to R65, R67,
R69): the first access that fails refuses it, no claim moving; else every access joins its ring's list and a write's claim
moves. It waits in RingOrder for the accesses on the list that it conflicts with; else, a write that a job has yet to copy from
under is held in Overrun; else it goes on, and at its issue the head of its rings rises and epochs below the window are
dropped. Where runs of an Idle ring stand between two runs of a Live one, its access is taken as the sum of its own runs from
its first offset on (the model's choice: assumption log entry 51). -/
def Obligations.RingAcceptedAndOrdered : Prop :=
  ∀ (c : Instr) (a : Arrival) (s : State) (v : Option HostReason), arrivalOf c = some a → s.sys.link = .ready →
    ArrivalVerdict s a none → a.kind.isData = true → a.count ≤ 65536 → s.RingLaw → s.KeyTableLaw → ¬ s.drains a.host a.count →
    FirstReason (s.classifyTable a.kind.isWrite a.host a.count) none →
    (∀ id, s.needs a.host a.count id → ∃ p, s.liveAs id p) → AcceptVerdict s a.kind.isWrite a.host a.count v →
    ∃ u x, exec c s = .next (settle u) ∧ u.record? a.key = some x
      ∧ (∀ why, v = some why → x.state = .due ∧ x.outcome = some (.refused why)
          ∧ ∀ r < Config.ringCount, u.ring r = { s.ring r with users := (u.ring r).users })
      ∧ (v = none →
          (∀ r < Config.ringCount, ∃ q : Ring,
              (∀ y w m, s.accessOf a.host a.count r y w m → q = { s.ring r with
                  users := (u.ring r).users
                  claim := if a.kind.isWrite then max (s.ring r).claim (w + m) else (s.ring r).claim
                  accesses := (s.ring r).accesses ++
                    [{ record := a.key, write := a.kind.isWrite, first := w, count := m, issued := false }] })
                ∧ ((∀ y w m, ¬ s.accessOf a.host a.count r y w m) → q = { s.ring r with users := (u.ring r).users })
                ∧ (x.state = .issued → q.issuedBy a.key (u.ring r)) ∧ (x.state ≠ .issued → u.ring r = q))
            ∧ (x.state = .ringOrder ↔ ∃ r < Config.ringCount, ∃ y w m, s.accessOf a.host a.count r y w m
                ∧ ∃ o ∈ (s.ring r).accesses, mustWait a.kind.isWrite (s.ring r).span w m o)
            ∧ (x.state = .ringOrder → u.tracker.ringOrder = s.tracker.ringOrder.filter (· ≠ a.key) ++ [a.key]
                ∧ ∀ k, k ∈ x.waitsFor ↔ ∃ r < Config.ringCount, ∃ y w m, s.accessOf a.host a.count r y w m
                  ∧ ∃ o ∈ (s.ring r).accesses, o.record = k ∧ mustWait a.kind.isWrite (s.ring r).span w m o)
            ∧ (x.state ≠ .ringOrder → (x.state = .overrun ↔ a.kind.isWrite = true ∧ ∃ j ∈ s.keep.queue, ∃ y w m,
                s.accessOf a.host a.count j.ring y w m
                  ∧ overwritten (s.ring j.ring).span w m j.cursor (j.upto - j.cursor)))
            ∧ (x.state = .overrun → x.timer = some (.overrun s.line.profile.overrunMs)
                ∧ u.tracker.overrun = s.tracker.overrun.filter (· ≠ a.key) ++ [a.key])
            ∧ x.state ∈ [.ringOrder, .overrun, .tagWait, .soleWait, .issued])

/-! ## Holds and their releases -/

/-- A pending definition is applied when the entry's count is 0, whole: a definition becomes active, a vacate order makes the
entry Vacant; a drained command whose range meets no staged entry leaves the Drain list and is classified under the map as it
stands then, its image taken from it (R22, R23, R96), and, where it is issued, hands over a command for the first range of that
image (R101). -/
def Obligations.RegionHolds : Prop :=
  ∀ (i : Nat) (k : RecordKey) (x : Record) (s : State),
    (∀ d, i < Config.regionCount → (s.entry i).inFlight = 0 → (s.entry i).staged = some (.define d) →
        exec (.pendingDefinitionApplied i) s = .next (settle (s.withEntry i (some d) none)))
      ∧ (i < Config.regionCount → (s.entry i).inFlight = 0 → (s.entry i).staged = some .vacate →
          exec (.pendingDefinitionApplied i) s = .next (settle (s.withEntry i none none)))
      ∧ (s.record? k = some x → k ∈ s.regions.drain →
          (∀ j < Config.regionCount, ∀ d, (s.entry j).staged ≠ none → (s.entry j).active = some d →
            ¬ shareSector d.base (2 ^ d.order) x.host x.count) →
          ∃ u y, exec (.drainRelease k) s = .next (settle u) ∧ u.regions.drain = s.regions.drain.filter (· ≠ k)
            ∧ u.record? k = some y ∧ y.state ≠ .drain ∧ y.state ≠ .classify
            ∧ (y.state ≠ .due → y.runs.map (fun r => { r with capture := none }) = s.classify x.host x.count)
            ∧ (y.state = .due → u.sys.sendOrder = s.sys.sendOrder ++ [.record k])
            ∧ y.key = x.key ∧ y.kind = x.kind ∧ y.host = x.host ∧ y.count = x.count ∧ y.frame = x.frame
            ∧ s.issuedAs u y
            ∧ (x.kind.isData = true → 0 < x.count → x.count ≤ 65536 → s.RingLaw →
                (y.state ≠ .due → ImageOf s x.host x.count y.image (untagged y.split))
                  ∧ (y.state = .issued → y.image ≠ none)))

/-- KeyWait (R38 to R40): when the timer expires the command is Due, refused NoKey, and of the ids it waited for those that no
other command waits for leave the Miss List; the re-check repeats the lookup of every id: an Expired one refuses the command,
missing ones of the Miss List keep it waiting under the same timer; missing ones that are not on the Miss List join it in the
order of their first appearance, KeyMiss latched, or, where it has no room for them, the command is refused NoKey (R36); and
with every id Live it leaves KeyWait with the slots it found captured, and, where it is issued, hands over a command for the
first range of its image (R101). -/
def Obligations.KeyWaitEnds : Prop :=
  ∀ (k : RecordKey) (x : Record) (s : State), s.record? k = some x → k ∈ s.tracker.keyWait →
    (∃ u y, exec (.keywaitTimerExpiry k) s = .next (settle u) ∧ u.record? k = some y ∧ y.state = .due
        ∧ y.outcome = some (.refused .noKey) ∧ u.sys.sendOrder = s.sys.sendOrder ++ [.record k]
        ∧ u.tracker.keyWait = s.tracker.keyWait.filter (· ≠ k)
        ∧ (∀ id, id ∈ u.keys.missList ↔ id ∈ s.keys.missList ∧
            (id ∉ x.awaited ∨ ∃ z ∈ u.tracker.records, z.state = .keyWait ∧ id ∈ z.awaited)))
      ∧ ((∃ id ∈ x.awaited, s.holds id) →
          ∃ u y, exec (.keywaitRecheck k) s = .next (settle u) ∧ u.record? k = some y
            ∧ ((∃ id ∈ protectedIds x.runs, s.lookup id = .expired) →
                y.state = .due ∧ y.outcome = some (.refused .expired) ∧ k ∉ u.tracker.keyWait)
            ∧ s.goesOn u x y
            ∧ ((∀ id ∈ protectedIds x.runs, ∃ c, s.lookup id = .captured c) →
                y.state ≠ .keyWait ∧ y.state ≠ .classify ∧ k ∉ u.tracker.keyWait ∧ y.awaited = []
                  ∧ ∀ r ∈ y.runs, ∀ id, r.protectedId = some id → ∃ c, r.capture = some c ∧ s.lookup id = .captured c)
            ∧ (∀ id, id ∈ protectedIds x.runs → s.lookup id = .miss → s.keys.lockdown = false →
                (∀ q ∈ protectedIds x.runs, s.lookup q ≠ .expired) →
                (∀ q ∈ protectedIds x.runs, s.lookup q = .miss → q ∈ s.keys.missList) →
                y.state = .keyWait ∧ u.tracker.keyWait = s.tracker.keyWait ∧ u.keys = s.keys
                  ∧ (x.timer ≠ none → y.timer = x.timer) ∧ ∀ q, q ∈ y.awaited ↔ q ∈ protectedIds x.runs ∧ s.lookup q = .miss)
            ∧ ∀ new, new = ((protectedIds x.runs).filter fun id => decide (s.lookup id = .miss ∧ id ∉ s.keys.missList)) →
                new ≠ [] → s.keys.lockdown = false → (∀ q ∈ protectedIds x.runs, s.lookup q ≠ .expired) →
                (4 - s.keys.missList.length < new.length →
                    y.state = .due ∧ y.outcome = some (.refused .noKey) ∧ u.line = s.line
                      ∧ u.sys.sendOrder = s.sys.sendOrder ++ [.record k]
                      ∧ u.tracker.keyWait = s.tracker.keyWait.filter (· ≠ k)
                      ∧ ∀ id, id ∈ u.keys.missList ↔ id ∈ s.keys.missList ∧
                          (id ∉ x.awaited ∨ ∃ z ∈ u.tracker.records, z.state = .keyWait ∧ id ∈ z.awaited))
                  ∧ (new.length ≤ 4 - s.keys.missList.length →
                    y.state = .keyWait ∧ u.tracker.keyWait = s.tracker.keyWait
                      ∧ u.keys = { s.keys with missList := s.keys.missList ++ new }
                      ∧ u.line = { s.line with latched := s.line.latched ||| 0x01#8 }
                      ∧ (x.timer ≠ none → y.timer = x.timer)
                      ∧ ∀ q, q ∈ y.awaited ↔ q ∈ protectedIds x.runs ∧ s.lookup q = .miss))

/-- RingOrder and Overrun (R66 to R69, R150, R151): a command that waits for no access any more goes on to the Overrun test and
is held there while a job has yet to copy what it would overwrite; a write that no job holds goes on, hands over a command for
the first range of its image where it is issued (R101), and its issue is seen by its rings (R60); when the Overrun timer
expires every job still holding the write is truncated, those that end entering the Outcome List as Truncated in queue order,
and no other job changes. -/
def Obligations.RingHoldsEnd : Prop :=
  ∀ (k : RecordKey) (x : Record) (s : State), s.record? k = some x →
    (k ∈ s.tracker.ringOrder → x.waitsFor = [] → ∃ u y, exec (.ringorderRelease k) s = .next (settle u)
        ∧ u.record? k = some y ∧ s.goesOn u x y ∧ k ∉ u.tracker.ringOrder ∧ (∀ r < Config.ringCount, (u.ring r).claim = (s.ring r).claim)
        ∧ (∀ r < Config.ringCount, if y.state = .issued then (s.ring r).issuedBy k (u.ring r) else u.ring r = s.ring r)
        ∧ ((∃ j ∈ s.keep.queue, s.heldByJob k j) → y.state = .overrun ∧ y.timer = some (.overrun s.line.profile.overrunMs)
            ∧ u.tracker.overrun = s.tracker.overrun.filter (· ≠ k) ++ [k])
        ∧ ((∀ j ∈ s.keep.queue, ¬ s.heldByJob k j) → y.state ∈ [.tagWait, .soleWait, .issued]))
      ∧ (k ∈ s.tracker.overrun → (x.timer = none ∨ ∀ j ∈ s.keep.queue, ¬ s.heldByJob k j) →
          ∃ u y, exec (.overrunRelease k) s = .next (settle u) ∧ u.record? k = some y ∧ k ∉ u.tracker.overrun ∧ s.goesOn u x y
            ∧ (∀ r < Config.ringCount, if y.state = .issued then (s.ring r).issuedBy k (u.ring r) else u.ring r = s.ring r)
            ∧ y.state ∈ [.tagWait, .soleWait, .issued])
      ∧ (k ∈ s.tracker.overrun → x.timer ≠ none → s.keep.Law →
          ∃ u ended, exec (.overrunTimerExpiry k) s = .next (settle u) ∧ u.record? k = some { x with timer := none }
            ∧ (∀ j ∈ s.keep.queue, ¬ s.heldByJob k j → j ∈ u.keep.queue)
            ∧ s.jobsEnded ended .truncated 0x00#8 u ∧ (∀ j ∈ ended, s.heldByJob k j)
            ∧ ∀ j ∈ u.keep.queue, ∀ b ∈ s.keep.queue, b.id = j.id → s.heldByJob k b → ∃ c, s.keep.chunk = some c
                ∧ s.keep.queue.head? = some b ∧ (b.stopOutcome ≠ none → j = b)
                ∧ (b.stopOutcome = none → b.phase = .reading → j = { b with upto := b.cursor, stopOutcome := some .truncated })
                ∧ (b.stopOutcome = none → b.phase ≠ .reading → j = { b with upto := b.cursor + c.count }))

/-- TagWait, SoleWait and the second part (R82, R99, R100, R105): the oldest record in TagWait takes the lowest free part tag
and is issued; the sole command goes on to issue when no keep chunk is in flight; each hands over its first downstream command,
of a data command the disk LBA and count of its image's first range, else the command as it arrived (R101); its rings see the
issue (R60, R61); the second part of a split is handed over on its tag once the first part's data has passed, or, of a sole
command, once the first part has ended Good. -/
def Obligations.TagHoldsEnd : Prop :=
  ∀ (k : RecordKey) (x : Record) (s : State), s.record? k = some x →
    (∀ h t rest, k = .tag h → h < 32 - s.line.profile.partTags → s.tracker.tagWait = k :: rest → s.lowestPartTag t →
        ∃ u y c, exec .tagwaitGrant s = .next (settle u) ∧ u.record? k = some y ∧ y.state = .issued
          ∧ y.part1 = .outstanding ∧ y.split = x.split.map (fun p => { p with tag := some t })
          ∧ u.tagUser t = some (.hostSecond k) ∧ u.tagUser h = some (.hostFirst k)
          ∧ (∀ r < Config.ringCount, (s.ring r).issuedBy k (u.ring r))
          ∧ u.tracker.tagWait = rest.filter (· ≠ k) ∧ u.drive.issueOrder = s.drive.issueOrder ++ [c]
          ∧ x.issues c ∧ y.image = x.image)
      ∧ (k = .sole → x.state = .soleWait → s.keep.chunk = none →
          ∃ u y c, exec .solewaitRelease s = .next (settle u) ∧ u.record? k = some y ∧ y.state = .issued
            ∧ (∀ r < Config.ringCount, (s.ring r).issuedBy k (u.ring r))
            ∧ y.part1 = .outstanding ∧ u.drive.issueOrder = s.drive.issueOrder ++ [c] ∧ x.issues c ∧ y.image = x.image
            ∧ y.split = x.split)
      ∧ (∀ p, x.split = some p → x.state = .issued → x.part2 = .notIssued →
          (k = .sole ∧ x.part1 = .good)
            ∨ (k ≠ .sole ∧ (x.part1 = .outstanding ∨ x.part1 = .good) ∧ p.host - x.host ≤ x.downCount) →
          ∃ u, exec (.secondPartIssue k) s = .next (settle u) ∧ u.record? k = some { x with part2 := .outstanding }
            ∧ u.drive.issueOrder = s.drive.issueOrder ++ [freshCommand p.tag (.hostSecond k)
                (if x.kind.isWrite = true then .write else .read) p.disk p.count p.host []])

/-! ## Events of the disk and completions -/

/-- What the disk reports, with no frame held before it (R84, R102, R104, R106, R108, R118, R142). For a host command: a
request for write data becomes the record's; a sector of read data is taken into a Free buffer (the lowest: the model's choice,
assumption log entry 7), queued when it is protected, released at once at or above the delivery limit, and held while there is
no room; an end is an error at the first sector not passed, else what the disk reported; a failure ends every outstanding
command so, the keep chunk's among them (R143 to R145). A part that ends with an error takes its data with it: of a write, its
request is withdrawn, its sectors still to arrive are to be discarded and its other ones are released unsent (R103); of a read,
the sectors at or above the new delivery limit are released, and a first key-lost field there becomes absent (R104); one in the
grant is released at the grant's end (R129); and a first part that prevents the second frees the part tag (R106). A part that
ends Good moves nothing else. For the keep chunk: a sector read fills its own Taken buffer and joins the Keep queue, and a
request for write data is counted, its sectors leaving as DownstreamWire says. For both: data beyond the count, data that does
not continue, and data of the wrong direction fail the command, whose further data is discarded and whose later end is an
error. The model's choices: such a write sends no more and goes on inviting (entry 48), the error byte is that of the end event
(entry 49), at the command's first LBA once all its data has passed (entry 50), and a request for write data that the disk may
not make is discarded (entry 8). -/
def Obligations.DiskEvents : Prop :=
  (∀ (tag : Option Nat) (second : Bool) (k : RecordKey) (c : DownCmd) (x : Record) (s : State),
    s.drive.link = .ready → s.drive.inbox = [] → s.outstandingOn tag = some c →
    c.user = (if second then .hostSecond k else .hostFirst k) → s.record? k = some x →
    (∀ n, 0 < n → c.op = .write → c.broken = false → c.asked = c.passed → c.asked + n ≤ c.count →
        ∃ u, exec (.requestForWriteData tag n) s = .next (settle u)
          ∧ u.outstandingOn tag = some { c with asked := c.asked + n }
          ∧ u.record? k = some { x with request := some { first := c.host + c.passed, count := n, invited := 0 } })
      ∧ (∀ data more i, c.op = .read ∨ c.op = .identify → c.broken = false → c.discarding = false → c.passed < c.count →
          s.freeBuffer = some i → s.classBuffers .hostRead < Config.hostClassLimit → c.host + c.passed < x.limit →
          ∃ u, exec (.diskReadData tag c.passed (data :: more)) s = .next (settle u)
            ∧ u.outstandingOn tag = some { c with passed := c.passed + 1 }
            ∧ u.record? k = some { x with downCount := x.downCount + 1 }
            ∧ (u.buffer i).owner = .record k ∧ (u.buffer i).cls = some .hostRead ∧ (u.buffer i).lba = c.host + c.passed
            ∧ (u.buffer i).data = data
            ∧ (x.treatment (c.host + c.passed) = .protect →
                (u.buffer i).state = .queued ∧ u.engine.readQ = s.engine.readQ ++ [i])
            ∧ (x.treatment (c.host + c.passed) = .clear → (u.buffer i).state = .done ∧ u.engine.readQ = s.engine.readQ)
            ∧ u.drive.inbox = if more = [] then [] else [.data tag (c.passed + 1) more])
      ∧ (∀ data more i, c.op = .read ∨ c.op = .identify → c.broken = false → c.discarding = false → c.passed < c.count →
          s.freeBuffer = some i → s.classBuffers .hostRead < Config.hostClassLimit → x.limit ≤ c.host + c.passed →
          ∃ u, exec (.diskReadData tag c.passed (data :: more)) s = .next (settle u)
            ∧ u.outstandingOn tag = some { c with passed := c.passed + 1 }
            ∧ u.record? k = some { x with downCount := x.downCount + 1 } ∧ u.engine = s.engine
            ∧ u.drive.inbox = if more = [] then [] else [.data tag (c.passed + 1) more])
      ∧ (∀ data more, c.op = .read ∨ c.op = .identify → c.broken = false → c.discarding = false → c.passed < c.count →
          s.freeBuffers = 0 ∨ Config.hostClassLimit ≤ s.classBuffers .hostRead →
          exec (.diskReadData tag c.passed (data :: more)) s =
            .next (settle { s with drive := { s.drive with inbox := [.data tag c.passed (data :: more)] } }))
      ∧ (∀ good e lba, ∃ u y, exec (.downstreamCommandEnd tag good e lba) s = .next (settle u) ∧ u.record? k = some y
          ∧ u.outstandingOn tag = none ∧ (∀ t < Config.tagCount, tag = some t → u.tagUser t = none)
          ∧ (c.passed < c.count → (if second then y.part2 else y.part1) = .error (c.host + c.passed) e)
          ∧ (c.count ≤ c.passed → c.broken = true → (if second then y.part2 else y.part1) = .error c.host e)
          ∧ (c.count ≤ c.passed → c.broken = false → good = true → (if second then y.part2 else y.part1) = .good)
          ∧ (c.count ≤ c.passed → c.broken = false → good = false → (if second then y.part2 else y.part1) =
              .error (if c.disk ≤ lba ∧ lba < c.disk + c.count then c.host + (lba - c.disk) else c.host) e)
          ∧ (¬ (c.count ≤ c.passed ∧ c.broken = false ∧ good = true) → s.partsFail u [second] x y
              ∧ ∀ i < Config.bufferCount, (s.buffer i).owner ≠ .record k → u.buffer i = s.buffer i)
          ∧ (c.count ≤ c.passed → c.broken = false → good = true → u.engine = s.engine
              ∧ y = if second then { x with part2 := .good } else { x with part1 := .good }))
      ∧ (∀ e, ∃ u y, exec (.diskFailure e) s = .next (settle u) ∧ u.drive.outstanding = []
          ∧ u.drive.issueOrder = s.drive.issueOrder ∧ u.record? k = some y
          ∧ ((∀ o ∈ s.drive.outstanding, o.user = c.user → o = c) → (if second then y.part2 else y.part1) =
              .error (if c.passed < c.count then c.host + c.passed else c.host) e)
          ∧ ∀ parts, s.partsAtDisk k parts → (s.drive.outstanding.map DownCmd.user).Nodup →
              (false ∈ parts → x.part1 = .outstanding) → (true ∈ parts → x.part2 = .outstanding) → s.partsFail u parts x y))
    ∧ ∀ (tag : Option Nat) (c : DownCmd) (s : State), s.drive.link = .ready → s.drive.inbox = [] → s.outstandingOn tag = some c →
      (∀ data more i, c.user = .keep → c.op = .read → c.broken = false → c.discarding = false → c.passed < c.count →
          i < Config.bufferCount → (s.buffer i).owner = .keep → (s.buffer i).state = .taken →
          (s.buffer i).lba = c.host + c.passed →
          (∀ m < i, ¬ ((s.buffer m).owner = .keep ∧ (s.buffer m).state = .taken ∧ (s.buffer m).lba = c.host + c.passed)) →
          ∃ u, exec (.diskReadData tag c.passed (data :: more)) s = .next (settle u)
            ∧ u.outstandingOn tag = some { c with passed := c.passed + 1 }
            ∧ u.buffer i = { s.buffer i with state := .queued, data := data } ∧ (∀ m, m ≠ i → u.buffer m = s.buffer m)
            ∧ u.engine.keepQ = s.engine.keepQ ++ [i] ∧ u.tracker = s.tracker ∧ u.keep = s.keep
            ∧ u.drive.inbox = if more = [] then [] else [.data tag (c.passed + 1) more])
        ∧ (∀ n, c.user = .keep → c.op = .write → c.broken = false → c.asked = c.passed → 0 < n → c.asked + n ≤ c.count →
            ∃ u, exec (.requestForWriteData tag n) s = .next (settle u)
              ∧ u.outstandingOn tag = some { c with asked := c.asked + n } ∧ u.engine = s.engine ∧ u.tracker = s.tracker
              ∧ u.keep = s.keep)
        ∧ (∀ n, c.op = .write → c.broken = false → n = 0 ∨ c.count < c.asked + n ∨ c.asked ≠ c.passed →
            exec (.requestForWriteData tag n) s = .next (settle s))
        ∧ (∀ offset data more, c.broken = false → c.discarding = false →
            c.op = .write ∨ c.op = .noData ∨ c.passed ≠ offset ∨ c.count ≤ c.passed →
            ∃ u, exec (.diskReadData tag offset (data :: more)) s = .next (settle u) ∧ s.brokenOn u tag c)
        ∧ (∀ n, c.broken = false → c.op ≠ .write →
            ∃ u, exec (.requestForWriteData tag n) s = .next (settle u) ∧ s.brokenOn u tag c)
        ∧ (∀ offset data, c.broken = true ∨ c.discarding = true → exec (.diskReadData tag offset data) s = .next (settle s))
        ∧ (∀ n, c.broken = true → exec (.requestForWriteData tag n) s = .next (settle s))
        ∧ ∀ e j rest k, c.user = .keep → c.op = .read ∨ c.op = .write → (s.drive.outstanding.map DownCmd.user).Nodup →
            s.keep.Law → s.keep.queue = j :: rest → s.keep.chunk = some k →
            ∃ u, exec (.diskFailure e) s = .next (settle u) ∧ u.drive.outstanding = []
              ∧ s.keepCommandEnds u (decide (c.op = .read)) false j rest k

/-- The ends of the keep chunk's commands (R142 to R145): a source read that ends Good is transformed; an error fails a job of
the policy Halt, and under Skip the chunk is marked zero source: its buffers hold zeros and rejoin the Keep queue's tail in
destination order, one in a grant at the grant's end (R123, R145). A destination write that ends moves the cursor past the
chunk, and at the job's end finishes it, as Truncated where the end was lowered; under Skip the end test takes the cursor as
well (the model's reading of the k of R145: assumption log entry 26). A job that is stopping ends with its stop outcome, its
cursor and skipped count moved by a write's end alone (R147); that a zero-source chunk whose write ends Good raises the skipped
count there too is the model's reading (entry 30). A chunk that ends gives up its counts, its part tag and its buffers (R17,
R143, R144); a job that ends latches KeepEnded (R151). -/
def Obligations.KeepCommandEnds : Prop :=
  ∀ (good : Bool) (e : Byte) (lba : Nat) (read : Bool) (c : DownCmd) (j : Job) (rest : List Job) (k : Chunk) (s : State),
    s.drive.link = .ready → s.drive.inbox = [] → s.keep.Law → s.keep.queue = j :: rest → s.keep.chunk = some k →
    (s.drive.outstanding.find? fun x => x.user == .keep && x.op == (if read then .read else .write)) = some c →
    c.op = (if read then .read else .write) → s.outstandingOn c.tag = some c →
    ∃ u ok, exec (if read then .keepReadEnd good e lba else .keepWriteEnd good e lba) s = .next (settle u)
      ∧ exec (.downstreamCommandEnd c.tag good e lba) s = .next (settle u)
      ∧ (ok = true ↔ good = true ∧ c.count ≤ c.passed ∧ c.broken = false) ∧ u.outstandingOn c.tag = none
      ∧ s.keepCommandEnds u read ok j rest k
      ∧ (j.stopOutcome = none → read = true → ok = false → j.policy = .skip →
          (∀ i < Config.bufferCount, (s.buffer i).owner ≠ .keep → u.buffer i = s.buffer i)
            ∧ (∀ g i, s.engine.grant = some g → g.buffer = some i → i < Config.bufferCount →
                u.engine.grant = some { g with fate := if (s.buffer i).owner = .keep then .requeue else g.fate })
            ∧ ((∀ m < Config.bufferCount, ∀ i < m, (s.buffer i).owner = .keep → (s.buffer m).owner = .keep →
                  (s.buffer i).lba < (s.buffer m).lba) →
                ∃ own : List Nat, u.engine.keepQ = s.engine.keepQ.filter (· ∉ own) ++ own
                  ∧ (∀ i, i ∈ own ↔ i < Config.bufferCount ∧ (s.buffer i).owner = .keep
                      ∧ s.engine.grant.bind Grant.buffer ≠ some i)
                  ∧ own.Pairwise fun i m => (s.buffer i).lba < (s.buffer m).lba))

/-- The completion of an issued command is decided exactly under the conditions of R107, with the outcome of R107: Lost before
DiskError, which names the lowest failing host LBA of the parts, before Good; the error byte of a DiskError is that of the part
with that LBA (the model's reading: assumption log entry 31); no internal step makes an issued command Due otherwise. The
delivery limit is the lowest failing host LBA, else the command's end (R104). The Identify sector is delivered with the depth
31 - R in the low bits of its queue-depth field and, where it carries the marker, with a check byte that makes its 512 bytes
sum to 0 (R78; the places of the fields are the model's: assumption log entry 12). -/
def Obligations.CompletionDecided : Prop :=
  (∀ (s : State) (k : RecordKey) (x : Record), s.record? k = some x → x.state = .issued →
      (∀ l, x.limitIs l → x.limit = l)
        ∧ (¬ s.completes x → decide? k s = none)
        ∧ (s.completes x → ∃ u o, decide? k s = some u ∧ OutcomeOf x o
            ∧ u.record? k = some { x with state := .due, timer := none, awaited := [], waitsFor := [], outcome := some o }
            ∧ u.sys = { s.sys with sendOrder := s.sys.sendOrder ++ [.record k] } ∧ u.keys = s.keys ∧ u.rings = s.rings
            ∧ u.regions = s.regions ∧ u.drive = s.drive ∧ u.engine = s.engine ∧ u.keep = s.keep ∧ u.wires = s.wires)
        ∧ ∀ t y, internalStep s = some t → k ∉ s.regions.drain → k ∉ s.tracker.keyWait → t.record? k = some y →
            y.state = .due → s.completes x ∧ ∃ o, OutcomeOf x o ∧ y.outcome = some o)
    ∧ ∀ (s : State) (x : Record) (i : Nat) (d : Sector), x.kind = .identify → d = (s.buffer i).data →
      (∀ m < 510, (s.delivered x i).extractLsb' (8 * m) 8 = if m = 150 then
            (d.extractLsb' (8 * 150) 8 &&& 0xE0#8) ||| BitVec.ofNat 8 (31 - s.line.profile.partTags)
          else d.extractLsb' (8 * m) 8)
        ∧ (s.delivered x i).extractLsb' (8 * 510) 8 = d.extractLsb' (8 * 510) 8
        ∧ (d.extractLsb' (8 * 510) 8 ≠ 0xA5#8 →
            (s.delivered x i).extractLsb' (8 * 511) 8 = d.extractLsb' (8 * 511) 8)
        ∧ (d.extractLsb' (8 * 510) 8 = 0xA5#8 →
            ((List.range 512).map fun m => ((s.delivered x i).extractLsb' (8 * m) 8).toNat).sum % 256 = 0)

/-- What reaches the disk. A command adds command frames and write data to the downstream wire by its internal steps alone:
before them it may end outstanding commands, count what the disk sent and asked for, withdraw waiting commands and let new ones
join, and no more. An internal step sends the first command of the issue order, or lets commands join its tail (R83): none
while a data frame of the disk is held or a write data frame is in progress (R118, R122), and a non-queued one only when no
queued one is outstanding. It sends write data, none while a data frame is held (R118), only for a write that has not failed
under R84 (the model's choice: assumption log entry 48) and that the disk has asked for more of, the sector of the next LBA, out of
a Done buffer of that command, at the disk LBA it stands for, and releases the buffer (R121, R122). -/
def Obligations.DownstreamWire : Prop :=
  (∀ (c : Instr) (s t : State), exec c s = .next t → ∃ n u v l added, InternalRun n u v ∧ t = { v with line := l }
      ∧ u.wires.down = s.wires.down ++ added
      ∧ (∀ item ∈ added, (∀ tag op d n f, item ≠ .command tag op d n f) ∧ ∀ tag d x, item ≠ .writeData tag d x)
      ∧ (∀ x ∈ u.drive.outstanding, ∃ o ∈ s.drive.outstanding,
          (o.op = .write → (∀ y ∈ s.drive.outstanding, y.tag = o.tag → y = o) → x.passed = o.passed)
            ∧ x = { o with passed := x.passed, asked := x.asked, broken := x.broken, discarding := x.discarding })
      ∧ (∃ kept joined, u.drive.issueOrder = kept ++ joined ∧ (kept.map fun x => { x with discarding := false }).Sublist
          (s.drive.issueOrder.map fun x => { x with discarding := false }))
      ∧ (u.drive.sending = s.drive.sending ∨ u.drive.sending = none))
    ∧ ∀ s t : State, internalStep s = some t → ∃ added, t.wires.down = s.wires.down ++ added
      ∧ ((∃ c, s.drive.issueOrder = c :: t.drive.issueOrder ∧ added = [.command c.tag c.op c.disk c.count c.frame]
            ∧ t.drive.outstanding = s.drive.outstanding ++ [c] ∧ s.drive.link = .ready ∧ s.drive.inbox = []
            ∧ s.drive.sending = none ∧ (c.tag = none → ∀ x ∈ s.drive.outstanding, x.tag = none))
          ∨ ((∃ joined, t.drive.issueOrder = s.drive.issueOrder ++ joined)
            ∧ ∀ item ∈ added, ∀ tag op d n f, item ≠ .command tag op d n f))
      ∧ ∀ tag d x, .writeData tag d x ∈ added → ∃ c ∈ s.drive.outstanding, ∃ i < Config.bufferCount,
          added = [.writeData tag d x] ∧ s.drive.link = .ready ∧ c.tag = tag ∧ c.op = .write ∧ c.broken = false
            ∧ s.drive.inbox = [] ∧ c.passed < c.asked ∧ d = c.disk + c.passed ∧ (s.buffer i).state = .done
            ∧ (s.buffer i).owner = c.owner
            ∧ (s.buffer i).lba = c.host + c.passed ∧ x = (s.buffer i).data
            ∧ (∀ y, s.drive.sending = some y → y.tag = tag)
            ∧ (s.outstandingOn tag = some c → t.outstandingOn tag = some { c with passed := c.passed + 1 })
            ∧ (s.engine.grant.bind Grant.buffer ≠ some i → (t.buffer i).state ∈ [.free, .setAside])

/-! ## The upstream link -/

/-- A completion is sent with the free link (R80, R109) in the fields of R179, and what its record held is released: the
in-flight counts, the user counts, the accesses and the record itself. -/
def Obligations.CompletionSent : Prop :=
  ([.unsupported, .badTag, .notSole, .barred, .busy, .fragmented, .discontiguous, .shielded, .expired, .locked, .noKey,
      .ringIdle, .ringStale, .ringAhead, .ringGap, .keyLost] : List HostReason).map HostReason.code = List.range' 1 16
    ∧ ∀ s : State, s.sys.link = .ready →
    (∀ i < Config.bufferCount, ¬ ((s.buffer i).state = .taken ∧ (s.buffer i).cls = some .hostWrite)) →
    (∀ tag why rest, s.sys.sendOrder = .arrival tag why :: rest → exec .completion s = .next (settle { s with
        sys := { s.sys with sendOrder := rest }
        wires := { s.wires with up := s.wires.up ++ [.completion tag 0x51#8 0x04#8 0 why.code] } }))
      ∧ ∀ k x o rest, s.sys.sendOrder = .record k :: rest → s.record? k = some x → x.outcome = some o →
        ∃ u item, exec .completion s = .next (settle u) ∧ u.wires.up = s.wires.up ++ [item]
          ∧ (o = .good → item = .completion (tagOf k) 0x50#8 0x00#8 0 0)
          ∧ (∀ e lba, o = .diskError e lba → item = .completion (tagOf k) 0x51#8 e (lba.getD 0) 0)
          ∧ (∀ why, o = .refused why → item = .completion (tagOf k) 0x51#8 0x04#8 0 why.code)
          ∧ (∀ lba, o = .lost .expired lba → item = .completion (tagOf k) 0x51#8 0x04#8 lba 0x109)
          ∧ (∀ lba, o = .lost .keyLost lba → item = .completion (tagOf k) 0x51#8 0x04#8 lba 0x110)
          ∧ u.sys.sendOrder = rest ∧ u.record? k = none
          ∧ (∀ i < Config.regionCount, u.entry i = { s.entry i with inFlight := (s.entry i).inFlight - x.counted.count i })
          ∧ (∀ r < Config.ringCount, (u.ring r).users = (s.ring r).users - x.rings.count r
              ∧ (u.ring r).accesses = (s.ring r).accesses.filter (fun a => a.record ≠ k))
          ∧ (∀ y ∈ u.tracker.records, k ∉ y.waitsFor)

/-- The turns of the upstream link (R80, R102, R119), with no completion due and the link free: the command served next is the
first ready one after the command served last, in acceptance order; a read's turn delivers its consecutive ready sectors, up to
16 and below its delivery limit, and an Identify's its one sector, once the disk has ended it Good (R78: the model's reading of
an end with an error that delivers no sector, assumption log entry 45); a write's turn invites up to 16 sectors as far as the
pool has room, their buffers reserved; an invited sector that arrives fills the lowest buffer of its record, or, of a withdrawn
exchange, is discarded and its buffer released (R103). The model's choices: the link is free while no write turn is open
(assumption log entry 20), with no command served last the order starts at its head (entry 34), and arriving data fills the
record's Taken buffer of the lowest LBA (entry 42). -/
def Obligations.UpstreamTurns : Prop :=
  (∀ (x : Record) (s : State), s.readyRead x ≠ none ↔ x.state = .issued
      ∧ (x.kind.isRead = true ∨ x.kind = .identify ∧ x.part1 = .good) ∧ (∀ l, x.limitIs l → x.host + x.upCount < l)
      ∧ ∃ i < Config.bufferCount, (s.buffer i).owner = .record x.key ∧ (s.buffer i).lba = x.host + x.upCount
        ∧ (s.buffer i).state = .done)
    ∧ ∀ (x : Record) (s : State), s.sys.link = .ready → s.record? x.key = some x →
    ((∀ i < Config.bufferCount, ¬ ((s.buffer i).state = .taken ∧ (s.buffer i).cls = some .hostWrite)) →
      s.sys.sendOrder = [] → s.nextTurn = some x →
      ((s.tracker.records.map Record.order).Pairwise (· < ·) → s.exchangeReady x = true
          ∧ ∀ z ∈ s.tracker.records, s.exchangeReady z = true →
              (s.sys.lastServed = none → x.order ≤ z.order)
                ∧ ∀ n, s.sys.lastServed = some n →
                  if n < x.order then n < z.order → x.order ≤ z.order else z.order ≤ n ∧ x.order ≤ z.order)
      ∧ (s.readyRead x ≠ none → ∃ (u : State) (own : List Nat), exec .readDataBurst s = .next (settle u)
          ∧ 0 < own.length ∧ own.length ≤ 16 ∧ x.host + x.upCount + own.length ≤ x.limit
          ∧ (∀ m i : Nat, own[m]? = some i → s.bufferOf (.record x.key) (x.host + x.upCount + m) (fun b => b.state == .done) = some i)
          ∧ (own.length = 16 ∨ x.host + x.upCount + own.length = x.limit
              ∨ s.bufferOf (.record x.key) (x.host + x.upCount + own.length) (fun b => b.state == .done) = none)
          ∧ u.wires.up = s.wires.up ++ [.readData (tagOf x.key) (x.host + x.upCount) (own.map (s.delivered x))]
          ∧ (x.kind ≠ .identify → ∀ i, s.delivered x i = (s.buffer i).data)
          ∧ u.record? x.key = some { x with upCount := x.upCount + own.length } ∧ u.sys.lastServed = some x.order)
      ∧ (∀ q n, x.request = some q → s.readyRead x = none → q.invited < q.count →
          n = min (min 16 (q.count - q.invited)) (min (32 - s.classBuffers .hostWrite) s.freeBuffers) → 0 < n →
          ∃ u, exec .writeDataRequest s = .next (settle u)
            ∧ u.wires.up = s.wires.up ++ [.invitation (tagOf x.key) (q.first + q.invited) n]
            ∧ u.record? x.key =
                some { x with invited := x.invited + n, request := some { q with invited := q.invited + n } }
            ∧ u.freeBuffers + n = s.freeBuffers
            ∧ (∀ m < n, ∃ i < Config.bufferCount, (s.buffer i).state = .free ∧ (u.buffer i).state = .taken
                ∧ (u.buffer i).owner = .record x.key ∧ (u.buffer i).lba = q.first + q.invited + m
                ∧ (u.buffer i).treatment = x.treatment (q.first + q.invited + m))
            ∧ u.sys.lastServed = some x.order))
    ∧ ∀ i data, i < Config.bufferCount → (s.buffer i).owner = .record x.key → (s.buffer i).state = .taken →
        (s.buffer i).cls = some .hostWrite →
        (∀ m < Config.bufferCount, m ≠ i → (s.buffer m).owner = .record x.key → (s.buffer m).state = .taken →
          (s.buffer m).cls = some .hostWrite → (s.buffer i).lba < (s.buffer m).lba) →
        ∃ u, exec (.hostWriteData x.key data) s = .next (settle u)
          ∧ u.record? x.key = some { x with
              upCount := x.upCount + 1
              request := x.request.filter fun q => decide ((s.buffer i).lba + 1 ≠ q.first + q.count) }
          ∧ (∀ m, m ≠ i → u.buffer m = s.buffer m)
          ∧ ((s.buffer i).discard = false → (s.buffer i).treatment = .protect →
              u.buffer i = { s.buffer i with state := .queued, data := data } ∧ u.engine.writeQ = s.engine.writeQ ++ [i])
          ∧ ((s.buffer i).discard = false → (s.buffer i).treatment = .clear →
              u.buffer i = { s.buffer i with state := .done, data := data } ∧ u.engine.writeQ = s.engine.writeQ)
          ∧ ((s.buffer i).discard = true → s.engine.grant.bind Grant.buffer ≠ some i →
              (u.buffer i).state ∈ [.free, .setAside] ∧ i ∉ u.engine.writeQ)

/-! ## The engine and the Keep Unit's starts -/

/-- The arbiter's choice (R124 to R128): the keep share once it is due (after 4 M grants, M being the hold limit that the manual
writes H there: the model's reading, assumption log entry 13), else by the two host sides, the Keep queue taking the write
side's grants while a write is held in Overrun; keep alone when no host sector waits. A grant counts by the table of R125: each
streak rises, to its bound, while the queue it counts for held a sector, and else returns to 0; the last side is that of a host
side's grant. -/
def Obligations.ArbiterChoice : Prop :=
  ∀ (s : State) (shareDue writeSide readFirst : Prop),
    (shareDue ↔ s.engine.keepQ ≠ [] ∧ 4 * s.line.profile.holdLimit ≤ s.engine.keepStreak) →
    (writeSide ↔ s.engine.writeQ ≠ [] ∨ (s.tracker.overrun ≠ [] ∧ s.engine.keepQ ≠ [])) →
    (readFirst ↔ (s.line.profile.arbiter = .fixed ∧ s.engine.readStreak < s.line.profile.holdLimit)
      ∨ (s.line.profile.arbiter = .alternate ∧ s.engine.lastSide = .writeSide)) →
    (s.arbitrate = none ↔ s.engine.readQ = [] ∧ s.engine.writeQ = [] ∧ s.engine.keepQ = [])
      ∧ (s.arbitrate = some .keepShare ↔ shareDue ∨ (s.engine.readQ = [] ∧ ¬ writeSide ∧ s.engine.keepQ ≠ []))
      ∧ (s.arbitrate = some .read ↔ ¬ shareDue ∧ s.engine.readQ ≠ [] ∧ (writeSide → readFirst))
      ∧ (s.arbitrate = some .keepFirst ↔ ¬ shareDue ∧ (s.engine.readQ = [] ∨ ¬ readFirst) ∧ s.tracker.overrun ≠ []
          ∧ s.engine.keepQ ≠ [])
      ∧ (s.arbitrate = some .write ↔ ¬ shareDue ∧ (s.engine.readQ = [] ∨ ¬ readFirst) ∧ s.engine.writeQ ≠ []
          ∧ (s.tracker.overrun = [] ∨ s.engine.keepQ = []))
      ∧ ∀ ch i rest keepUp, s.engine.grant = none → s.arbitrate = some ch → s.queueOf ch = i :: rest →
          ((s.engine.keepQ ≠ [] → keepUp = min (4 * s.line.profile.holdLimit) (s.engine.keepStreak + 1))
            ∧ (s.engine.keepQ = [] → keepUp = 0)) →
          ∃ u, exec .grantStart s = .next (settle u)
            ∧ (ch = .read → (writeSide → u.engine.readStreak = min s.line.profile.holdLimit (s.engine.readStreak + 1))
                ∧ (¬ writeSide → u.engine.readStreak = 0) ∧ u.engine.keepStreak = keepUp ∧ u.engine.lastSide = .read)
            ∧ (ch = .write → u.engine.readStreak = 0 ∧ u.engine.keepStreak = keepUp ∧ u.engine.lastSide = .writeSide)
            ∧ (ch = .keepFirst → u.engine.readStreak = 0 ∧ u.engine.keepStreak = 0 ∧ u.engine.lastSide = .writeSide)
            ∧ (ch = .keepShare → u.engine.readStreak = s.engine.readStreak ∧ u.engine.keepStreak = 0
                ∧ u.engine.lastSide = s.engine.lastSide)

/-- A grant starts on the oldest sector of the chosen queue and transforms it under its captured key, host sectors by their
host-view LBA (R41, R115, R116): a read is decrypted, a write encrypted, a keep sector decrypted under its source and encrypted
under its destination, a zero-source one encrypted from zeros; a host sector whose slot is Expired, Empty or of another
generation is key-lost and zero-filled; a keep sector whose source pair, or else whose destination pair, is lost abandons its
chunk and stops its job with the reason of that pair (R146). That the engine is then free at once is the model's reading
(assumption log entry 29). -/
def Obligations.GrantStarts : Prop :=
  ∀ (s : State) (i : Nat) (rest : List Nat) (ch : Choice), s.engine.grant = none → s.arbitrate = some ch →
    s.queueOf ch = i :: rest →
    (∀ read k x r p v, (ch, read) ∈ [(Choice.read, true), (.write, false)] → (s.buffer i).owner = .record k →
        s.record? k = some x → x.runAt (s.buffer i).lba = some r → r.capture = some p → PairVerdict s p v →
        ∃ u g, exec .grantStart s = .next (settle u) ∧ u.engine.grant = some g ∧ g.buffer = some i ∧ g.fate = .place
          ∧ u.engine.pool = s.engine.pool ∧ i ∉ u.engine.readQ ∧ i ∉ u.engine.writeQ
          ∧ (∀ key, v = .ok key → g.lost = none ∧ g.result =
                if read then (Config.sectorTransform key (BitVec.ofNat 128 (s.buffer i).lba)).symm (s.buffer i).data
                else Config.sectorTransform key (BitVec.ofNat 128 (s.buffer i).lba) (s.buffer i).data)
          ∧ (∀ why, v = .error why → g.lost = some why ∧ g.result = 0#4096))
      ∧ (∀ c p vs vd, ch = .keepFirst ∨ ch = .keepShare → s.keep.chunk = some c → PairVerdict s c.target vd →
          ((s.buffer i).treatment = .protect → (s.buffer i).srcPair = some p ∧ PairVerdict s p vs) →
          (s.buffer i).treatment ≠ .clear →
          (∀ ks kd, (s.buffer i).treatment = .protect → vs = .ok ks → vd = .ok kd →
              ∃ u g, exec .grantStart s = .next (settle u) ∧ u.engine.grant = some g ∧ g.buffer = some i ∧ g.fate = .place
                ∧ g.result = Config.sectorTransform kd (BitVec.ofNat 128 (s.buffer i).lba)
                    ((Config.sectorTransform ks (BitVec.ofNat 128 (s.buffer i).srcTweak)).symm (s.buffer i).data)
                ∧ u.keep = s.keep)
            ∧ (∀ kd, (s.buffer i).treatment = .zeroSource → vd = .ok kd →
              ∃ u g, exec .grantStart s = .next (settle u) ∧ u.engine.grant = some g ∧ g.buffer = some i ∧ g.fate = .place
                ∧ g.result = Config.sectorTransform kd (BitVec.ofNat 128 (s.buffer i).lba) 0#4096 ∧ u.keep = s.keep)
            ∧ (∀ why j waiting, s.keep.Law → s.keep.queue = j :: waiting → j.stopOutcome = none →
                ((s.buffer i).treatment = .protect ∧ (vs = .error why ∨ (∃ ks, vs = .ok ks) ∧ vd = .error why))
                  ∨ ((s.buffer i).treatment = .zeroSource ∧ vd = .error why) →
                ∃ u r, exec .grantStart s = .next (settle u) ∧ u.engine.grant = none
                  ∧ r = (match why with | .expired => FailReason.expired | .keyLost => .keyLost)
                  ∧ (∀ m < Config.bufferCount, j.phase ≠ .writing → (s.buffer m).owner = .keep →
                      (s.buffer m).state ≠ .setAside → (u.buffer m).state = .free)
                  ∧ (j.phase = .reading → u.keep = { s.keep with queue := { j with stopOutcome := some (.failed r) } :: waiting }
                      ∧ ∀ d ∈ u.drive.outstanding ++ u.drive.issueOrder, d.user = .keep → d.discarding = true)
                  ∧ (j.phase = .transforming → s.jobsEnded [j] (.failed r) 0x00#8 u ∧ u.keep.queue = waiting
                      ∧ u.keep.chunk = none)))

/-- A grant ends (R115, R116, R129): its result is placed and the buffer is Done, a key-lost sector noted as the record's
lowest, of a read below its delivery limit only (R103, R104; that the field is written at the grant's end is the model's
reading: assumption log entry 28); a buffer whose owner ended is released; a grant whose buffer a line reset took is dropped.
The law of R115: a protected sector becomes Done only by the end of its grant, with the grant's result, a grant begins only with
GRANT_START, and a sector is protected when the run that holds it carries a programme id. -/
def Obligations.GrantEnds : Prop :=
  (∀ (s : State) (g : Grant), s.engine.grant = some g → ∃ u, exec .grantEnd s = .next (settle u) ∧ u.engine.grant = none
      ∧ (g.buffer = none → u = { s with engine := { s.engine with grant := none } })
      ∧ ∀ i < Config.bufferCount, g.buffer = some i →
          (g.fate = .place → u.buffer i = { s.buffer i with state := .done, data := g.result }
              ∧ (g.lost = none → u.tracker = s.tracker)
              ∧ ∀ k x why, g.lost = some why → (s.buffer i).owner = .record k → s.record? k = some x →
                  (x.kind.isRead = true → x.limit ≤ (s.buffer i).lba → u.record? k = some x)
                    ∧ (x.kind.isWrite = true ∨ (x.kind.isRead = true ∧ (s.buffer i).lba < x.limit) →
                        u.record? k = some { x with firstLost := match x.firstLost with
                          | some (l, w) => some (if (s.buffer i).lba < l then ((s.buffer i).lba, why) else (l, w))
                          | none => some ((s.buffer i).lba, why) }))
            ∧ (g.fate = .discard → (u.buffer i).state ∈ [.free, .setAside] ∧ i ∉ u.engine.readQ ∧ i ∉ u.engine.writeQ
                ∧ i ∉ u.engine.keepQ ∧ u.tracker = s.tracker)
            ∧ (g.fate = .requeue → u.engine.keepQ = s.engine.keepQ ++ [i] ∧ u.engine.pool = s.engine.pool))
    ∧ (∀ (c : Instr) (s t : State), exec c s = .next t →
        (∀ i < Config.bufferCount, (t.buffer i).state = .done → (t.buffer i).treatment = .protect →
            ((s.buffer i).state = .done ∧ (s.buffer i).treatment = .protect ∧ (t.buffer i).data = (s.buffer i).data)
              ∨ (c = .grantEnd ∧ ∃ g, s.engine.grant = some g ∧ g.buffer = some i ∧ (t.buffer i).data = g.result))
          ∧ ∀ g, t.engine.grant = some g → c = .grantStart
              ∨ ∃ b, s.engine.grant = some b ∧ g.result = b.result ∧ (g.buffer = b.buffer ∨ g.buffer = none))
    ∧ ∀ (x : Record) (lba : Nat), (x.treatment lba = .protect ↔ ∃ r earlier later, x.runs = earlier ++ r :: later
        ∧ r.first ≤ lba ∧ lba < r.first + r.count ∧ (∀ q ∈ earlier, ¬ (q.first ≤ lba ∧ lba < q.first + q.count))
        ∧ (r.kind = .programme ∨ r.kind = .ring) ∧ r.id ≠ none)

/-- The Keep Unit's starts (R120, R138, R139, R141, R142): the idle gate opens; a buffer request is met once its buffers are
set aside; a chunk starts on the lowest free part tag, its keys queried, source segments before destination, and its
destination classified anew: it captures those pairs, takes its counts, gives its buffers their places and pairs, and reads the
ring's disk range at the cursor; the first query that fails, or the classification, ends the job with its reason: its chunk's
buffers are released (R141), and KeepEnded is latched (R151). -/
def Obligations.KeepStarts : Prop :=
  ∀ s : State,
    exec .idleGateOpen s = .next (settle { s with keep := { s.keep with gateOpen := true } })
      ∧ (∀ q, s.keep.request = some q → q.met = false → q.count ≤ s.setAsideBuffers →
          ∃ u, exec .bufferRequestMet s = .next (settle u) ∧ u.keep.request = some { q with met := true }
            ∧ ∀ i < Config.bufferCount, u.buffer i = if (s.buffer i).state = .setAside then
                { Buffer.empty with state := .taken, cls := some .keep, owner := .keep }
              else s.buffer i)
      ∧ (∀ j rest q t h disk left, s.keep.queue = j :: rest → s.keep.request = some q → q.met = true → 0 < q.count →
          s.keep.chunk = none → s.tracker.tagWait = [] → s.driveUp → s.lowestPartTag t → j.destinationAt h disk left →
          s.KeyTableLaw →
          ((∃ pairs, ChunkVerdict s j q.count h disk (.ok pairs)) →
            ∃ u c, exec .keepChunkStart s = .next (settle u) ∧ u.keep.request = none
              ∧ u.keep.queue = { j with phase := .reading } :: rest ∧ u.keep.chunk = some c ∧ c.count = q.count ∧ c.tag = t
              ∧ ChunkVerdict s j q.count h disk (.ok (c.sources, c.target))
              ∧ c.counted.Nodup ∧ (∀ i, i ∈ c.counted ↔ i < Config.regionCount ∧ s.matches i h q.count)
              ∧ (∀ i < Config.regionCount,
                  u.entry i = { s.entry i with inFlight := (s.entry i).inFlight + if i ∈ c.counted then 1 else 0 })
              ∧ c.readEnded = false ∧ c.zeroSource = false
              ∧ (((List.range Config.bufferCount).countP fun i => (s.buffer i).owner == .keep) = q.count →
                  ∀ p < q.count, ∃ i < Config.bufferCount, (s.buffer i).owner = .keep ∧ u.buffer i = { Buffer.empty with
                    state := .taken, cls := some .keep, owner := .keep, lba := h + p, treatment := .protect
                    srcTweak := j.sourceBase + (j.cursor + p)
                    srcPair := ((c.sources.filter fun e => decide (e.1 ≤ j.cursor + p)).getLast?).map Prod.snd })
              ∧ u.tagUser t = some .keep
              ∧ u.drive.issueOrder = s.drive.issueOrder ++ [freshCommand (some t) .keep .read
                  ((s.ring j.ring).base + j.cursor % (s.ring j.ring).span) q.count h []]
              ∧ (∀ r < Config.ringCount, (u.ring r).users = (s.ring r).users + if r = j.ring then 1 else 0))
            ∧ (∀ why, ChunkVerdict s j q.count h disk (.error why) → ∃ u, exec .keepChunkStart s = .next (settle u)
              ∧ u.keep.request = none ∧ u.keep.chunk = none ∧ (∀ x ∈ u.keep.queue, x.id ≠ j.id)
              ∧ u.keep.outcomes = (outcomeEntry j.id j.ring (.failed why) j.cursor j.skipped :: s.keep.outcomes).take 4
              ∧ u.line = { s.line with latched := s.line.latched ||| 0x04#8 }
              ∧ (∀ i < Config.bufferCount, if (s.buffer i).owner = .keep then
                  (u.buffer i).state = .free ∧ (u.buffer i).cls = none ∧ i ∉ u.engine.keepQ
                else u.buffer i = s.buffer i)
              ∧ u.regions = s.regions ∧ u.rings = s.rings ∧ u.drive = s.drive ∧ u.tagUser t = none))

/-- What the Keep Unit does of its own: it places a buffer request only when R139 holds, for the least of the four lengths, and
takes what is free within the class limit (R117 against R120: the model's choice, assumption log entry 15), a frame of the disk
that is held having taken its room first (R121); it withdraws the request when a sole command becomes standing, which goes on
to issue unless a chunk is in flight (R100, R140); and it issues the destination write when every buffer of the chunk is Done,
at the disk LBA of the extent's place (R142). -/
def Obligations.KeepUnitActs : Prop :=
  (∀ (s t : State) (q : KeepRequest), internalStep s = some t → s.keep.request = none → t.keep.request = some q →
      ∃ j rest, s.keep.queue = j :: rest ∧ s.placesRequest j ∧ q.met = false
        ∧ (∀ h disk left, j.destinationAt h disk left → q.count =
            min (min 16 (j.upto - j.cursor)) (min ((s.ring j.ring).span - j.cursor % (s.ring j.ring).span) left))
        ∧ t.setAsideBuffers = s.setAsideBuffers + min q.count (min (16 - s.classBuffers .keep) s.freeBuffers)
        ∧ (s.drive.inbox ≠ [] → s.freeBuffers = 0 ∨ Config.hostClassLimit ≤ s.classBuffers .hostRead))
    ∧ (∀ (c : Instr) (a : Arrival) (s : State), arrivalOf c = some a → a.tag = none → s.sys.link = .ready →
        ArrivalVerdict s a none → ∃ u x, exec c s = .next (settle u) ∧ u.record? .sole = some x
          ∧ (a.kind.isData = false → x.state = .soleWait ∨ x.state = .issued)
          ∧ (x.state = .soleWait ∨ x.state = .issued → x.standing = true ∧ u.keep.request = none
              ∧ u.keep.chunk = s.keep.chunk ∧ (x.state = .issued ↔ s.keep.chunk = none)
              ∧ (s.keep.request ≠ none → ∀ i < Config.bufferCount, (s.buffer i).owner = .keep → (u.buffer i).state = .free)))
    ∧ ∀ (s t : State) (j : Job) (rest : List Job) (k : Chunk), internalStep s = some t → s.keep.queue = j :: rest →
      s.keep.chunk = some k → j.phase = .transforming → t.keep.queue = { j with phase := .writing } :: rest →
      s.doneKeepBuffers = k.count ∧ t.keep.chunk = some k
        ∧ ∃ h disk left, j.destinationAt h disk left
          ∧ t.drive.issueOrder = s.drive.issueOrder ++ [freshCommand (some k.tag) .keep .write disk k.count h []]

/-! ## Link power -/

/-- Link power (R85): the System Port accepts a request with nothing to send and declines it otherwise; the Drive Port asks the
disk for the same depth while it is quiet, follows the disk's answer and declines the disk's own request; each link wakes by
itself. The model's readings: a write-data request with sectors not yet invited keeps the upstream link awake whatever the
pool's room, and a wake is one step (assumption log entry 24); the disk's answer is taken also after a command was handed over,
and a decline then bars no further request (entry 25). -/
def Obligations.LinkPower : Prop :=
  ∀ (d e : Depth) (s : State),
    (s.sys.link = .ready → s.sys.sendOrder = [] → (∀ r ∈ s.tracker.records, s.waitsUpstream r = false) →
        exec (.lowPowerRequest d) s = .next (settle { s with
          sys := { s.sys with link := .asleep d }, wires := { s.wires with up := s.wires.up ++ [.lowPowerAnswer true] } }))
      ∧ (s.sys.link = .notReady ∨ (s.sys.link = .ready ∧ s.sys.sendOrder ≠ [])
            ∨ (s.sys.link = .ready ∧ ∃ r ∈ s.tracker.records, s.waitsUpstream r = true) →
          exec (.lowPowerRequest d) s =
            .next (settle { s with wires := { s.wires with up := s.wires.up ++ [.lowPowerAnswer false] } }))
      ∧ (s.sys.link = .asleep d → s.drive.link = .ready → s.drive.outstanding = [] → s.drive.issueOrder = [] →
          s.drive.lowPower = .idle → exec .downstreamLowPower s = .next (settle { s with
            drive := { s.drive with lowPower := .asked d }
            wires := { s.wires with down := s.wires.down ++ [.lowPowerRequest d] } }))
      ∧ (s.drive.link = .ready → s.drive.lowPower = .asked d →
          exec (.diskLowPowerAnswer true) s =
              .next (settle { s with drive := { s.drive with link := .asleep d, lowPower := .idle } })
            ∧ exec (.diskLowPowerAnswer false) s = .next (settle { s with drive := { s.drive with
                lowPower := if s.drive.outstanding = [] ∧ s.drive.issueOrder = [] then .declined else .idle } }))
      ∧ (s.drive.link = .ready ∨ s.drive.link = .starting → exec (.diskLowPowerRequest e) s =
          .next { s with wires := { s.wires with down := s.wires.down ++ [.lowPowerDeclined] } })
      ∧ (s.sys.link = .asleep d → exec .hostWake s = .next (settle { s with sys := { s.sys with link := .ready } }))
      ∧ (s.drive.link = .asleep d → exec .diskWake s = .next (settle { s with drive := { s.drive with link := .ready } }))

/-! ## Keep requests -/

/-- SUBMIT KEEP (R134 to R136): refused with the first reason of R134's table, its destination tested sector by sector, else the
job joins the tail of the queue under the first id from the next one on that no job holds (R132), its source base that of the
entry that names the ring, its segments naming for every source offset the programme of that offset's epoch. -/
def Obligations.SubmitKeep : Prop :=
  ∀ (sequence : Byte) (r a n : Nat) (policy : ErrorPolicy) (es : List (Nat × Nat)) (s : State) (v : Option LineReason),
    s.inProgress sequence (.submitKeep r policy a n es) → s.KeyTableLaw → s.RingLaw → s.keep.Law →
    FirstReason (s.submitTable r a n es) v →
    (∀ why, v = some why → exec .submitKeep s = .next ((settle s).turnedAway sequence why))
      ∧ (v = none → ∃ (j : Job) (next : Nat), exec .submitKeep s = .next
            ((settle { s with keep := { s.keep with queue := s.keep.queue ++ [j], nextId := next } }).answered sequence
              .finished [BitVec.ofNat 8 j.id, BitVec.ofNat 8 j.segments.length])
          ∧ next = (if j.id = 255 then 1 else j.id + 1) ∧ (∀ x ∈ s.keep.queue, x.id ≠ j.id) ∧ 1 ≤ j.id ∧ j.id ≤ 255
          ∧ ((∀ x ∈ s.keep.queue, x.id ≠ s.keep.nextId) → j.id = s.keep.nextId)
          ∧ (∃ k ≤ 3, j.id = (s.keep.nextId - 1 + k) % 255 + 1
              ∧ ∀ m < k, ∃ x ∈ s.keep.queue, x.id = (s.keep.nextId - 1 + m) % 255 + 1)
          ∧ (∀ i d, i < Config.regionCount → (s.entry i).active = some d → d.kind = .ring r →
              (∀ m < i, ∀ e, (s.entry m).active = some e → e.kind ≠ .ring r) → j.sourceBase = d.base)
          ∧ j.ring = r ∧ j.start = a ∧ j.cursor = a ∧ j.upto = a + n ∧ j.acceptedUpto = a + n ∧ j.policy = policy
          ∧ j.skipped = 0 ∧ j.phase = .idle ∧ j.stopOutcome = none
          ∧ s.destinationAllowed j.destination n es ∧ j.extents.map (fun x => (x.host, x.count)) = es
          ∧ (∀ x ∈ j.extents, s.extentAllowed j.destination (x.host, x.count) x.disk)
          ∧ j.segments.head?.map Epoch.start = some a
          ∧ ∀ y, a ≤ y → y < a + n → ((j.segments.filter fun g => decide (g.start ≤ y)).getLast?).map Epoch.id =
              ((s.ring r).epochAt y).map Epoch.id)

/-- CANCEL KEEP (R147, R148, R151): refused for id 0 and for an id no job holds; else a Queued job, and the Active one with no
chunk in flight or Transforming, ends at once as Cancelled; the Active one that reads or writes is stopping and is to end
Cancelled, and one that was stopping already keeps its first outcome; the body tells which, every other job stays, and what the
stop gives up at once is said as well. -/
def Obligations.CancelKeep : Prop :=
  ∀ (sequence : Byte) (id : Nat) (s : State), s.inProgress sequence (.cancelKeep id) → s.keep.Law →
    (id = 0 → exec .cancelKeep s = .next ((settle s).turnedAway sequence .badArgument))
      ∧ (id ≠ 0 → (∀ j ∈ s.keep.queue, j.id ≠ id) →
          exec .cancelKeep s = .next ((settle s).turnedAway sequence .notFound))
      ∧ (∀ j ∈ s.keep.queue, j.id = id → ∃ u b, exec .cancelKeep s = .next ((settle u).answered sequence .finished [b])
          ∧ (∀ x ∈ s.keep.queue, x.id ≠ id → x ∈ u.keep.queue)
          ∧ (s.stopsAtOnce j → b = 0x00#8 ∧ (∀ x ∈ u.keep.queue, x.id ≠ id) ∧ s.jobsEnded [j] .cancelled 0x00#8 u)
          ∧ (¬ s.stopsAtOnce j → b = 0x01#8 ∧ (j.stopOutcome = none → j.phase = .reading ∨ j.phase = .writing)
              ∧ u.keep = { s.keep with
                  queue := { j with stopOutcome := some (j.stopOutcome.getD .cancelled) } :: s.keep.queue.tail }
              ∧ u.line = s.line)
          ∧ (s.keep.queue.head? = some j → s.stopGivesUp u j)
          ∧ (s.keep.queue.head? ≠ some j → u.keep.chunk = s.keep.chunk ∧ u.keep.request = s.keep.request
              ∧ u.engine = s.engine ∧ u.drive = s.drive ∧ u.regions = s.regions ∧ u.rings = s.rings))
end

