-- ==== Sys2Proof/Laws/State.lean ====
section
/-! SUPPORT. One lemma per field per update of State: what a named update writes and every field it leaves as it was. -/

namespace Sys2Proof.Machine

/-- `mapVector` is the library's map, in a form that the kernel evaluates. -/
@[simp] theorem mapVector_eq_map {α β : Type} {n : Nat} (f : α → β) (v : Vector α n) : mapVector f v = v.map f := by
  obtain ⟨⟨l⟩, rfl⟩ := v
  simp [mapVector, Vector.map]

@[simp] theorem latch_regions (c : Cause) (s : State) : (latch c s).regions = s.regions := rfl
@[simp] theorem latch_keys (c : Cause) (s : State) : (latch c s).keys = s.keys := rfl
@[simp] theorem latch_rings (c : Cause) (s : State) : (latch c s).rings = s.rings := rfl
@[simp] theorem latch_tracker (c : Cause) (s : State) : (latch c s).tracker = s.tracker := rfl
@[simp] theorem latch_sys (c : Cause) (s : State) : (latch c s).sys = s.sys := rfl
@[simp] theorem latch_drive (c : Cause) (s : State) : (latch c s).drive = s.drive := rfl
@[simp] theorem latch_engine (c : Cause) (s : State) : (latch c s).engine = s.engine := rfl
@[simp] theorem latch_keep (c : Cause) (s : State) : (latch c s).keep = s.keep := rfl
@[simp] theorem latch_clock (c : Cause) (s : State) : (latch c s).clock = s.clock := rfl
@[simp] theorem latch_resetAsserted (c : Cause) (s : State) : (latch c s).resetAsserted = s.resetAsserted := rfl
@[simp] theorem latch_wires (c : Cause) (s : State) : (latch c s).wires = s.wires := rfl
@[simp] theorem latch_fresh (c : Cause) (s : State) : (latch c s).fresh = s.fresh := rfl
@[simp] theorem latch_pending (c : Cause) (s : State) : (latch c s).pending = s.pending := rfl
@[simp] theorem latch_line_latched (c : Cause) (s : State) : (latch c s).line.latched = s.line.latched ||| c.mask := rfl
@[simp] theorem latch_line_enabled (c : Cause) (s : State) : (latch c s).line.enabled = s.line.enabled := rfl
@[simp] theorem latch_line_state (c : Cause) (s : State) : (latch c s).line.state = s.line.state := rfl
@[simp] theorem latch_line_request (c : Cause) (s : State) : (latch c s).line.request = s.line.request := rfl
@[simp] theorem latch_line_reply (c : Cause) (s : State) : (latch c s).line.reply = s.line.reply := rfl
@[simp] theorem latch_line_profile (c : Cause) (s : State) : (latch c s).line.profile = s.line.profile := rfl

@[simp] theorem mapEntry_keys (i : Nat) (f : RegionEntry → RegionEntry) (s : State) : (mapEntry i f s).keys = s.keys := rfl
@[simp] theorem mapEntry_rings (i : Nat) (f : RegionEntry → RegionEntry) (s : State) : (mapEntry i f s).rings = s.rings := rfl
@[simp] theorem mapEntry_tracker (i : Nat) (f : RegionEntry → RegionEntry) (s : State) : (mapEntry i f s).tracker = s.tracker := rfl
@[simp] theorem mapEntry_sys (i : Nat) (f : RegionEntry → RegionEntry) (s : State) : (mapEntry i f s).sys = s.sys := rfl
@[simp] theorem mapEntry_drive (i : Nat) (f : RegionEntry → RegionEntry) (s : State) : (mapEntry i f s).drive = s.drive := rfl
@[simp] theorem mapEntry_engine (i : Nat) (f : RegionEntry → RegionEntry) (s : State) : (mapEntry i f s).engine = s.engine := rfl
@[simp] theorem mapEntry_keep (i : Nat) (f : RegionEntry → RegionEntry) (s : State) : (mapEntry i f s).keep = s.keep := rfl
@[simp] theorem mapEntry_clock (i : Nat) (f : RegionEntry → RegionEntry) (s : State) : (mapEntry i f s).clock = s.clock := rfl
@[simp] theorem mapEntry_line (i : Nat) (f : RegionEntry → RegionEntry) (s : State) : (mapEntry i f s).line = s.line := rfl
@[simp] theorem mapEntry_resetAsserted (i : Nat) (f : RegionEntry → RegionEntry) (s : State) : (mapEntry i f s).resetAsserted = s.resetAsserted := rfl
@[simp] theorem mapEntry_wires (i : Nat) (f : RegionEntry → RegionEntry) (s : State) : (mapEntry i f s).wires = s.wires := rfl
@[simp] theorem mapEntry_fresh (i : Nat) (f : RegionEntry → RegionEntry) (s : State) : (mapEntry i f s).fresh = s.fresh := rfl
@[simp] theorem mapEntry_pending (i : Nat) (f : RegionEntry → RegionEntry) (s : State) : (mapEntry i f s).pending = s.pending := rfl
@[simp] theorem mapEntry_regions_drain (i : Nat) (f : RegionEntry → RegionEntry) (s : State) : (mapEntry i f s).regions.drain = s.regions.drain := rfl

@[simp] theorem setDrain_keys (l : List RecordKey) (s : State) : (setDrain l s).keys = s.keys := rfl
@[simp] theorem setDrain_rings (l : List RecordKey) (s : State) : (setDrain l s).rings = s.rings := rfl
@[simp] theorem setDrain_tracker (l : List RecordKey) (s : State) : (setDrain l s).tracker = s.tracker := rfl
@[simp] theorem setDrain_sys (l : List RecordKey) (s : State) : (setDrain l s).sys = s.sys := rfl
@[simp] theorem setDrain_drive (l : List RecordKey) (s : State) : (setDrain l s).drive = s.drive := rfl
@[simp] theorem setDrain_engine (l : List RecordKey) (s : State) : (setDrain l s).engine = s.engine := rfl
@[simp] theorem setDrain_keep (l : List RecordKey) (s : State) : (setDrain l s).keep = s.keep := rfl
@[simp] theorem setDrain_clock (l : List RecordKey) (s : State) : (setDrain l s).clock = s.clock := rfl
@[simp] theorem setDrain_line (l : List RecordKey) (s : State) : (setDrain l s).line = s.line := rfl
@[simp] theorem setDrain_resetAsserted (l : List RecordKey) (s : State) : (setDrain l s).resetAsserted = s.resetAsserted := rfl
@[simp] theorem setDrain_wires (l : List RecordKey) (s : State) : (setDrain l s).wires = s.wires := rfl
@[simp] theorem setDrain_fresh (l : List RecordKey) (s : State) : (setDrain l s).fresh = s.fresh := rfl
@[simp] theorem setDrain_pending (l : List RecordKey) (s : State) : (setDrain l s).pending = s.pending := rfl
@[simp] theorem setDrain_regions_drain (l : List RecordKey) (s : State) : (setDrain l s).regions.drain = l := rfl
@[simp] theorem setDrain_regions_entries (l : List RecordKey) (s : State) : (setDrain l s).regions.entries = s.regions.entries := rfl

@[simp] theorem setSlot_regions (i : Nat) (x : Slot) (s : State) : (setSlot i x s).regions = s.regions := rfl
@[simp] theorem setSlot_rings (i : Nat) (x : Slot) (s : State) : (setSlot i x s).rings = s.rings := rfl
@[simp] theorem setSlot_tracker (i : Nat) (x : Slot) (s : State) : (setSlot i x s).tracker = s.tracker := rfl
@[simp] theorem setSlot_sys (i : Nat) (x : Slot) (s : State) : (setSlot i x s).sys = s.sys := rfl
@[simp] theorem setSlot_drive (i : Nat) (x : Slot) (s : State) : (setSlot i x s).drive = s.drive := rfl
@[simp] theorem setSlot_engine (i : Nat) (x : Slot) (s : State) : (setSlot i x s).engine = s.engine := rfl
@[simp] theorem setSlot_keep (i : Nat) (x : Slot) (s : State) : (setSlot i x s).keep = s.keep := rfl
@[simp] theorem setSlot_clock (i : Nat) (x : Slot) (s : State) : (setSlot i x s).clock = s.clock := rfl
@[simp] theorem setSlot_line (i : Nat) (x : Slot) (s : State) : (setSlot i x s).line = s.line := rfl
@[simp] theorem setSlot_resetAsserted (i : Nat) (x : Slot) (s : State) : (setSlot i x s).resetAsserted = s.resetAsserted := rfl
@[simp] theorem setSlot_wires (i : Nat) (x : Slot) (s : State) : (setSlot i x s).wires = s.wires := rfl
@[simp] theorem setSlot_fresh (i : Nat) (x : Slot) (s : State) : (setSlot i x s).fresh = s.fresh := rfl
@[simp] theorem setSlot_pending (i : Nat) (x : Slot) (s : State) : (setSlot i x s).pending = s.pending := rfl
@[simp] theorem setSlot_keys_missList (i : Nat) (x : Slot) (s : State) : (setSlot i x s).keys.missList = s.keys.missList := rfl
@[simp] theorem setSlot_keys_lockdown (i : Nat) (x : Slot) (s : State) : (setSlot i x s).keys.lockdown = s.keys.lockdown := rfl
@[simp] theorem setSlot_keys_lockdownSeen (i : Nat) (x : Slot) (s : State) : (setSlot i x s).keys.lockdownSeen = s.keys.lockdownSeen := rfl
@[simp] theorem setSlot_keys_slots (i : Nat) (x : Slot) (s : State) : (setSlot i x s).keys.slots = s.keys.slots.setIfInBounds i x := rfl

@[simp] theorem setMissList_regions (l : List ProgId) (s : State) : (setMissList l s).regions = s.regions := rfl
@[simp] theorem setMissList_rings (l : List ProgId) (s : State) : (setMissList l s).rings = s.rings := rfl
@[simp] theorem setMissList_tracker (l : List ProgId) (s : State) : (setMissList l s).tracker = s.tracker := rfl
@[simp] theorem setMissList_sys (l : List ProgId) (s : State) : (setMissList l s).sys = s.sys := rfl
@[simp] theorem setMissList_drive (l : List ProgId) (s : State) : (setMissList l s).drive = s.drive := rfl
@[simp] theorem setMissList_engine (l : List ProgId) (s : State) : (setMissList l s).engine = s.engine := rfl
@[simp] theorem setMissList_keep (l : List ProgId) (s : State) : (setMissList l s).keep = s.keep := rfl
@[simp] theorem setMissList_clock (l : List ProgId) (s : State) : (setMissList l s).clock = s.clock := rfl
@[simp] theorem setMissList_line (l : List ProgId) (s : State) : (setMissList l s).line = s.line := rfl
@[simp] theorem setMissList_resetAsserted (l : List ProgId) (s : State) : (setMissList l s).resetAsserted = s.resetAsserted := rfl
@[simp] theorem setMissList_wires (l : List ProgId) (s : State) : (setMissList l s).wires = s.wires := rfl
@[simp] theorem setMissList_fresh (l : List ProgId) (s : State) : (setMissList l s).fresh = s.fresh := rfl
@[simp] theorem setMissList_pending (l : List ProgId) (s : State) : (setMissList l s).pending = s.pending := rfl
@[simp] theorem setMissList_keys_missList (l : List ProgId) (s : State) : (setMissList l s).keys.missList = l := rfl
@[simp] theorem setMissList_keys_slots (l : List ProgId) (s : State) : (setMissList l s).keys.slots = s.keys.slots := rfl
@[simp] theorem setMissList_keys_lockdown (l : List ProgId) (s : State) : (setMissList l s).keys.lockdown = s.keys.lockdown := rfl
@[simp] theorem setMissList_keys_lockdownSeen (l : List ProgId) (s : State) : (setMissList l s).keys.lockdownSeen = s.keys.lockdownSeen := rfl

@[simp] theorem mapRing_regions (r : Nat) (f : Ring → Ring) (s : State) : (mapRing r f s).regions = s.regions := rfl
@[simp] theorem mapRing_keys (r : Nat) (f : Ring → Ring) (s : State) : (mapRing r f s).keys = s.keys := rfl
@[simp] theorem mapRing_tracker (r : Nat) (f : Ring → Ring) (s : State) : (mapRing r f s).tracker = s.tracker := rfl
@[simp] theorem mapRing_sys (r : Nat) (f : Ring → Ring) (s : State) : (mapRing r f s).sys = s.sys := rfl
@[simp] theorem mapRing_drive (r : Nat) (f : Ring → Ring) (s : State) : (mapRing r f s).drive = s.drive := rfl
@[simp] theorem mapRing_engine (r : Nat) (f : Ring → Ring) (s : State) : (mapRing r f s).engine = s.engine := rfl
@[simp] theorem mapRing_keep (r : Nat) (f : Ring → Ring) (s : State) : (mapRing r f s).keep = s.keep := rfl
@[simp] theorem mapRing_clock (r : Nat) (f : Ring → Ring) (s : State) : (mapRing r f s).clock = s.clock := rfl
@[simp] theorem mapRing_line (r : Nat) (f : Ring → Ring) (s : State) : (mapRing r f s).line = s.line := rfl
@[simp] theorem mapRing_resetAsserted (r : Nat) (f : Ring → Ring) (s : State) : (mapRing r f s).resetAsserted = s.resetAsserted := rfl
@[simp] theorem mapRing_wires (r : Nat) (f : Ring → Ring) (s : State) : (mapRing r f s).wires = s.wires := rfl
@[simp] theorem mapRing_fresh (r : Nat) (f : Ring → Ring) (s : State) : (mapRing r f s).fresh = s.fresh := rfl
@[simp] theorem mapRing_pending (r : Nat) (f : Ring → Ring) (s : State) : (mapRing r f s).pending = s.pending := rfl

@[simp] theorem mapRings_regions (f : Ring → Ring) (s : State) : (mapRings f s).regions = s.regions := rfl
@[simp] theorem mapRings_keys (f : Ring → Ring) (s : State) : (mapRings f s).keys = s.keys := rfl
@[simp] theorem mapRings_tracker (f : Ring → Ring) (s : State) : (mapRings f s).tracker = s.tracker := rfl
@[simp] theorem mapRings_sys (f : Ring → Ring) (s : State) : (mapRings f s).sys = s.sys := rfl
@[simp] theorem mapRings_drive (f : Ring → Ring) (s : State) : (mapRings f s).drive = s.drive := rfl
@[simp] theorem mapRings_engine (f : Ring → Ring) (s : State) : (mapRings f s).engine = s.engine := rfl
@[simp] theorem mapRings_keep (f : Ring → Ring) (s : State) : (mapRings f s).keep = s.keep := rfl
@[simp] theorem mapRings_clock (f : Ring → Ring) (s : State) : (mapRings f s).clock = s.clock := rfl
@[simp] theorem mapRings_line (f : Ring → Ring) (s : State) : (mapRings f s).line = s.line := rfl
@[simp] theorem mapRings_resetAsserted (f : Ring → Ring) (s : State) : (mapRings f s).resetAsserted = s.resetAsserted := rfl
@[simp] theorem mapRings_wires (f : Ring → Ring) (s : State) : (mapRings f s).wires = s.wires := rfl
@[simp] theorem mapRings_fresh (f : Ring → Ring) (s : State) : (mapRings f s).fresh = s.fresh := rfl
@[simp] theorem mapRings_pending (f : Ring → Ring) (s : State) : (mapRings f s).pending = s.pending := rfl
@[simp] theorem mapRings_rings_set (f : Ring → Ring) (s : State) : (mapRings f s).rings = mapVector f s.rings := rfl

@[simp] theorem mapRecord_regions (k : RecordKey) (f : Record → Record) (s : State) : (mapRecord k f s).regions = s.regions := rfl
@[simp] theorem mapRecord_keys (k : RecordKey) (f : Record → Record) (s : State) : (mapRecord k f s).keys = s.keys := rfl
@[simp] theorem mapRecord_rings (k : RecordKey) (f : Record → Record) (s : State) : (mapRecord k f s).rings = s.rings := rfl
@[simp] theorem mapRecord_sys (k : RecordKey) (f : Record → Record) (s : State) : (mapRecord k f s).sys = s.sys := rfl
@[simp] theorem mapRecord_drive (k : RecordKey) (f : Record → Record) (s : State) : (mapRecord k f s).drive = s.drive := rfl
@[simp] theorem mapRecord_engine (k : RecordKey) (f : Record → Record) (s : State) : (mapRecord k f s).engine = s.engine := rfl
@[simp] theorem mapRecord_keep (k : RecordKey) (f : Record → Record) (s : State) : (mapRecord k f s).keep = s.keep := rfl
@[simp] theorem mapRecord_clock (k : RecordKey) (f : Record → Record) (s : State) : (mapRecord k f s).clock = s.clock := rfl
@[simp] theorem mapRecord_line (k : RecordKey) (f : Record → Record) (s : State) : (mapRecord k f s).line = s.line := rfl
@[simp] theorem mapRecord_resetAsserted (k : RecordKey) (f : Record → Record) (s : State) : (mapRecord k f s).resetAsserted = s.resetAsserted := rfl
@[simp] theorem mapRecord_wires (k : RecordKey) (f : Record → Record) (s : State) : (mapRecord k f s).wires = s.wires := rfl
@[simp] theorem mapRecord_fresh (k : RecordKey) (f : Record → Record) (s : State) : (mapRecord k f s).fresh = s.fresh := rfl
@[simp] theorem mapRecord_pending (k : RecordKey) (f : Record → Record) (s : State) : (mapRecord k f s).pending = s.pending := rfl
@[simp] theorem mapRecord_tracker_nextOrder (k : RecordKey) (f : Record → Record) (s : State) : (mapRecord k f s).tracker.nextOrder = s.tracker.nextOrder := rfl
@[simp] theorem mapRecord_tracker_keyWait (k : RecordKey) (f : Record → Record) (s : State) : (mapRecord k f s).tracker.keyWait = s.tracker.keyWait := rfl
@[simp] theorem mapRecord_tracker_ringOrder (k : RecordKey) (f : Record → Record) (s : State) : (mapRecord k f s).tracker.ringOrder = s.tracker.ringOrder := rfl
@[simp] theorem mapRecord_tracker_overrun (k : RecordKey) (f : Record → Record) (s : State) : (mapRecord k f s).tracker.overrun = s.tracker.overrun := rfl
@[simp] theorem mapRecord_tracker_tagWait (k : RecordKey) (f : Record → Record) (s : State) : (mapRecord k f s).tracker.tagWait = s.tracker.tagWait := rfl

@[simp] theorem dropRecord_regions (k : RecordKey) (s : State) : (dropRecord k s).regions = s.regions := rfl
@[simp] theorem dropRecord_keys (k : RecordKey) (s : State) : (dropRecord k s).keys = s.keys := rfl
@[simp] theorem dropRecord_rings (k : RecordKey) (s : State) : (dropRecord k s).rings = s.rings := rfl
@[simp] theorem dropRecord_sys (k : RecordKey) (s : State) : (dropRecord k s).sys = s.sys := rfl
@[simp] theorem dropRecord_drive (k : RecordKey) (s : State) : (dropRecord k s).drive = s.drive := rfl
@[simp] theorem dropRecord_engine (k : RecordKey) (s : State) : (dropRecord k s).engine = s.engine := rfl
@[simp] theorem dropRecord_keep (k : RecordKey) (s : State) : (dropRecord k s).keep = s.keep := rfl
@[simp] theorem dropRecord_clock (k : RecordKey) (s : State) : (dropRecord k s).clock = s.clock := rfl
@[simp] theorem dropRecord_line (k : RecordKey) (s : State) : (dropRecord k s).line = s.line := rfl
@[simp] theorem dropRecord_resetAsserted (k : RecordKey) (s : State) : (dropRecord k s).resetAsserted = s.resetAsserted := rfl
@[simp] theorem dropRecord_wires (k : RecordKey) (s : State) : (dropRecord k s).wires = s.wires := rfl
@[simp] theorem dropRecord_fresh (k : RecordKey) (s : State) : (dropRecord k s).fresh = s.fresh := rfl
@[simp] theorem dropRecord_pending (k : RecordKey) (s : State) : (dropRecord k s).pending = s.pending := rfl
@[simp] theorem dropRecord_tracker_nextOrder (k : RecordKey) (s : State) : (dropRecord k s).tracker.nextOrder = s.tracker.nextOrder := rfl
@[simp] theorem dropRecord_tracker_keyWait (k : RecordKey) (s : State) : (dropRecord k s).tracker.keyWait = s.tracker.keyWait := rfl
@[simp] theorem dropRecord_tracker_ringOrder (k : RecordKey) (s : State) : (dropRecord k s).tracker.ringOrder = s.tracker.ringOrder := rfl
@[simp] theorem dropRecord_tracker_overrun (k : RecordKey) (s : State) : (dropRecord k s).tracker.overrun = s.tracker.overrun := rfl
@[simp] theorem dropRecord_tracker_tagWait (k : RecordKey) (s : State) : (dropRecord k s).tracker.tagWait = s.tracker.tagWait := rfl

@[simp] theorem leaveHolds_regions (k : RecordKey) (s : State) : (leaveHolds k s).regions = s.regions := rfl
@[simp] theorem leaveHolds_keys (k : RecordKey) (s : State) : (leaveHolds k s).keys = s.keys := rfl
@[simp] theorem leaveHolds_rings (k : RecordKey) (s : State) : (leaveHolds k s).rings = s.rings := rfl
@[simp] theorem leaveHolds_sys (k : RecordKey) (s : State) : (leaveHolds k s).sys = s.sys := rfl
@[simp] theorem leaveHolds_drive (k : RecordKey) (s : State) : (leaveHolds k s).drive = s.drive := rfl
@[simp] theorem leaveHolds_engine (k : RecordKey) (s : State) : (leaveHolds k s).engine = s.engine := rfl
@[simp] theorem leaveHolds_keep (k : RecordKey) (s : State) : (leaveHolds k s).keep = s.keep := rfl
@[simp] theorem leaveHolds_clock (k : RecordKey) (s : State) : (leaveHolds k s).clock = s.clock := rfl
@[simp] theorem leaveHolds_line (k : RecordKey) (s : State) : (leaveHolds k s).line = s.line := rfl
@[simp] theorem leaveHolds_resetAsserted (k : RecordKey) (s : State) : (leaveHolds k s).resetAsserted = s.resetAsserted := rfl
@[simp] theorem leaveHolds_wires (k : RecordKey) (s : State) : (leaveHolds k s).wires = s.wires := rfl
@[simp] theorem leaveHolds_fresh (k : RecordKey) (s : State) : (leaveHolds k s).fresh = s.fresh := rfl
@[simp] theorem leaveHolds_pending (k : RecordKey) (s : State) : (leaveHolds k s).pending = s.pending := rfl
@[simp] theorem leaveHolds_tracker_records (k : RecordKey) (s : State) : (leaveHolds k s).tracker.records = s.tracker.records := rfl
@[simp] theorem leaveHolds_tracker_nextOrder (k : RecordKey) (s : State) : (leaveHolds k s).tracker.nextOrder = s.tracker.nextOrder := rfl

@[simp] theorem emitUp_regions (x : UpItem) (s : State) : (emitUp x s).regions = s.regions := rfl
@[simp] theorem emitUp_keys (x : UpItem) (s : State) : (emitUp x s).keys = s.keys := rfl
@[simp] theorem emitUp_rings (x : UpItem) (s : State) : (emitUp x s).rings = s.rings := rfl
@[simp] theorem emitUp_tracker (x : UpItem) (s : State) : (emitUp x s).tracker = s.tracker := rfl
@[simp] theorem emitUp_sys (x : UpItem) (s : State) : (emitUp x s).sys = s.sys := rfl
@[simp] theorem emitUp_drive (x : UpItem) (s : State) : (emitUp x s).drive = s.drive := rfl
@[simp] theorem emitUp_engine (x : UpItem) (s : State) : (emitUp x s).engine = s.engine := rfl
@[simp] theorem emitUp_keep (x : UpItem) (s : State) : (emitUp x s).keep = s.keep := rfl
@[simp] theorem emitUp_clock (x : UpItem) (s : State) : (emitUp x s).clock = s.clock := rfl
@[simp] theorem emitUp_line (x : UpItem) (s : State) : (emitUp x s).line = s.line := rfl
@[simp] theorem emitUp_resetAsserted (x : UpItem) (s : State) : (emitUp x s).resetAsserted = s.resetAsserted := rfl
@[simp] theorem emitUp_fresh (x : UpItem) (s : State) : (emitUp x s).fresh = s.fresh := rfl
@[simp] theorem emitUp_pending (x : UpItem) (s : State) : (emitUp x s).pending = s.pending := rfl
@[simp] theorem emitUp_wires_up (x : UpItem) (s : State) : (emitUp x s).wires.up = s.wires.up ++ [x] := rfl
@[simp] theorem emitUp_wires_down (x : UpItem) (s : State) : (emitUp x s).wires.down = s.wires.down := rfl
@[simp] theorem emitUp_wires_spi (x : UpItem) (s : State) : (emitUp x s).wires.spi = s.wires.spi := rfl

@[simp] theorem emitDown_regions (x : DownItem) (s : State) : (emitDown x s).regions = s.regions := rfl
@[simp] theorem emitDown_keys (x : DownItem) (s : State) : (emitDown x s).keys = s.keys := rfl
@[simp] theorem emitDown_rings (x : DownItem) (s : State) : (emitDown x s).rings = s.rings := rfl
@[simp] theorem emitDown_tracker (x : DownItem) (s : State) : (emitDown x s).tracker = s.tracker := rfl
@[simp] theorem emitDown_sys (x : DownItem) (s : State) : (emitDown x s).sys = s.sys := rfl
@[simp] theorem emitDown_drive (x : DownItem) (s : State) : (emitDown x s).drive = s.drive := rfl
@[simp] theorem emitDown_engine (x : DownItem) (s : State) : (emitDown x s).engine = s.engine := rfl
@[simp] theorem emitDown_keep (x : DownItem) (s : State) : (emitDown x s).keep = s.keep := rfl
@[simp] theorem emitDown_clock (x : DownItem) (s : State) : (emitDown x s).clock = s.clock := rfl
@[simp] theorem emitDown_line (x : DownItem) (s : State) : (emitDown x s).line = s.line := rfl
@[simp] theorem emitDown_resetAsserted (x : DownItem) (s : State) : (emitDown x s).resetAsserted = s.resetAsserted := rfl
@[simp] theorem emitDown_fresh (x : DownItem) (s : State) : (emitDown x s).fresh = s.fresh := rfl
@[simp] theorem emitDown_pending (x : DownItem) (s : State) : (emitDown x s).pending = s.pending := rfl
@[simp] theorem emitDown_wires_up (x : DownItem) (s : State) : (emitDown x s).wires.up = s.wires.up := rfl
@[simp] theorem emitDown_wires_down (x : DownItem) (s : State) : (emitDown x s).wires.down = s.wires.down ++ [x] := rfl
@[simp] theorem emitDown_wires_spi (x : DownItem) (s : State) : (emitDown x s).wires.spi = s.wires.spi := rfl

@[simp] theorem emitSpi_regions (x : List Byte) (s : State) : (emitSpi x s).regions = s.regions := rfl
@[simp] theorem emitSpi_keys (x : List Byte) (s : State) : (emitSpi x s).keys = s.keys := rfl
@[simp] theorem emitSpi_rings (x : List Byte) (s : State) : (emitSpi x s).rings = s.rings := rfl
@[simp] theorem emitSpi_tracker (x : List Byte) (s : State) : (emitSpi x s).tracker = s.tracker := rfl
@[simp] theorem emitSpi_sys (x : List Byte) (s : State) : (emitSpi x s).sys = s.sys := rfl
@[simp] theorem emitSpi_drive (x : List Byte) (s : State) : (emitSpi x s).drive = s.drive := rfl
@[simp] theorem emitSpi_engine (x : List Byte) (s : State) : (emitSpi x s).engine = s.engine := rfl
@[simp] theorem emitSpi_keep (x : List Byte) (s : State) : (emitSpi x s).keep = s.keep := rfl
@[simp] theorem emitSpi_clock (x : List Byte) (s : State) : (emitSpi x s).clock = s.clock := rfl
@[simp] theorem emitSpi_line (x : List Byte) (s : State) : (emitSpi x s).line = s.line := rfl
@[simp] theorem emitSpi_resetAsserted (x : List Byte) (s : State) : (emitSpi x s).resetAsserted = s.resetAsserted := rfl
@[simp] theorem emitSpi_fresh (x : List Byte) (s : State) : (emitSpi x s).fresh = s.fresh := rfl
@[simp] theorem emitSpi_pending (x : List Byte) (s : State) : (emitSpi x s).pending = s.pending := rfl
@[simp] theorem emitSpi_wires_up (x : List Byte) (s : State) : (emitSpi x s).wires.up = s.wires.up := rfl
@[simp] theorem emitSpi_wires_down (x : List Byte) (s : State) : (emitSpi x s).wires.down = s.wires.down := rfl
@[simp] theorem emitSpi_wires_spi (x : List Byte) (s : State) : (emitSpi x s).wires.spi = s.wires.spi ++ [x] := rfl

@[simp] theorem setTag_regions (t : Nat) (u : Option TagUser) (s : State) : (setTag t u s).regions = s.regions := rfl
@[simp] theorem setTag_keys (t : Nat) (u : Option TagUser) (s : State) : (setTag t u s).keys = s.keys := rfl
@[simp] theorem setTag_rings (t : Nat) (u : Option TagUser) (s : State) : (setTag t u s).rings = s.rings := rfl
@[simp] theorem setTag_tracker (t : Nat) (u : Option TagUser) (s : State) : (setTag t u s).tracker = s.tracker := rfl
@[simp] theorem setTag_sys (t : Nat) (u : Option TagUser) (s : State) : (setTag t u s).sys = s.sys := rfl
@[simp] theorem setTag_engine (t : Nat) (u : Option TagUser) (s : State) : (setTag t u s).engine = s.engine := rfl
@[simp] theorem setTag_keep (t : Nat) (u : Option TagUser) (s : State) : (setTag t u s).keep = s.keep := rfl
@[simp] theorem setTag_clock (t : Nat) (u : Option TagUser) (s : State) : (setTag t u s).clock = s.clock := rfl
@[simp] theorem setTag_line (t : Nat) (u : Option TagUser) (s : State) : (setTag t u s).line = s.line := rfl
@[simp] theorem setTag_resetAsserted (t : Nat) (u : Option TagUser) (s : State) : (setTag t u s).resetAsserted = s.resetAsserted := rfl
@[simp] theorem setTag_wires (t : Nat) (u : Option TagUser) (s : State) : (setTag t u s).wires = s.wires := rfl
@[simp] theorem setTag_fresh (t : Nat) (u : Option TagUser) (s : State) : (setTag t u s).fresh = s.fresh := rfl
@[simp] theorem setTag_pending (t : Nat) (u : Option TagUser) (s : State) : (setTag t u s).pending = s.pending := rfl
@[simp] theorem setTag_drive_link (t : Nat) (u : Option TagUser) (s : State) : (setTag t u s).drive.link = s.drive.link := rfl
@[simp] theorem setTag_drive_signature (t : Nat) (u : Option TagUser) (s : State) : (setTag t u s).drive.signature = s.drive.signature := rfl
@[simp] theorem setTag_drive_issueOrder (t : Nat) (u : Option TagUser) (s : State) : (setTag t u s).drive.issueOrder = s.drive.issueOrder := rfl
@[simp] theorem setTag_drive_outstanding (t : Nat) (u : Option TagUser) (s : State) : (setTag t u s).drive.outstanding = s.drive.outstanding := rfl
@[simp] theorem setTag_drive_inbox (t : Nat) (u : Option TagUser) (s : State) : (setTag t u s).drive.inbox = s.drive.inbox := rfl
@[simp] theorem setTag_drive_sending (t : Nat) (u : Option TagUser) (s : State) : (setTag t u s).drive.sending = s.drive.sending := rfl
@[simp] theorem setTag_drive_lowPower (t : Nat) (u : Option TagUser) (s : State) : (setTag t u s).drive.lowPower = s.drive.lowPower := rfl

@[simp] theorem handOver_regions (c : DownCmd) (s : State) : (handOver c s).regions = s.regions := rfl
@[simp] theorem handOver_keys (c : DownCmd) (s : State) : (handOver c s).keys = s.keys := rfl
@[simp] theorem handOver_rings (c : DownCmd) (s : State) : (handOver c s).rings = s.rings := rfl
@[simp] theorem handOver_tracker (c : DownCmd) (s : State) : (handOver c s).tracker = s.tracker := rfl
@[simp] theorem handOver_sys (c : DownCmd) (s : State) : (handOver c s).sys = s.sys := rfl
@[simp] theorem handOver_engine (c : DownCmd) (s : State) : (handOver c s).engine = s.engine := rfl
@[simp] theorem handOver_keep (c : DownCmd) (s : State) : (handOver c s).keep = s.keep := rfl
@[simp] theorem handOver_clock (c : DownCmd) (s : State) : (handOver c s).clock = s.clock := rfl
@[simp] theorem handOver_line (c : DownCmd) (s : State) : (handOver c s).line = s.line := rfl
@[simp] theorem handOver_resetAsserted (c : DownCmd) (s : State) : (handOver c s).resetAsserted = s.resetAsserted := rfl
@[simp] theorem handOver_wires (c : DownCmd) (s : State) : (handOver c s).wires = s.wires := rfl
@[simp] theorem handOver_fresh (c : DownCmd) (s : State) : (handOver c s).fresh = s.fresh := rfl
@[simp] theorem handOver_pending (c : DownCmd) (s : State) : (handOver c s).pending = s.pending := rfl
@[simp] theorem handOver_drive_link (c : DownCmd) (s : State) : (handOver c s).drive.link = s.drive.link := rfl
@[simp] theorem handOver_drive_signature (c : DownCmd) (s : State) : (handOver c s).drive.signature = s.drive.signature := rfl
@[simp] theorem handOver_drive_tags (c : DownCmd) (s : State) : (handOver c s).drive.tags = s.drive.tags := rfl
@[simp] theorem handOver_drive_issueOrder (c : DownCmd) (s : State) : (handOver c s).drive.issueOrder = s.drive.issueOrder ++ [c] := rfl
@[simp] theorem handOver_drive_outstanding (c : DownCmd) (s : State) : (handOver c s).drive.outstanding = s.drive.outstanding := rfl
@[simp] theorem handOver_drive_inbox (c : DownCmd) (s : State) : (handOver c s).drive.inbox = s.drive.inbox := rfl
@[simp] theorem handOver_drive_sending (c : DownCmd) (s : State) : (handOver c s).drive.sending = s.drive.sending := rfl

@[simp] theorem mapDown_regions (p : DownCmd → Bool) (f : DownCmd → DownCmd) (s : State) : (mapDown p f s).regions = s.regions := rfl
@[simp] theorem mapDown_keys (p : DownCmd → Bool) (f : DownCmd → DownCmd) (s : State) : (mapDown p f s).keys = s.keys := rfl
@[simp] theorem mapDown_rings (p : DownCmd → Bool) (f : DownCmd → DownCmd) (s : State) : (mapDown p f s).rings = s.rings := rfl
@[simp] theorem mapDown_tracker (p : DownCmd → Bool) (f : DownCmd → DownCmd) (s : State) : (mapDown p f s).tracker = s.tracker := rfl
@[simp] theorem mapDown_sys (p : DownCmd → Bool) (f : DownCmd → DownCmd) (s : State) : (mapDown p f s).sys = s.sys := rfl
@[simp] theorem mapDown_engine (p : DownCmd → Bool) (f : DownCmd → DownCmd) (s : State) : (mapDown p f s).engine = s.engine := rfl
@[simp] theorem mapDown_keep (p : DownCmd → Bool) (f : DownCmd → DownCmd) (s : State) : (mapDown p f s).keep = s.keep := rfl
@[simp] theorem mapDown_clock (p : DownCmd → Bool) (f : DownCmd → DownCmd) (s : State) : (mapDown p f s).clock = s.clock := rfl
@[simp] theorem mapDown_line (p : DownCmd → Bool) (f : DownCmd → DownCmd) (s : State) : (mapDown p f s).line = s.line := rfl
@[simp] theorem mapDown_resetAsserted (p : DownCmd → Bool) (f : DownCmd → DownCmd) (s : State) : (mapDown p f s).resetAsserted = s.resetAsserted := rfl
@[simp] theorem mapDown_wires (p : DownCmd → Bool) (f : DownCmd → DownCmd) (s : State) : (mapDown p f s).wires = s.wires := rfl
@[simp] theorem mapDown_fresh (p : DownCmd → Bool) (f : DownCmd → DownCmd) (s : State) : (mapDown p f s).fresh = s.fresh := rfl
@[simp] theorem mapDown_pending (p : DownCmd → Bool) (f : DownCmd → DownCmd) (s : State) : (mapDown p f s).pending = s.pending := rfl
@[simp] theorem mapDown_drive_link (p : DownCmd → Bool) (f : DownCmd → DownCmd) (s : State) : (mapDown p f s).drive.link = s.drive.link := rfl
@[simp] theorem mapDown_drive_signature (p : DownCmd → Bool) (f : DownCmd → DownCmd) (s : State) : (mapDown p f s).drive.signature = s.drive.signature := rfl
@[simp] theorem mapDown_drive_tags (p : DownCmd → Bool) (f : DownCmd → DownCmd) (s : State) : (mapDown p f s).drive.tags = s.drive.tags := rfl
@[simp] theorem mapDown_drive_inbox (p : DownCmd → Bool) (f : DownCmd → DownCmd) (s : State) : (mapDown p f s).drive.inbox = s.drive.inbox := rfl

@[simp] theorem removeDown_regions (p : DownCmd → Bool) (s : State) : (removeDown p s).regions = s.regions := rfl
@[simp] theorem removeDown_keys (p : DownCmd → Bool) (s : State) : (removeDown p s).keys = s.keys := rfl
@[simp] theorem removeDown_rings (p : DownCmd → Bool) (s : State) : (removeDown p s).rings = s.rings := rfl
@[simp] theorem removeDown_tracker (p : DownCmd → Bool) (s : State) : (removeDown p s).tracker = s.tracker := rfl
@[simp] theorem removeDown_sys (p : DownCmd → Bool) (s : State) : (removeDown p s).sys = s.sys := rfl
@[simp] theorem removeDown_engine (p : DownCmd → Bool) (s : State) : (removeDown p s).engine = s.engine := rfl
@[simp] theorem removeDown_keep (p : DownCmd → Bool) (s : State) : (removeDown p s).keep = s.keep := rfl
@[simp] theorem removeDown_clock (p : DownCmd → Bool) (s : State) : (removeDown p s).clock = s.clock := rfl
@[simp] theorem removeDown_line (p : DownCmd → Bool) (s : State) : (removeDown p s).line = s.line := rfl
@[simp] theorem removeDown_resetAsserted (p : DownCmd → Bool) (s : State) : (removeDown p s).resetAsserted = s.resetAsserted := rfl
@[simp] theorem removeDown_wires (p : DownCmd → Bool) (s : State) : (removeDown p s).wires = s.wires := rfl
@[simp] theorem removeDown_fresh (p : DownCmd → Bool) (s : State) : (removeDown p s).fresh = s.fresh := rfl
@[simp] theorem removeDown_pending (p : DownCmd → Bool) (s : State) : (removeDown p s).pending = s.pending := rfl
@[simp] theorem removeDown_drive_link (p : DownCmd → Bool) (s : State) : (removeDown p s).drive.link = s.drive.link := rfl
@[simp] theorem removeDown_drive_signature (p : DownCmd → Bool) (s : State) : (removeDown p s).drive.signature = s.drive.signature := rfl
@[simp] theorem removeDown_drive_tags (p : DownCmd → Bool) (s : State) : (removeDown p s).drive.tags = s.drive.tags := rfl
@[simp] theorem removeDown_drive_inbox (p : DownCmd → Bool) (s : State) : (removeDown p s).drive.inbox = s.drive.inbox := rfl

@[simp] theorem setInbox_regions (l : List DiskFrame) (s : State) : (setInbox l s).regions = s.regions := rfl
@[simp] theorem setInbox_keys (l : List DiskFrame) (s : State) : (setInbox l s).keys = s.keys := rfl
@[simp] theorem setInbox_rings (l : List DiskFrame) (s : State) : (setInbox l s).rings = s.rings := rfl
@[simp] theorem setInbox_tracker (l : List DiskFrame) (s : State) : (setInbox l s).tracker = s.tracker := rfl
@[simp] theorem setInbox_sys (l : List DiskFrame) (s : State) : (setInbox l s).sys = s.sys := rfl
@[simp] theorem setInbox_engine (l : List DiskFrame) (s : State) : (setInbox l s).engine = s.engine := rfl
@[simp] theorem setInbox_keep (l : List DiskFrame) (s : State) : (setInbox l s).keep = s.keep := rfl
@[simp] theorem setInbox_clock (l : List DiskFrame) (s : State) : (setInbox l s).clock = s.clock := rfl
@[simp] theorem setInbox_line (l : List DiskFrame) (s : State) : (setInbox l s).line = s.line := rfl
@[simp] theorem setInbox_resetAsserted (l : List DiskFrame) (s : State) : (setInbox l s).resetAsserted = s.resetAsserted := rfl
@[simp] theorem setInbox_wires (l : List DiskFrame) (s : State) : (setInbox l s).wires = s.wires := rfl
@[simp] theorem setInbox_fresh (l : List DiskFrame) (s : State) : (setInbox l s).fresh = s.fresh := rfl
@[simp] theorem setInbox_pending (l : List DiskFrame) (s : State) : (setInbox l s).pending = s.pending := rfl
@[simp] theorem setInbox_drive_link (l : List DiskFrame) (s : State) : (setInbox l s).drive.link = s.drive.link := rfl
@[simp] theorem setInbox_drive_signature (l : List DiskFrame) (s : State) : (setInbox l s).drive.signature = s.drive.signature := rfl
@[simp] theorem setInbox_drive_tags (l : List DiskFrame) (s : State) : (setInbox l s).drive.tags = s.drive.tags := rfl
@[simp] theorem setInbox_drive_issueOrder (l : List DiskFrame) (s : State) : (setInbox l s).drive.issueOrder = s.drive.issueOrder := rfl
@[simp] theorem setInbox_drive_outstanding (l : List DiskFrame) (s : State) : (setInbox l s).drive.outstanding = s.drive.outstanding := rfl
@[simp] theorem setInbox_drive_inbox (l : List DiskFrame) (s : State) : (setInbox l s).drive.inbox = l := rfl

@[simp] theorem mapOutstanding_regions (t : Option Nat) (f : DownCmd → DownCmd) (s : State) : (mapOutstanding t f s).regions = s.regions := rfl
@[simp] theorem mapOutstanding_keys (t : Option Nat) (f : DownCmd → DownCmd) (s : State) : (mapOutstanding t f s).keys = s.keys := rfl
@[simp] theorem mapOutstanding_rings (t : Option Nat) (f : DownCmd → DownCmd) (s : State) : (mapOutstanding t f s).rings = s.rings := rfl
@[simp] theorem mapOutstanding_tracker (t : Option Nat) (f : DownCmd → DownCmd) (s : State) : (mapOutstanding t f s).tracker = s.tracker := rfl
@[simp] theorem mapOutstanding_sys (t : Option Nat) (f : DownCmd → DownCmd) (s : State) : (mapOutstanding t f s).sys = s.sys := rfl
@[simp] theorem mapOutstanding_engine (t : Option Nat) (f : DownCmd → DownCmd) (s : State) : (mapOutstanding t f s).engine = s.engine := rfl
@[simp] theorem mapOutstanding_keep (t : Option Nat) (f : DownCmd → DownCmd) (s : State) : (mapOutstanding t f s).keep = s.keep := rfl
@[simp] theorem mapOutstanding_clock (t : Option Nat) (f : DownCmd → DownCmd) (s : State) : (mapOutstanding t f s).clock = s.clock := rfl
@[simp] theorem mapOutstanding_line (t : Option Nat) (f : DownCmd → DownCmd) (s : State) : (mapOutstanding t f s).line = s.line := rfl
@[simp] theorem mapOutstanding_resetAsserted (t : Option Nat) (f : DownCmd → DownCmd) (s : State) : (mapOutstanding t f s).resetAsserted = s.resetAsserted := rfl
@[simp] theorem mapOutstanding_wires (t : Option Nat) (f : DownCmd → DownCmd) (s : State) : (mapOutstanding t f s).wires = s.wires := rfl
@[simp] theorem mapOutstanding_fresh (t : Option Nat) (f : DownCmd → DownCmd) (s : State) : (mapOutstanding t f s).fresh = s.fresh := rfl
@[simp] theorem mapOutstanding_pending (t : Option Nat) (f : DownCmd → DownCmd) (s : State) : (mapOutstanding t f s).pending = s.pending := rfl
@[simp] theorem mapOutstanding_drive_link (t : Option Nat) (f : DownCmd → DownCmd) (s : State) : (mapOutstanding t f s).drive.link = s.drive.link := rfl
@[simp] theorem mapOutstanding_drive_signature (t : Option Nat) (f : DownCmd → DownCmd) (s : State) : (mapOutstanding t f s).drive.signature = s.drive.signature := rfl
@[simp] theorem mapOutstanding_drive_tags (t : Option Nat) (f : DownCmd → DownCmd) (s : State) : (mapOutstanding t f s).drive.tags = s.drive.tags := rfl
@[simp] theorem mapOutstanding_drive_issueOrder (t : Option Nat) (f : DownCmd → DownCmd) (s : State) : (mapOutstanding t f s).drive.issueOrder = s.drive.issueOrder := rfl
@[simp] theorem mapOutstanding_drive_inbox (t : Option Nat) (f : DownCmd → DownCmd) (s : State) : (mapOutstanding t f s).drive.inbox = s.drive.inbox := rfl

@[simp] theorem setDriveLink_regions (l : DriveLink) (s : State) : (setDriveLink l s).regions = s.regions := rfl
@[simp] theorem setDriveLink_keys (l : DriveLink) (s : State) : (setDriveLink l s).keys = s.keys := rfl
@[simp] theorem setDriveLink_rings (l : DriveLink) (s : State) : (setDriveLink l s).rings = s.rings := rfl
@[simp] theorem setDriveLink_tracker (l : DriveLink) (s : State) : (setDriveLink l s).tracker = s.tracker := rfl
@[simp] theorem setDriveLink_sys (l : DriveLink) (s : State) : (setDriveLink l s).sys = s.sys := rfl
@[simp] theorem setDriveLink_engine (l : DriveLink) (s : State) : (setDriveLink l s).engine = s.engine := rfl
@[simp] theorem setDriveLink_keep (l : DriveLink) (s : State) : (setDriveLink l s).keep = s.keep := rfl
@[simp] theorem setDriveLink_clock (l : DriveLink) (s : State) : (setDriveLink l s).clock = s.clock := rfl
@[simp] theorem setDriveLink_line (l : DriveLink) (s : State) : (setDriveLink l s).line = s.line := rfl
@[simp] theorem setDriveLink_resetAsserted (l : DriveLink) (s : State) : (setDriveLink l s).resetAsserted = s.resetAsserted := rfl
@[simp] theorem setDriveLink_wires (l : DriveLink) (s : State) : (setDriveLink l s).wires = s.wires := rfl
@[simp] theorem setDriveLink_fresh (l : DriveLink) (s : State) : (setDriveLink l s).fresh = s.fresh := rfl
@[simp] theorem setDriveLink_pending (l : DriveLink) (s : State) : (setDriveLink l s).pending = s.pending := rfl
@[simp] theorem setDriveLink_drive_link (l : DriveLink) (s : State) : (setDriveLink l s).drive.link = l := rfl
@[simp] theorem setDriveLink_drive_signature (l : DriveLink) (s : State) : (setDriveLink l s).drive.signature = s.drive.signature := rfl
@[simp] theorem setDriveLink_drive_tags (l : DriveLink) (s : State) : (setDriveLink l s).drive.tags = s.drive.tags := rfl
@[simp] theorem setDriveLink_drive_issueOrder (l : DriveLink) (s : State) : (setDriveLink l s).drive.issueOrder = s.drive.issueOrder := rfl
@[simp] theorem setDriveLink_drive_outstanding (l : DriveLink) (s : State) : (setDriveLink l s).drive.outstanding = s.drive.outstanding := rfl
@[simp] theorem setDriveLink_drive_inbox (l : DriveLink) (s : State) : (setDriveLink l s).drive.inbox = s.drive.inbox := rfl

@[simp] theorem setLowPower_regions (x : LowPower) (s : State) : (setLowPower x s).regions = s.regions := rfl
@[simp] theorem setLowPower_keys (x : LowPower) (s : State) : (setLowPower x s).keys = s.keys := rfl
@[simp] theorem setLowPower_rings (x : LowPower) (s : State) : (setLowPower x s).rings = s.rings := rfl
@[simp] theorem setLowPower_tracker (x : LowPower) (s : State) : (setLowPower x s).tracker = s.tracker := rfl
@[simp] theorem setLowPower_sys (x : LowPower) (s : State) : (setLowPower x s).sys = s.sys := rfl
@[simp] theorem setLowPower_engine (x : LowPower) (s : State) : (setLowPower x s).engine = s.engine := rfl
@[simp] theorem setLowPower_keep (x : LowPower) (s : State) : (setLowPower x s).keep = s.keep := rfl
@[simp] theorem setLowPower_clock (x : LowPower) (s : State) : (setLowPower x s).clock = s.clock := rfl
@[simp] theorem setLowPower_line (x : LowPower) (s : State) : (setLowPower x s).line = s.line := rfl
@[simp] theorem setLowPower_resetAsserted (x : LowPower) (s : State) : (setLowPower x s).resetAsserted = s.resetAsserted := rfl
@[simp] theorem setLowPower_wires (x : LowPower) (s : State) : (setLowPower x s).wires = s.wires := rfl
@[simp] theorem setLowPower_fresh (x : LowPower) (s : State) : (setLowPower x s).fresh = s.fresh := rfl
@[simp] theorem setLowPower_pending (x : LowPower) (s : State) : (setLowPower x s).pending = s.pending := rfl
@[simp] theorem setLowPower_drive_link (x : LowPower) (s : State) : (setLowPower x s).drive.link = s.drive.link := rfl
@[simp] theorem setLowPower_drive_signature (x : LowPower) (s : State) : (setLowPower x s).drive.signature = s.drive.signature := rfl
@[simp] theorem setLowPower_drive_lowPower (x : LowPower) (s : State) : (setLowPower x s).drive.lowPower = x := rfl

@[simp] theorem setSysLink_regions (l : SysLink) (s : State) : (setSysLink l s).regions = s.regions := rfl
@[simp] theorem setSysLink_keys (l : SysLink) (s : State) : (setSysLink l s).keys = s.keys := rfl
@[simp] theorem setSysLink_rings (l : SysLink) (s : State) : (setSysLink l s).rings = s.rings := rfl
@[simp] theorem setSysLink_tracker (l : SysLink) (s : State) : (setSysLink l s).tracker = s.tracker := rfl
@[simp] theorem setSysLink_drive (l : SysLink) (s : State) : (setSysLink l s).drive = s.drive := rfl
@[simp] theorem setSysLink_engine (l : SysLink) (s : State) : (setSysLink l s).engine = s.engine := rfl
@[simp] theorem setSysLink_keep (l : SysLink) (s : State) : (setSysLink l s).keep = s.keep := rfl
@[simp] theorem setSysLink_clock (l : SysLink) (s : State) : (setSysLink l s).clock = s.clock := rfl
@[simp] theorem setSysLink_line (l : SysLink) (s : State) : (setSysLink l s).line = s.line := rfl
@[simp] theorem setSysLink_resetAsserted (l : SysLink) (s : State) : (setSysLink l s).resetAsserted = s.resetAsserted := rfl
@[simp] theorem setSysLink_wires (l : SysLink) (s : State) : (setSysLink l s).wires = s.wires := rfl
@[simp] theorem setSysLink_fresh (l : SysLink) (s : State) : (setSysLink l s).fresh = s.fresh := rfl
@[simp] theorem setSysLink_pending (l : SysLink) (s : State) : (setSysLink l s).pending = s.pending := rfl
@[simp] theorem setSysLink_sys_link (l : SysLink) (s : State) : (setSysLink l s).sys.link = l := rfl
@[simp] theorem setSysLink_sys_loading (l : SysLink) (s : State) : (setSysLink l s).sys.loading = s.sys.loading := rfl
@[simp] theorem setSysLink_sys_sendOrder (l : SysLink) (s : State) : (setSysLink l s).sys.sendOrder = s.sys.sendOrder := rfl
@[simp] theorem setSysLink_sys_lastServed (l : SysLink) (s : State) : (setSysLink l s).sys.lastServed = s.sys.lastServed := rfl

@[simp] theorem setLastServed_regions (n : Nat) (s : State) : (setLastServed n s).regions = s.regions := rfl
@[simp] theorem setLastServed_keys (n : Nat) (s : State) : (setLastServed n s).keys = s.keys := rfl
@[simp] theorem setLastServed_rings (n : Nat) (s : State) : (setLastServed n s).rings = s.rings := rfl
@[simp] theorem setLastServed_tracker (n : Nat) (s : State) : (setLastServed n s).tracker = s.tracker := rfl
@[simp] theorem setLastServed_drive (n : Nat) (s : State) : (setLastServed n s).drive = s.drive := rfl
@[simp] theorem setLastServed_engine (n : Nat) (s : State) : (setLastServed n s).engine = s.engine := rfl
@[simp] theorem setLastServed_keep (n : Nat) (s : State) : (setLastServed n s).keep = s.keep := rfl
@[simp] theorem setLastServed_clock (n : Nat) (s : State) : (setLastServed n s).clock = s.clock := rfl
@[simp] theorem setLastServed_line (n : Nat) (s : State) : (setLastServed n s).line = s.line := rfl
@[simp] theorem setLastServed_resetAsserted (n : Nat) (s : State) : (setLastServed n s).resetAsserted = s.resetAsserted := rfl
@[simp] theorem setLastServed_wires (n : Nat) (s : State) : (setLastServed n s).wires = s.wires := rfl
@[simp] theorem setLastServed_fresh (n : Nat) (s : State) : (setLastServed n s).fresh = s.fresh := rfl
@[simp] theorem setLastServed_pending (n : Nat) (s : State) : (setLastServed n s).pending = s.pending := rfl
@[simp] theorem setLastServed_sys_link (n : Nat) (s : State) : (setLastServed n s).sys.link = s.sys.link := rfl
@[simp] theorem setLastServed_sys_loading (n : Nat) (s : State) : (setLastServed n s).sys.loading = s.sys.loading := rfl
@[simp] theorem setLastServed_sys_sendOrder (n : Nat) (s : State) : (setLastServed n s).sys.sendOrder = s.sys.sendOrder := rfl
@[simp] theorem setLastServed_sys_lastServed (n : Nat) (s : State) : (setLastServed n s).sys.lastServed = some n := rfl

@[simp] theorem setBuffer_regions (i : Nat) (b : Buffer) (s : State) : (setBuffer i b s).regions = s.regions := rfl
@[simp] theorem setBuffer_keys (i : Nat) (b : Buffer) (s : State) : (setBuffer i b s).keys = s.keys := rfl
@[simp] theorem setBuffer_rings (i : Nat) (b : Buffer) (s : State) : (setBuffer i b s).rings = s.rings := rfl
@[simp] theorem setBuffer_tracker (i : Nat) (b : Buffer) (s : State) : (setBuffer i b s).tracker = s.tracker := rfl
@[simp] theorem setBuffer_sys (i : Nat) (b : Buffer) (s : State) : (setBuffer i b s).sys = s.sys := rfl
@[simp] theorem setBuffer_drive (i : Nat) (b : Buffer) (s : State) : (setBuffer i b s).drive = s.drive := rfl
@[simp] theorem setBuffer_keep (i : Nat) (b : Buffer) (s : State) : (setBuffer i b s).keep = s.keep := rfl
@[simp] theorem setBuffer_clock (i : Nat) (b : Buffer) (s : State) : (setBuffer i b s).clock = s.clock := rfl
@[simp] theorem setBuffer_line (i : Nat) (b : Buffer) (s : State) : (setBuffer i b s).line = s.line := rfl
@[simp] theorem setBuffer_resetAsserted (i : Nat) (b : Buffer) (s : State) : (setBuffer i b s).resetAsserted = s.resetAsserted := rfl
@[simp] theorem setBuffer_wires (i : Nat) (b : Buffer) (s : State) : (setBuffer i b s).wires = s.wires := rfl
@[simp] theorem setBuffer_fresh (i : Nat) (b : Buffer) (s : State) : (setBuffer i b s).fresh = s.fresh := rfl
@[simp] theorem setBuffer_pending (i : Nat) (b : Buffer) (s : State) : (setBuffer i b s).pending = s.pending := rfl
@[simp] theorem setBuffer_engine_grant (i : Nat) (b : Buffer) (s : State) : (setBuffer i b s).engine.grant = s.engine.grant := rfl
@[simp] theorem setBuffer_engine_readStreak (i : Nat) (b : Buffer) (s : State) : (setBuffer i b s).engine.readStreak = s.engine.readStreak := rfl
@[simp] theorem setBuffer_engine_keepStreak (i : Nat) (b : Buffer) (s : State) : (setBuffer i b s).engine.keepStreak = s.engine.keepStreak := rfl
@[simp] theorem setBuffer_engine_lastSide (i : Nat) (b : Buffer) (s : State) : (setBuffer i b s).engine.lastSide = s.engine.lastSide := rfl

@[simp] theorem withdrawFromQueues_regions (i : Nat) (s : State) : (withdrawFromQueues i s).regions = s.regions := rfl
@[simp] theorem withdrawFromQueues_keys (i : Nat) (s : State) : (withdrawFromQueues i s).keys = s.keys := rfl
@[simp] theorem withdrawFromQueues_rings (i : Nat) (s : State) : (withdrawFromQueues i s).rings = s.rings := rfl
@[simp] theorem withdrawFromQueues_tracker (i : Nat) (s : State) : (withdrawFromQueues i s).tracker = s.tracker := rfl
@[simp] theorem withdrawFromQueues_sys (i : Nat) (s : State) : (withdrawFromQueues i s).sys = s.sys := rfl
@[simp] theorem withdrawFromQueues_drive (i : Nat) (s : State) : (withdrawFromQueues i s).drive = s.drive := rfl
@[simp] theorem withdrawFromQueues_keep (i : Nat) (s : State) : (withdrawFromQueues i s).keep = s.keep := rfl
@[simp] theorem withdrawFromQueues_clock (i : Nat) (s : State) : (withdrawFromQueues i s).clock = s.clock := rfl
@[simp] theorem withdrawFromQueues_line (i : Nat) (s : State) : (withdrawFromQueues i s).line = s.line := rfl
@[simp] theorem withdrawFromQueues_resetAsserted (i : Nat) (s : State) : (withdrawFromQueues i s).resetAsserted = s.resetAsserted := rfl
@[simp] theorem withdrawFromQueues_wires (i : Nat) (s : State) : (withdrawFromQueues i s).wires = s.wires := rfl
@[simp] theorem withdrawFromQueues_fresh (i : Nat) (s : State) : (withdrawFromQueues i s).fresh = s.fresh := rfl
@[simp] theorem withdrawFromQueues_pending (i : Nat) (s : State) : (withdrawFromQueues i s).pending = s.pending := rfl
@[simp] theorem withdrawFromQueues_engine_pool (i : Nat) (s : State) : (withdrawFromQueues i s).engine.pool = s.engine.pool := rfl
@[simp] theorem withdrawFromQueues_engine_grant (i : Nat) (s : State) : (withdrawFromQueues i s).engine.grant = s.engine.grant := rfl
@[simp] theorem withdrawFromQueues_engine_readStreak (i : Nat) (s : State) : (withdrawFromQueues i s).engine.readStreak = s.engine.readStreak := rfl
@[simp] theorem withdrawFromQueues_engine_keepStreak (i : Nat) (s : State) : (withdrawFromQueues i s).engine.keepStreak = s.engine.keepStreak := rfl
@[simp] theorem withdrawFromQueues_engine_lastSide (i : Nat) (s : State) : (withdrawFromQueues i s).engine.lastSide = s.engine.lastSide := rfl

@[simp] theorem setGrantFate_regions (f : GrantFate) (s : State) : (setGrantFate f s).regions = s.regions := rfl
@[simp] theorem setGrantFate_keys (f : GrantFate) (s : State) : (setGrantFate f s).keys = s.keys := rfl
@[simp] theorem setGrantFate_rings (f : GrantFate) (s : State) : (setGrantFate f s).rings = s.rings := rfl
@[simp] theorem setGrantFate_tracker (f : GrantFate) (s : State) : (setGrantFate f s).tracker = s.tracker := rfl
@[simp] theorem setGrantFate_sys (f : GrantFate) (s : State) : (setGrantFate f s).sys = s.sys := rfl
@[simp] theorem setGrantFate_drive (f : GrantFate) (s : State) : (setGrantFate f s).drive = s.drive := rfl
@[simp] theorem setGrantFate_keep (f : GrantFate) (s : State) : (setGrantFate f s).keep = s.keep := rfl
@[simp] theorem setGrantFate_clock (f : GrantFate) (s : State) : (setGrantFate f s).clock = s.clock := rfl
@[simp] theorem setGrantFate_line (f : GrantFate) (s : State) : (setGrantFate f s).line = s.line := rfl
@[simp] theorem setGrantFate_resetAsserted (f : GrantFate) (s : State) : (setGrantFate f s).resetAsserted = s.resetAsserted := rfl
@[simp] theorem setGrantFate_wires (f : GrantFate) (s : State) : (setGrantFate f s).wires = s.wires := rfl
@[simp] theorem setGrantFate_fresh (f : GrantFate) (s : State) : (setGrantFate f s).fresh = s.fresh := rfl
@[simp] theorem setGrantFate_pending (f : GrantFate) (s : State) : (setGrantFate f s).pending = s.pending := rfl
@[simp] theorem setGrantFate_engine_pool (f : GrantFate) (s : State) : (setGrantFate f s).engine.pool = s.engine.pool := rfl
@[simp] theorem setGrantFate_engine_readStreak (f : GrantFate) (s : State) : (setGrantFate f s).engine.readStreak = s.engine.readStreak := rfl
@[simp] theorem setGrantFate_engine_keepStreak (f : GrantFate) (s : State) : (setGrantFate f s).engine.keepStreak = s.engine.keepStreak := rfl
@[simp] theorem setGrantFate_engine_lastSide (f : GrantFate) (s : State) : (setGrantFate f s).engine.lastSide = s.engine.lastSide := rfl

@[simp] theorem setChunk_regions (c : Option Chunk) (s : State) : (setChunk c s).regions = s.regions := rfl
@[simp] theorem setChunk_keys (c : Option Chunk) (s : State) : (setChunk c s).keys = s.keys := rfl
@[simp] theorem setChunk_rings (c : Option Chunk) (s : State) : (setChunk c s).rings = s.rings := rfl
@[simp] theorem setChunk_tracker (c : Option Chunk) (s : State) : (setChunk c s).tracker = s.tracker := rfl
@[simp] theorem setChunk_sys (c : Option Chunk) (s : State) : (setChunk c s).sys = s.sys := rfl
@[simp] theorem setChunk_drive (c : Option Chunk) (s : State) : (setChunk c s).drive = s.drive := rfl
@[simp] theorem setChunk_engine (c : Option Chunk) (s : State) : (setChunk c s).engine = s.engine := rfl
@[simp] theorem setChunk_clock (c : Option Chunk) (s : State) : (setChunk c s).clock = s.clock := rfl
@[simp] theorem setChunk_line (c : Option Chunk) (s : State) : (setChunk c s).line = s.line := rfl
@[simp] theorem setChunk_resetAsserted (c : Option Chunk) (s : State) : (setChunk c s).resetAsserted = s.resetAsserted := rfl
@[simp] theorem setChunk_wires (c : Option Chunk) (s : State) : (setChunk c s).wires = s.wires := rfl
@[simp] theorem setChunk_fresh (c : Option Chunk) (s : State) : (setChunk c s).fresh = s.fresh := rfl
@[simp] theorem setChunk_pending (c : Option Chunk) (s : State) : (setChunk c s).pending = s.pending := rfl
@[simp] theorem setChunk_keep_chunk (c : Option Chunk) (s : State) : (setChunk c s).keep.chunk = c := rfl
@[simp] theorem setChunk_keep_queue (c : Option Chunk) (s : State) : (setChunk c s).keep.queue = s.keep.queue := rfl
@[simp] theorem setChunk_keep_outcomes (c : Option Chunk) (s : State) : (setChunk c s).keep.outcomes = s.keep.outcomes := rfl
@[simp] theorem setChunk_keep_nextId (c : Option Chunk) (s : State) : (setChunk c s).keep.nextId = s.keep.nextId := rfl
@[simp] theorem setChunk_keep_gateOpen (c : Option Chunk) (s : State) : (setChunk c s).keep.gateOpen = s.keep.gateOpen := rfl
@[simp] theorem setChunk_keep_request (c : Option Chunk) (s : State) : (setChunk c s).keep.request = s.keep.request := rfl

@[simp] theorem setRequest_regions (q : Option KeepRequest) (s : State) : (setRequest q s).regions = s.regions := rfl
@[simp] theorem setRequest_keys (q : Option KeepRequest) (s : State) : (setRequest q s).keys = s.keys := rfl
@[simp] theorem setRequest_rings (q : Option KeepRequest) (s : State) : (setRequest q s).rings = s.rings := rfl
@[simp] theorem setRequest_tracker (q : Option KeepRequest) (s : State) : (setRequest q s).tracker = s.tracker := rfl
@[simp] theorem setRequest_sys (q : Option KeepRequest) (s : State) : (setRequest q s).sys = s.sys := rfl
@[simp] theorem setRequest_drive (q : Option KeepRequest) (s : State) : (setRequest q s).drive = s.drive := rfl
@[simp] theorem setRequest_engine (q : Option KeepRequest) (s : State) : (setRequest q s).engine = s.engine := rfl
@[simp] theorem setRequest_clock (q : Option KeepRequest) (s : State) : (setRequest q s).clock = s.clock := rfl
@[simp] theorem setRequest_line (q : Option KeepRequest) (s : State) : (setRequest q s).line = s.line := rfl
@[simp] theorem setRequest_resetAsserted (q : Option KeepRequest) (s : State) : (setRequest q s).resetAsserted = s.resetAsserted := rfl
@[simp] theorem setRequest_wires (q : Option KeepRequest) (s : State) : (setRequest q s).wires = s.wires := rfl
@[simp] theorem setRequest_fresh (q : Option KeepRequest) (s : State) : (setRequest q s).fresh = s.fresh := rfl
@[simp] theorem setRequest_pending (q : Option KeepRequest) (s : State) : (setRequest q s).pending = s.pending := rfl
@[simp] theorem setRequest_keep_chunk (q : Option KeepRequest) (s : State) : (setRequest q s).keep.chunk = s.keep.chunk := rfl
@[simp] theorem setRequest_keep_queue (q : Option KeepRequest) (s : State) : (setRequest q s).keep.queue = s.keep.queue := rfl
@[simp] theorem setRequest_keep_outcomes (q : Option KeepRequest) (s : State) : (setRequest q s).keep.outcomes = s.keep.outcomes := rfl
@[simp] theorem setRequest_keep_nextId (q : Option KeepRequest) (s : State) : (setRequest q s).keep.nextId = s.keep.nextId := rfl
@[simp] theorem setRequest_keep_gateOpen (q : Option KeepRequest) (s : State) : (setRequest q s).keep.gateOpen = s.keep.gateOpen := rfl
@[simp] theorem setRequest_keep_request (q : Option KeepRequest) (s : State) : (setRequest q s).keep.request = q := rfl

@[simp] theorem mapActive_regions (f : Job → Job) (s : State) : (mapActive f s).regions = s.regions := rfl
@[simp] theorem mapActive_keys (f : Job → Job) (s : State) : (mapActive f s).keys = s.keys := rfl
@[simp] theorem mapActive_rings (f : Job → Job) (s : State) : (mapActive f s).rings = s.rings := rfl
@[simp] theorem mapActive_tracker (f : Job → Job) (s : State) : (mapActive f s).tracker = s.tracker := rfl
@[simp] theorem mapActive_sys (f : Job → Job) (s : State) : (mapActive f s).sys = s.sys := rfl
@[simp] theorem mapActive_drive (f : Job → Job) (s : State) : (mapActive f s).drive = s.drive := rfl
@[simp] theorem mapActive_engine (f : Job → Job) (s : State) : (mapActive f s).engine = s.engine := rfl
@[simp] theorem mapActive_clock (f : Job → Job) (s : State) : (mapActive f s).clock = s.clock := rfl
@[simp] theorem mapActive_line (f : Job → Job) (s : State) : (mapActive f s).line = s.line := rfl
@[simp] theorem mapActive_resetAsserted (f : Job → Job) (s : State) : (mapActive f s).resetAsserted = s.resetAsserted := rfl
@[simp] theorem mapActive_wires (f : Job → Job) (s : State) : (mapActive f s).wires = s.wires := rfl
@[simp] theorem mapActive_fresh (f : Job → Job) (s : State) : (mapActive f s).fresh = s.fresh := rfl
@[simp] theorem mapActive_pending (f : Job → Job) (s : State) : (mapActive f s).pending = s.pending := rfl
@[simp] theorem mapActive_keep_chunk (f : Job → Job) (s : State) : (mapActive f s).keep.chunk = s.keep.chunk := rfl
@[simp] theorem mapActive_keep_outcomes (f : Job → Job) (s : State) : (mapActive f s).keep.outcomes = s.keep.outcomes := rfl
@[simp] theorem mapActive_keep_nextId (f : Job → Job) (s : State) : (mapActive f s).keep.nextId = s.keep.nextId := rfl
@[simp] theorem mapActive_keep_gateOpen (f : Job → Job) (s : State) : (mapActive f s).keep.gateOpen = s.keep.gateOpen := rfl
@[simp] theorem mapActive_keep_request (f : Job → Job) (s : State) : (mapActive f s).keep.request = s.keep.request := rfl

@[simp] theorem lowerEnd_regions (id upto : Nat) (s : State) : (lowerEnd id upto s).regions = s.regions := rfl
@[simp] theorem lowerEnd_keys (id upto : Nat) (s : State) : (lowerEnd id upto s).keys = s.keys := rfl
@[simp] theorem lowerEnd_rings (id upto : Nat) (s : State) : (lowerEnd id upto s).rings = s.rings := rfl
@[simp] theorem lowerEnd_tracker (id upto : Nat) (s : State) : (lowerEnd id upto s).tracker = s.tracker := rfl
@[simp] theorem lowerEnd_sys (id upto : Nat) (s : State) : (lowerEnd id upto s).sys = s.sys := rfl
@[simp] theorem lowerEnd_drive (id upto : Nat) (s : State) : (lowerEnd id upto s).drive = s.drive := rfl
@[simp] theorem lowerEnd_engine (id upto : Nat) (s : State) : (lowerEnd id upto s).engine = s.engine := rfl
@[simp] theorem lowerEnd_clock (id upto : Nat) (s : State) : (lowerEnd id upto s).clock = s.clock := rfl
@[simp] theorem lowerEnd_line (id upto : Nat) (s : State) : (lowerEnd id upto s).line = s.line := rfl
@[simp] theorem lowerEnd_resetAsserted (id upto : Nat) (s : State) : (lowerEnd id upto s).resetAsserted = s.resetAsserted := rfl
@[simp] theorem lowerEnd_wires (id upto : Nat) (s : State) : (lowerEnd id upto s).wires = s.wires := rfl
@[simp] theorem lowerEnd_fresh (id upto : Nat) (s : State) : (lowerEnd id upto s).fresh = s.fresh := rfl
@[simp] theorem lowerEnd_pending (id upto : Nat) (s : State) : (lowerEnd id upto s).pending = s.pending := rfl
@[simp] theorem lowerEnd_keep_chunk (id upto : Nat) (s : State) : (lowerEnd id upto s).keep.chunk = s.keep.chunk := rfl
@[simp] theorem lowerEnd_keep_outcomes (id upto : Nat) (s : State) : (lowerEnd id upto s).keep.outcomes = s.keep.outcomes := rfl
@[simp] theorem lowerEnd_keep_nextId (id upto : Nat) (s : State) : (lowerEnd id upto s).keep.nextId = s.keep.nextId := rfl
@[simp] theorem lowerEnd_keep_gateOpen (id upto : Nat) (s : State) : (lowerEnd id upto s).keep.gateOpen = s.keep.gateOpen := rfl
@[simp] theorem lowerEnd_keep_request (id upto : Nat) (s : State) : (lowerEnd id upto s).keep.request = s.keep.request := rfl

@[simp] theorem setClock_regions (c : Clock) (s : State) : (setClock c s).regions = s.regions := rfl
@[simp] theorem setClock_keys (c : Clock) (s : State) : (setClock c s).keys = s.keys := rfl
@[simp] theorem setClock_rings (c : Clock) (s : State) : (setClock c s).rings = s.rings := rfl
@[simp] theorem setClock_tracker (c : Clock) (s : State) : (setClock c s).tracker = s.tracker := rfl
@[simp] theorem setClock_sys (c : Clock) (s : State) : (setClock c s).sys = s.sys := rfl
@[simp] theorem setClock_drive (c : Clock) (s : State) : (setClock c s).drive = s.drive := rfl
@[simp] theorem setClock_engine (c : Clock) (s : State) : (setClock c s).engine = s.engine := rfl
@[simp] theorem setClock_keep (c : Clock) (s : State) : (setClock c s).keep = s.keep := rfl
@[simp] theorem setClock_line (c : Clock) (s : State) : (setClock c s).line = s.line := rfl
@[simp] theorem setClock_resetAsserted (c : Clock) (s : State) : (setClock c s).resetAsserted = s.resetAsserted := rfl
@[simp] theorem setClock_wires (c : Clock) (s : State) : (setClock c s).wires = s.wires := rfl
@[simp] theorem setClock_fresh (c : Clock) (s : State) : (setClock c s).fresh = s.fresh := rfl
@[simp] theorem setClock_pending (c : Clock) (s : State) : (setClock c s).pending = s.pending := rfl
@[simp] theorem setClock_clock_set (c : Clock) (s : State) : (setClock c s).clock = c := rfl

@[simp] theorem closeGate_regions (s : State) : (closeGate s).regions = s.regions := rfl
@[simp] theorem closeGate_keys (s : State) : (closeGate s).keys = s.keys := rfl
@[simp] theorem closeGate_rings (s : State) : (closeGate s).rings = s.rings := rfl
@[simp] theorem closeGate_tracker (s : State) : (closeGate s).tracker = s.tracker := rfl
@[simp] theorem closeGate_sys (s : State) : (closeGate s).sys = s.sys := rfl
@[simp] theorem closeGate_drive (s : State) : (closeGate s).drive = s.drive := rfl
@[simp] theorem closeGate_engine (s : State) : (closeGate s).engine = s.engine := rfl
@[simp] theorem closeGate_clock (s : State) : (closeGate s).clock = s.clock := rfl
@[simp] theorem closeGate_line (s : State) : (closeGate s).line = s.line := rfl
@[simp] theorem closeGate_resetAsserted (s : State) : (closeGate s).resetAsserted = s.resetAsserted := rfl
@[simp] theorem closeGate_wires (s : State) : (closeGate s).wires = s.wires := rfl
@[simp] theorem closeGate_fresh (s : State) : (closeGate s).fresh = s.fresh := rfl
@[simp] theorem closeGate_pending (s : State) : (closeGate s).pending = s.pending := rfl
@[simp] theorem closeGate_keep_gateOpen (s : State) : (closeGate s).keep.gateOpen = false := rfl
@[simp] theorem closeGate_keep_queue (s : State) : (closeGate s).keep.queue = s.keep.queue := rfl
@[simp] theorem closeGate_keep_outcomes (s : State) : (closeGate s).keep.outcomes = s.keep.outcomes := rfl
@[simp] theorem closeGate_keep_nextId (s : State) : (closeGate s).keep.nextId = s.keep.nextId := rfl
@[simp] theorem closeGate_keep_chunk (s : State) : (closeGate s).keep.chunk = s.keep.chunk := rfl
@[simp] theorem closeGate_keep_request (s : State) : (closeGate s).keep.request = s.keep.request := rfl

end Sys2Proof.Machine
end

