-- ==== Sys2Proof/Laws/Settled.lean ====
section
/-! SUPPORT. What an internal step leaves alone: `Settled s t` holds between a state and the state after any of the shared
operations that the internal steps are made of. One lemma per operation; `settle_settled` says it of the whole of `settle`. -/

namespace Sys2Proof.Machine

/-! ## The relations -/

/-- What stays of a ring descriptor: its state and shape; its claim and head never fall, and only its oldest epochs go. -/
structure RingSettled (a b : Ring) : Prop where
  live     : b.live = a.live
  base     : b.base = a.base
  span     : b.span = a.span
  trail    : b.trail = a.trail
  claim    : a.claim ≤ b.claim
  head     : a.head ≤ b.head
  epochs   : b.epochs <:+ a.epochs
  nonempty : a.epochs ≠ [] → b.epochs ≠ []
  floor    : (b.epochs = a.epochs ∧ b.floor = a.floor) ∨ b.epochs.head?.map Epoch.start = some b.floor

/-- An entry keeps its definitions, or has its pending definition applied. -/
def EntrySettled (e f : RegionEntry) : Prop :=
  (f.active = e.active ∧ f.staged = e.staged) ∨ (e.staged.isSome ∧ f.active = e.applied.active ∧ f.staged = none)

/-- What names a record and stays with it. -/
def Record.ident (r : Record) : RecordKey × HostKind × Nat × Nat × Nat × List Byte :=
  (r.key, r.kind, r.host, r.count, r.order, r.frame)

/-- What the shared operations of the internal steps leave alone. -/
structure Settled (s t : State) : Prop where
  slots         : t.keys.slots = s.keys.slots
  lockdown      : t.keys.lockdown = s.keys.lockdown
  lockdownSeen  : t.keys.lockdownSeen = s.keys.lockdownSeen
  clock         : t.clock = s.clock
  lineState     : t.line.state = s.line.state
  request       : t.line.request = s.line.request
  reply         : t.line.reply = s.line.reply
  enabled       : t.line.enabled = s.line.enabled
  profile       : t.line.profile = s.line.profile
  latched       : t.line.latched ||| s.line.latched = t.line.latched
  resetAsserted : t.resetAsserted = s.resetAsserted
  fresh         : t.fresh = s.fresh
  pending       : t.pending = s.pending
  loading       : t.sys.loading = s.sys.loading
  lastServed    : t.sys.lastServed = s.sys.lastServed
  signature     : t.drive.signature = s.drive.signature
  spi           : t.wires.spi = s.wires.spi
  up            : s.wires.up <+: t.wires.up
  down          : s.wires.down <+: t.wires.down
  nextId        : t.keep.nextId = s.keep.nextId
  gateOpen      : t.keep.gateOpen = s.keep.gateOpen
  queueIds      : (t.keep.queue.map Job.id).Sublist (s.keep.queue.map Job.id)
  outcomes      : s.keep.outcomes.length ≤ Config.outcomePlaces → t.keep.outcomes.length ≤ Config.outcomePlaces
  readStreak    : t.engine.readStreak = s.engine.readStreak
  keepStreak    : t.engine.keepStreak = s.engine.keepStreak
  lastSide      : t.engine.lastSide = s.engine.lastSide
  nextOrder     : t.tracker.nextOrder = s.tracker.nextOrder
  records       : t.tracker.records.map Record.ident = s.tracker.records.map Record.ident
  rings         : ∀ r, RingSettled (s.ring r) (t.ring r)
  entries       : ∀ i, EntrySettled (s.entry i) (t.entry i)

theorem RingSettled.refl (a : Ring) : RingSettled a a :=
  ⟨rfl, rfl, rfl, rfl, Nat.le_refl _, Nat.le_refl _, List.suffix_refl _, id, .inl ⟨rfl, rfl⟩⟩

theorem RingSettled.trans {a b c : Ring} (h : RingSettled a b) (k : RingSettled b c) : RingSettled a c :=
  ⟨k.live.trans h.live, k.base.trans h.base, k.span.trans h.span, k.trail.trans h.trail, h.claim.trans k.claim,
    h.head.trans k.head, k.epochs.trans h.epochs, fun x => k.nonempty (h.nonempty x), by
      rcases k.floor with ⟨e, f⟩ | f
      · rw [e, f]; exact h.floor
      · exact .inr f⟩

theorem EntrySettled.refl (e : RegionEntry) : EntrySettled e e := .inl ⟨rfl, rfl⟩

theorem RegionEntry.applied_active_of (e f : RegionEntry) (ha : f.active = e.active) (hs : f.staged = e.staged) :
    f.applied.active = e.applied.active := by
  unfold RegionEntry.applied
  rw [hs]
  split <;> simp_all

theorem EntrySettled.trans {e f g : RegionEntry} (h : EntrySettled e f) (k : EntrySettled f g) : EntrySettled e g := by
  rcases h with ⟨ha, hs⟩ | ⟨hi, ha, hs⟩
  · rcases k with ⟨ka, ks⟩ | ⟨ki, ka, ks⟩
    · exact .inl ⟨ka.trans ha, ks.trans hs⟩
    · exact .inr ⟨hs ▸ ki, ka.trans (RegionEntry.applied_active_of e f ha hs), ks⟩
  · rcases k with ⟨ka, ks⟩ | ⟨ki, ka, ks⟩
    · exact .inr ⟨hi, ka.trans ha, ks.trans hs⟩
    · rw [hs] at ki; simp at ki

theorem Settled.refl (s : State) : Settled s s := by
  constructor <;> first
    | rfl | exact BitVec.or_self | exact List.prefix_refl _ | exact List.Sublist.refl _ | exact id
    | exact fun _ => .refl _

theorem Settled.trans {s t u : State} (h : Settled s t) (k : Settled t u) : Settled s u where
  slots := k.slots.trans h.slots
  lockdown := k.lockdown.trans h.lockdown
  lockdownSeen := k.lockdownSeen.trans h.lockdownSeen
  clock := k.clock.trans h.clock
  lineState := k.lineState.trans h.lineState
  request := k.request.trans h.request
  reply := k.reply.trans h.reply
  enabled := k.enabled.trans h.enabled
  profile := k.profile.trans h.profile
  latched := by rw [← k.latched, BitVec.or_assoc, h.latched]
  resetAsserted := k.resetAsserted.trans h.resetAsserted
  fresh := k.fresh.trans h.fresh
  pending := k.pending.trans h.pending
  loading := k.loading.trans h.loading
  lastServed := k.lastServed.trans h.lastServed
  signature := k.signature.trans h.signature
  spi := k.spi.trans h.spi
  up := h.up.trans k.up
  down := h.down.trans k.down
  nextId := k.nextId.trans h.nextId
  gateOpen := k.gateOpen.trans h.gateOpen
  queueIds := k.queueIds.trans h.queueIds
  outcomes := fun x => k.outcomes (h.outcomes x)
  readStreak := k.readStreak.trans h.readStreak
  keepStreak := k.keepStreak.trans h.keepStreak
  lastSide := k.lastSide.trans h.lastSide
  nextOrder := k.nextOrder.trans h.nextOrder
  records := k.records.trans h.records
  rings := fun r => (h.rings r).trans (k.rings r)
  entries := fun i => (h.entries i).trans (k.entries i)

/-- The same, read backwards from the later state. -/
theorem Settled.after {s t u : State} (k : Settled t u) (h : Settled s t) : Settled s u := h.trans k

theorem Settled.foldl {α : Type} (f : State → α → State) (hf : ∀ s a, Settled s (f s a)) (l : List α) (s : State) :
    Settled s (l.foldl f s) := by
  induction l generalizing s with
  | nil => exact .refl s
  | cons a l ih => exact (hf s a).trans (ih (f s a))

theorem Settled.cond (b : Bool) {s t u : State} (h : Settled s t) (k : Settled s u) : Settled s (bif b then t else u) := by
  cases b <;> assumption

/-! ## Ops -/

theorem ring_mapRing (r : Nat) (f : Ring → Ring) (s : State) (q : Nat) :
    (mapRing r f s).ring q = if q = r ∧ r < 4 then f (s.ring r) else s.ring q := by
  unfold mapRing State.ring
  by_cases hr : r < 4
  · by_cases hq : q = r
    · subst hq; simp [Vector.getD, Vector.setIfInBounds, hr]
    · have : r ≠ q := fun h => hq h.symm
      simp [Vector.getD, Vector.setIfInBounds, hq, this]
  · have hn : ¬ (q = r ∧ r < 4) := fun h => hr h.2
    simp only [hn, if_false]
    simp [Vector.getD, Vector.setIfInBounds, Array.setIfInBounds, hr]

theorem ring_mapRings (f : Ring → Ring) (s : State) (q : Nat) :
    (mapRings f s).ring q = if q < 4 then f (s.ring q) else s.ring q := by
  unfold mapRings State.ring
  rw [mapVector_eq_map]
  by_cases h : q < 4 <;> simp [Vector.getD, h]

theorem entry_mapEntry (i : Nat) (f : RegionEntry → RegionEntry) (s : State) (j : Nat) :
    (mapEntry i f s).entry j = if j = i ∧ i < 64 then f (s.entry i) else s.entry j := by
  unfold mapEntry State.entry
  by_cases hr : i < 64
  · by_cases hq : j = i
    · subst hq; simp [Vector.getD, Vector.setIfInBounds, hr]
    · have : i ≠ j := fun h => hq h.symm
      simp [Vector.getD, Vector.setIfInBounds, hq, this]
  · have hn : ¬ (j = i ∧ i < 64) := fun h => hr h.2
    simp only [hn, if_false]
    simp [Vector.getD, Vector.setIfInBounds, Array.setIfInBounds, hr]

theorem slot_setSlot (i : Nat) (x : Slot) (s : State) (j : Nat) :
    (setSlot i x s).slot j = if j = i ∧ i < 16 then x else s.slot j := by
  unfold setSlot State.slot
  by_cases hr : i < 16
  · by_cases hq : j = i
    · subst hq; simp [Vector.getD, Vector.setIfInBounds, hr]
    · have : i ≠ j := fun h => hq h.symm
      simp [Vector.getD, Vector.setIfInBounds, hq, this]
  · have hn : ¬ (j = i ∧ i < 16) := fun h => hr h.2
    simp only [hn, if_false]
    simp [Vector.getD, Vector.setIfInBounds, Array.setIfInBounds, hr]

/-- An operation that leaves the entries' definitions as they are. -/
theorem settled_mapEntry (i : Nat) (f : RegionEntry → RegionEntry) (s : State)
    (hf : ∀ e, EntrySettled e (f e)) : Settled s (mapEntry i f s) := by
  constructor <;> first
    | rfl | exact BitVec.or_self | exact List.prefix_refl _ | exact List.Sublist.refl _ | exact id
    | exact fun _ => .refl _ | skip
  intro j
  rw [entry_mapEntry]
  split
  · rename_i h; rw [h.1]; exact hf _
  · exact .refl _

theorem settled_mapRing (r : Nat) (f : Ring → Ring) (s : State) (hf : ∀ q, RingSettled q (f q)) :
    Settled s (mapRing r f s) := by
  constructor <;> first
    | rfl | exact BitVec.or_self | exact List.prefix_refl _ | exact List.Sublist.refl _ | exact id
    | exact fun _ => .refl _ | skip
  intro j
  rw [ring_mapRing]
  split
  · rename_i h; rw [h.1]; exact hf _
  · exact .refl _

theorem settled_mapRings (f : Ring → Ring) (s : State) (hf : ∀ q, RingSettled q (f q)) : Settled s (mapRings f s) := by
  constructor <;> first
    | rfl | exact BitVec.or_self | exact List.prefix_refl _ | exact List.Sublist.refl _ | exact id
    | exact fun _ => .refl _ | skip
  intro j
  rw [ring_mapRings]
  split
  · exact hf _
  · exact .refl _

theorem settled_latch (c : Cause) (s : State) : Settled s (latch c s) := by
  constructor <;> first
    | rfl | exact List.prefix_refl _ | exact List.Sublist.refl _ | exact id | exact fun _ => .refl _ | skip
  show (s.line.latched ||| c.mask) ||| s.line.latched = s.line.latched ||| c.mask
  rw [BitVec.or_comm, ← BitVec.or_assoc, BitVec.or_self]

theorem settled_latchIf (b : Bool) (c : Cause) (s : State) : Settled s (latchIf b c s) :=
  Settled.cond b (settled_latch c s) (.refl s)

theorem settled_setDrain (l : List RecordKey) (s : State) : Settled s (setDrain l s) := by
  constructor <;> first
    | rfl | exact BitVec.or_self | exact List.prefix_refl _ | exact List.Sublist.refl _ | exact id
    | exact fun _ => .refl _

theorem settled_countUp (l : List Nat) (s : State) : Settled s (countUp l s) := by
  unfold countUp
  apply Settled.foldl
  exact fun s i => settled_mapEntry _ _ _ fun _ => .inl ⟨rfl, rfl⟩

theorem settled_countDown (l : List Nat) (s : State) : Settled s (countDown l s) := by
  unfold countDown
  apply Settled.foldl
  exact fun s i => settled_mapEntry _ _ _ fun _ => .inl ⟨rfl, rfl⟩

theorem settled_setMissList (l : List ProgId) (s : State) : Settled s (setMissList l s) := by
  constructor <;> first
    | rfl | exact BitVec.or_self | exact List.prefix_refl _ | exact List.Sublist.refl _ | exact id
    | exact fun _ => .refl _

theorem RingSettled.of_eq {a b : Ring} (live : b.live = a.live) (base : b.base = a.base) (span : b.span = a.span)
    (trail : b.trail = a.trail) (claim : b.claim = a.claim) (head : b.head = a.head) (floor : b.floor = a.floor)
    (epochs : b.epochs = a.epochs) : RingSettled a b :=
  ⟨live, base, span, trail, claim.ge, head.ge, by rw [epochs], by rw [epochs]; exact id, .inl ⟨epochs, floor⟩⟩

theorem settled_usersUp (l : List Nat) (s : State) : Settled s (usersUp l s) := by
  unfold usersUp
  apply Settled.foldl
  exact fun s i => settled_mapRing _ _ _ fun _ => .of_eq rfl rfl rfl rfl rfl rfl rfl rfl

theorem settled_usersDown (l : List Nat) (s : State) : Settled s (usersDown l s) := by
  unfold usersDown
  apply Settled.foldl
  exact fun s i => settled_mapRing _ _ _ fun _ => .of_eq rfl rfl rfl rfl rfl rfl rfl rfl

/-- A change of one record that keeps what names every record. -/
theorem settled_record (k : RecordKey) (f : Record → Record) (s : State) (hf : ∀ r, (f r).ident = r.ident) :
    Settled s (mapRecord k f s) := by
  constructor <;> first
    | rfl | exact BitVec.or_self | exact List.prefix_refl _ | exact List.Sublist.refl _ | exact id
    | exact fun _ => .refl _ | skip
  show (s.tracker.records.map _).map Record.ident = s.tracker.records.map Record.ident
  rw [List.map_map]
  refine List.map_congr_left fun r _ => ?_
  cases h : r.key == k <;> simp [h, hf r]

theorem settled_leaveHolds (k : RecordKey) (s : State) : Settled s (leaveHolds k s) := by
  constructor <;> first
    | rfl | exact BitVec.or_self | exact List.prefix_refl _ | exact List.Sublist.refl _ | exact id
    | exact fun _ => .refl _

theorem settled_holdIn (k : RecordKey) (st : RecordState) (s : State) : Settled s (holdIn k st s) :=
  settled_record _ _ _ fun _ => rfl

theorem settled_endHold (k : RecordKey) (s : State) : Settled s (endHold k s) :=
  Settled.after (settled_leaveHolds _ _) (settled_record _ _ _ fun _ => rfl)

/-- The completion of a record or of an arrival joins the send order. -/
theorem settled_sendOrder (l : List DueItem) (s : State) : Settled s { s with sys := { s.sys with sendOrder := l } } := by
  constructor <;> first
    | rfl | exact BitVec.or_self | exact List.prefix_refl _ | exact List.Sublist.refl _ | exact id
    | exact fun _ => .refl _

theorem settled_becomeDue (k : RecordKey) (o : HostOutcome) (s : State) : Settled s (becomeDue k o s) :=
  Settled.after (settled_sendOrder _ _) (Settled.after (settled_leaveHolds _ _) (settled_record _ _ _ fun _ => rfl))

theorem settled_refuse (k : RecordKey) (why : HostReason) (s : State) : Settled s (refuse k why s) :=
  settled_becomeDue k _ s

theorem settled_emitUp (x : UpItem) (s : State) : Settled s (emitUp x s) := by
  constructor <;> first
    | rfl | exact BitVec.or_self | exact List.prefix_append _ _ | exact List.prefix_refl _ | exact List.Sublist.refl _
    | exact id | exact fun _ => .refl _

theorem settled_emitDown (x : DownItem) (s : State) : Settled s (emitDown x s) := by
  constructor <;> first
    | rfl | exact BitVec.or_self | exact List.prefix_append _ _ | exact List.prefix_refl _ | exact List.Sublist.refl _
    | exact id | exact fun _ => .refl _

theorem settled_setTag (t : Nat) (u : Option TagUser) (s : State) : Settled s (setTag t u s) := by
  constructor <;> first
    | rfl | exact BitVec.or_self | exact List.prefix_refl _ | exact List.Sublist.refl _ | exact id
    | exact fun _ => .refl _

theorem settled_freeTag (t : Option Nat) (s : State) : Settled s (freeTag t s) := by
  cases t
  · exact .refl s
  · exact settled_setTag _ _ s

theorem settled_handOver (c : DownCmd) (s : State) : Settled s (handOver c s) := by
  constructor <;> first
    | rfl | exact BitVec.or_self | exact List.prefix_refl _ | exact List.Sublist.refl _ | exact id
    | exact fun _ => .refl _

theorem settled_mapDown (p : DownCmd → Bool) (f : DownCmd → DownCmd) (s : State) : Settled s (mapDown p f s) := by
  constructor <;> first
    | rfl | exact BitVec.or_self | exact List.prefix_refl _ | exact List.Sublist.refl _ | exact id
    | exact fun _ => .refl _

theorem settled_removeDown (p : DownCmd → Bool) (s : State) : Settled s (removeDown p s) := by
  constructor <;> first
    | rfl | exact BitVec.or_self | exact List.prefix_refl _ | exact List.Sublist.refl _ | exact id
    | exact fun _ => .refl _

theorem settled_setBuffer (i : Nat) (b : Buffer) (s : State) : Settled s (setBuffer i b s) := by
  constructor <;> first
    | rfl | exact BitVec.or_self | exact List.prefix_refl _ | exact List.Sublist.refl _ | exact id
    | exact fun _ => .refl _

theorem settled_mapBuffer (i : Nat) (f : Buffer → Buffer) (s : State) : Settled s (mapBuffer i f s) :=
  settled_setBuffer i _ s

theorem settled_joinQueue (c : BufClass) (i : Nat) (s : State) : Settled s (joinQueue c i s) := by
  cases c <;> constructor <;> first
    | rfl | exact BitVec.or_self | exact List.prefix_refl _ | exact List.Sublist.refl _ | exact id
    | exact fun _ => .refl _

theorem settled_withdrawFromQueues (i : Nat) (s : State) : Settled s (withdrawFromQueues i s) := by
  constructor <;> first
    | rfl | exact BitVec.or_self | exact List.prefix_refl _ | exact List.Sublist.refl _ | exact id
    | exact fun _ => .refl _

theorem settled_setGrantFate (f : GrantFate) (s : State) : Settled s (setGrantFate f s) := by
  constructor <;> first
    | rfl | exact BitVec.or_self | exact List.prefix_refl _ | exact List.Sublist.refl _ | exact id
    | exact fun _ => .refl _

theorem settled_releaseNow (i : Nat) (s : State) : Settled s (releaseNow i s) := by
  have h : Settled s (setBuffer i Buffer.empty (withdrawFromQueues i s)) :=
    Settled.after (settled_setBuffer _ _ _) (settled_withdrawFromQueues _ _)
  exact Settled.cond _ (Settled.after (settled_setBuffer _ _ _) h) h

theorem settled_releaseBuffer (i : Nat) (s : State) : Settled s (releaseBuffer i s) :=
  Settled.cond _ (settled_setGrantFate _ s) (settled_releaseNow i s)

theorem settled_releaseWhere (p : Buffer → Bool) (s : State) : Settled s (releaseWhere p s) := by
  unfold releaseWhere
  exact Settled.foldl _ (fun s i => settled_releaseBuffer _ _) _ _

theorem settled_releaseOwner (o : Owner) (s : State) : Settled s (releaseOwner o s) := by
  unfold releaseOwner
  refine Settled.foldl _ (fun s i => ?_) _ _
  exact Settled.cond _ (Settled.after (settled_setGrantFate _ _) (settled_mapBuffer _ _ _)) (settled_releaseNow _ _)

theorem settled_setRequest (q : Option KeepRequest) (s : State) : Settled s (setRequest q s) := by
  constructor <;> first
    | rfl | exact BitVec.or_self | exact List.prefix_refl _ | exact List.Sublist.refl _ | exact id
    | exact fun _ => .refl _

theorem settled_withdrawRequest (s : State) : Settled s (withdrawRequest s) := by
  unfold withdrawRequest
  split
  · exact .refl s
  · exact Settled.after (Settled.foldl _ (fun s i => settled_releaseNow _ _) _ _) (settled_setRequest _ _)

/-! ## Lookup -/

theorem settled_dropUnwaited (ids : List ProgId) (s : State) : Settled s (dropUnwaited ids s) := settled_setMissList _ s

theorem settled_refuseKey (k : RecordKey) (why : HostReason) (s : State) : Settled s (refuseKey k why s) :=
  Settled.after (settled_dropUnwaited _ _) (settled_refuse _ _ _)

/-- A change of the Command Tracker's orders alone. -/
theorem settled_tracker (x : Tracker) (s : State) (hr : x.records = s.tracker.records)
    (ho : x.nextOrder = s.tracker.nextOrder) : Settled s { s with tracker := x } := by
  constructor <;> first
    | rfl | exact BitVec.or_self | exact List.prefix_refl _ | exact List.Sublist.refl _ | exact id
    | exact fun _ => .refl _ | exact ho | exact congrArg _ hr

theorem settled_enterKeyWait (k : RecordKey) (ids : List ProgId) (s : State) : Settled s (enterKeyWait k ids s) := by
  unfold enterKeyWait
  dsimp only
  refine Settled.cond _ ?_ (Settled.after (settled_tracker _ _ rfl rfl) ?_) <;> exact settled_record _ _ _ fun _ => rfl

theorem settled_missHandling (k : RecordKey) (ids : List ProgId) (s : State) : Settled s (missHandling k ids s) :=
  Settled.cond _ (settled_refuseKey _ _ _)
    (Settled.after (settled_enterKeyWait _ _ _) (Settled.after (settled_latchIf _ _ _) (settled_setMissList _ _)))

/-! ## Steps -/

theorem dropEpochs_spec (behind floor : Nat) (es : List Epoch) :
    (dropEpochs behind floor es).2 <:+ es ∧ (es ≠ [] → (dropEpochs behind floor es).2 ≠ []) ∧
      (((dropEpochs behind floor es).2 = es ∧ (dropEpochs behind floor es).1 = floor) ∨
        (dropEpochs behind floor es).2.head?.map Epoch.start = some (dropEpochs behind floor es).1) := by
  induction es generalizing floor with
  | nil => simp [dropEpochs]
  | cons e es ih =>
      cases es with
      | nil => simp [dropEpochs]
      | cons f rest =>
          unfold dropEpochs
          split
          · obtain ⟨a, b, c⟩ := ih f.start
            refine ⟨a.trans (List.suffix_cons _ _), fun _ => b (by simp), .inr ?_⟩
            rcases c with ⟨c, d⟩ | c
            · rw [c, d]; rfl
            · exact c
          · simp

theorem ringSettled_raiseHead (r : Ring) (upto : Nat) : RingSettled r (r.raiseHead upto) := by
  obtain ⟨a, b, c⟩ := dropEpochs_spec (max r.head upto - r.trail) r.floor r.epochs
  exact ⟨rfl, rfl, rfl, rfl, Nat.le_refl _, Nat.le_max_left _ _, a, b, c⟩

theorem RingSettled.foldl {α : Type} (f : Ring → α → Ring) (hf : ∀ s a, RingSettled s (f s a)) (l : List α) (s : Ring) :
    RingSettled s (l.foldl f s) := by
  induction l generalizing s with
  | nil => exact .refl s
  | cons a l ih => exact (hf s a).trans (ih (f s a))

theorem RingSettled.cond (b : Bool) {q x y : Ring} (h : RingSettled q x) (k : RingSettled q y) :
    RingSettled q (bif b then x else y) := by
  cases b <;> assumption

theorem ringSettled_issueAccesses (k : RecordKey) (r : Ring) : RingSettled r (r.issueAccesses k) := by
  have h : RingSettled r { r with
      accesses := r.accesses.map fun a => bif a.record == k then { a with issued := true } else a } :=
    .of_eq rfl rfl rfl rfl rfl rfl rfl rfl
  exact RingSettled.cond _ (h.trans (RingSettled.foldl _ (fun q a => ringSettled_raiseHead _ _) _ _)) h

theorem settled_takeHostTag (k : RecordKey) (s : State) : Settled s (takeHostTag k s) := by
  cases k
  · exact settled_setTag _ _ s
  · exact .refl s

theorem settled_stepIssue (k : RecordKey) (s : State) : Settled s (stepIssue k s) := by
  unfold stepIssue
  split
  · exact .refl s
  · exact Settled.after (settled_handOver _ _) (Settled.after (settled_takeHostTag _ _)
      (Settled.after (settled_mapRings _ _ (ringSettled_issueAccesses k)) (settled_record _ _ _ fun _ => rfl)))

theorem settled_stepSoleWait (k : RecordKey) (s : State) : Settled s (stepSoleWait k s) := by
  unfold stepSoleWait
  refine Settled.cond _ (Settled.cond _ (Settled.after (settled_holdIn _ _ _) ?_) (Settled.after (settled_stepIssue _ _) ?_))
    (settled_stepIssue k s) <;>
  exact Settled.after (settled_withdrawRequest _) (settled_record _ _ _ fun _ => rfl)

theorem settled_grantPartTag (k : RecordKey) (t : Nat) (s : State) : Settled s (grantPartTag k t s) :=
  Settled.after (settled_setTag _ _ _) (settled_record _ _ _ fun _ => rfl)

theorem settled_stepTagWait (k : RecordKey) (s : State) : Settled s (stepTagWait k s) := by
  unfold stepTagWait
  split
  · exact .refl s
  · refine Settled.cond _ ?_ (settled_stepSoleWait k s)
    split
    · exact Settled.after (settled_stepSoleWait _ _) (settled_grantPartTag _ _ _)
    · exact Settled.after (settled_holdIn _ _ _) (settled_tracker _ _ rfl rfl)

theorem settled_stepOverrun (k : RecordKey) (s : State) : Settled s (stepOverrun k s) :=
  Settled.cond _ (Settled.after (settled_tracker _ _ rfl rfl) (settled_record _ _ _ fun _ => rfl)) (settled_stepTagWait k s)

theorem settled_stepRingOrder (k : RecordKey) (s : State) : Settled s (stepRingOrder k s) := by
  unfold stepRingOrder
  split
  · exact settled_stepOverrun k s
  · exact Settled.after (settled_tracker _ _ rfl rfl) (settled_record _ _ _ fun _ => rfl)

theorem settled_acceptAccess (k : RecordKey) (write : Bool) (s : State) (q : AccessRequest) :
    Settled s (acceptAccess k write s q) := by
  refine settled_mapRing _ _ _ fun r => ⟨rfl, rfl, rfl, rfl, ?_, Nat.le_refl _, List.suffix_refl _, id, .inl ⟨rfl, rfl⟩⟩
  cases write
  · exact Nat.le_refl _
  · exact Nat.le_max_left _ _

theorem settled_stepAccept (k : RecordKey) (s : State) : Settled s (stepAccept k s) := by
  unfold stepAccept
  split
  · exact .refl s
  · dsimp only
    split
    · exact settled_refuse k _ s
    · exact Settled.after (settled_stepRingOrder _ _) (Settled.foldl _ (fun s q => settled_acceptAccess _ _ _ _) _ _)

theorem settled_stepLookup (k : RecordKey) (s : State) : Settled s (stepLookup k s) := by
  unfold stepLookup
  split
  · exact .refl s
  · split
    · exact Settled.after (settled_refuseKey _ _ _) (settled_record _ _ _ fun _ => rfl)
    · exact Settled.after (settled_missHandling _ _ _) (settled_record _ _ _ fun _ => rfl)
    · exact Settled.after (settled_stepAccept _ _) (Settled.after (settled_endHold _ _) (settled_record _ _ _ fun _ => rfl))

theorem settled_stepClassify (k : RecordKey) (s : State) : Settled s (stepClassify k s) := by
  unfold stepClassify
  split
  · exact .refl s
  · dsimp only
    split
    · exact settled_refuse k _ s
    · exact Settled.after (settled_stepLookup _ _) (Settled.after (settled_usersUp _ _) (Settled.after (settled_countUp _ _)
        (settled_record _ _ _ fun _ => rfl)))

theorem settled_stepDrain (k : RecordKey) (s : State) : Settled s (stepDrain k s) := by
  unfold stepDrain
  split
  · exact .refl s
  · exact Settled.cond _ (Settled.after (settled_holdIn _ _ _) (settled_setDrain _ _)) (settled_stepClassify k s)

theorem settled_startSteps (k : RecordKey) (s : State) : Settled s (startSteps k s) := by
  unfold startSteps
  split
  · exact .refl s
  · exact Settled.cond _ (settled_stepDrain k s) (settled_stepSoleWait k s)

/-! ## The Keep Unit -/

/-- A change of the Keep Unit whose queue loses jobs at most. -/
theorem settled_keep (x : KeepUnit) (s : State) (hid : x.nextId = s.keep.nextId) (hg : x.gateOpen = s.keep.gateOpen)
    (hq : (x.queue.map Job.id).Sublist (s.keep.queue.map Job.id))
    (ho : s.keep.outcomes.length ≤ Config.outcomePlaces → x.outcomes.length ≤ Config.outcomePlaces) :
    Settled s { s with keep := x } := by
  constructor <;> first
    | rfl | exact BitVec.or_self | exact List.prefix_refl _ | exact fun _ => .refl _
    | exact hid | exact hg | exact hq | exact ho

theorem settled_mapActive (f : Job → Job) (s : State) (hf : ∀ j, (f j).id = j.id) : Settled s (mapActive f s) := by
  refine settled_keep _ s rfl rfl ?_ id
  dsimp only
  cases s.keep.queue with
  | nil => exact List.Sublist.refl _
  | cons j rest => simp [hf j]

theorem settled_setChunk (c : Option Chunk) (s : State) : Settled s (setChunk c s) :=
  settled_keep _ s rfl rfl (List.Sublist.refl _) id

theorem settled_endJob (j : Job) (o : JobOutcome) (s : State) : Settled s (endJob j o s) := by
  refine Settled.after (settled_latch _ _) (settled_keep _ s rfl rfl ?_ fun _ => ?_)
  · exact List.Sublist.map _ List.filter_sublist
  · exact List.length_take_le _ _

theorem settled_endActive (o : JobOutcome) (s : State) : Settled s (endActive o s) := by
  unfold endActive
  split
  · exact settled_endJob _ _ s
  · exact .refl s

theorem settled_endChunk (s : State) : Settled s (endChunk s) := by
  unfold endChunk
  split
  · exact Settled.after (settled_mapActive _ _ fun _ => rfl) (Settled.after (settled_setChunk _ _)
      (Settled.after (settled_setTag _ _ _) (Settled.after (settled_usersDown _ _) (Settled.after (settled_countDown _ _)
        (settled_releaseOwner _ _)))))
  · exact .refl s

theorem settled_stopActive (o : JobOutcome) (s : State) : Settled s (stopActive o s) := by
  unfold stopActive
  split
  · exact .refl s
  · refine Settled.cond _ (.refl s) ?_
    split
    · exact Settled.after (settled_mapDown _ _ _) (Settled.after (settled_releaseOwner _ _)
        (settled_mapActive _ _ fun _ => rfl))
    · exact Settled.after (settled_endActive _ _) (settled_endChunk _)
    · exact settled_mapActive _ _ fun _ => rfl
    · exact Settled.after (settled_endActive _ _) (settled_withdrawRequest _)

theorem settled_stopJob (o : JobOutcome) (s : State) (id : Nat) : Settled s (stopJob o s id) := by
  unfold stopJob
  split
  · exact .refl s
  · refine Settled.cond _ (settled_stopActive o s) ?_
    split
    · exact settled_endJob _ _ s
    · exact .refl s

theorem settled_stopJobs (p : Job → Bool) (o : JobOutcome) (s : State) : Settled s (stopJobs p o s) :=
  Settled.foldl _ (settled_stopJob o) _ s

theorem settled_lowerEnd (id upto : Nat) (s : State) : Settled s (lowerEnd id upto s) := by
  refine settled_keep _ s rfl rfl ?_ (fun h => h)
  dsimp only
  rw [List.map_map, List.map_congr_left (g := Job.id)]
  intro x _
  cases h : x.id == id <;> simp [h]

theorem settled_truncateJob (s : State) (id : Nat) : Settled s (truncateJob s id) := by
  unfold truncateJob
  split
  · exact .refl s
  · refine Settled.cond _ (Settled.cond _ (.refl s) ?_) ?_
    · split
      · exact Settled.after (settled_stopActive _ _) (settled_lowerEnd _ _ _)
      · exact settled_lowerEnd _ _ _
      · exact settled_lowerEnd _ _ _
      · exact Settled.after (settled_stopActive _ _) (settled_lowerEnd _ _ _)
    · split
      · exact Settled.after (settled_endJob _ _ _) (settled_lowerEnd _ _ _)
      · exact .refl s

/-- What a partial operation answers is settled from its argument. -/
def SettledBy (f : State → Option State) : Prop := ∀ s t, f s = some t → Settled s t

theorem settledBy_placeRequest : SettledBy placeRequest? := by
  intro s t h
  unfold placeRequest? at h
  split at h
  · cases h
  · cases hb : s.mayPlace _ <;> rw [hb] at h <;> cases h
    exact Settled.after (Settled.foldl _ (fun s i => settled_setBuffer _ _ _) _ _) (settled_setRequest _ _)

theorem settledBy_requestMet : SettledBy requestMet? := by
  intro s t h
  unfold requestMet? at h
  split at h
  · cases h
  · rename_i q hq
    cases hb : (!q.met && decide (q.count ≤ s.setAsideBuffers)) <;> rw [hb] at h <;> cases h
    exact Settled.after (Settled.foldl _ (fun s i => settled_setBuffer _ _ _) _ _) (settled_setRequest _ _)

theorem settled_placeBuffers (j : Job) (h : Nat) (sources : List (Nat × Capture)) (l : List Nat) (p : Nat) (s : State) :
    Settled s (placeBuffers j h sources p l s) := by
  induction l generalizing p s with
  | nil => exact .refl s
  | cons i rest ih => exact Settled.after (ih _ _) (settled_setBuffer _ _ _)

theorem settled_startChunk (j : Job) (n t : Nat) (s : State) : Settled s (startChunk j n t s) := by
  unfold startChunk
  split
  · exact Settled.after (settled_endActive _ _) (settled_withdrawRequest _)
  · split
    · exact Settled.after (settled_endActive _ _) (settled_withdrawRequest _)
    · exact Settled.after (settled_handOver _ _) (Settled.after (settled_setTag _ _ _)
        (Settled.after (settled_usersUp _ _) (Settled.after (settled_countUp _ _)
          (Settled.after (settled_mapActive _ _ fun _ => rfl) (Settled.after (settled_setChunk _ _)
            (Settled.after (settled_setRequest _ _) (settled_placeBuffers _ _ _ _ _ _)))))))

theorem settledBy_chunkStart : SettledBy chunkStart? := by
  intro s t h
  unfold chunkStart? at h
  split at h
  · rename_i j q p _ _ _
    cases hb : (q.met && s.tracker.tagWait.isEmpty && s.driveUsable && s.keep.chunk.isNone) <;> rw [hb] at h <;> cases h
    exact settled_startChunk _ _ _ _
  · cases h

theorem settledBy_destinationWrite : SettledBy destinationWrite? := by
  intro s t h
  unfold destinationWrite? at h
  split at h
  · split at h
    · dsimp only [cond] at h
      split at h <;> cases h
      exact Settled.after (settled_handOver _ _) (settled_mapActive _ _ fun _ => rfl)
    · cases h
  · cases h

theorem settled_markZeroSource (s : State) : Settled s (markZeroSource s) := by
  unfold markZeroSource
  dsimp only
  refine Settled.after (settled_setChunk _ _) (Settled.after (Settled.foldl _ (fun s i => ?_) _ _)
    (Settled.foldl _ (fun s i => settled_mapBuffer _ _ _) _ _))
  exact Settled.cond _ (settled_setGrantFate _ _) (Settled.after (settled_joinQueue _ _ _) (settled_withdrawFromQueues _ _))

theorem settled_readDone (s : State) : Settled s (readDone s) :=
  Settled.after (settled_mapActive _ _ fun _ => rfl) (settled_setChunk _ _)

theorem settled_keepReadEnded (good : Bool) (s : State) : Settled s (keepReadEnded good s) := by
  unfold keepReadEnded
  split
  · split
    · exact Settled.after (settled_endActive _ _) (settled_endChunk _)
    · refine Settled.cond _ (settled_readDone s) ?_
      split
      · exact Settled.after (settled_endActive _ _) (settled_endChunk _)
      · exact Settled.after (settled_markZeroSource _) (settled_readDone _)
  · exact .refl s

theorem settled_afterWrite (good : Bool) (s : State) : Settled s (afterWrite good s) := by
  unfold afterWrite
  split
  · exact .refl s
  · split
    · exact settled_endActive _ s
    · exact Settled.cond _ (settled_endActive _ s) (Settled.cond _ (settled_endActive _ s) (.refl s))

theorem settled_keepWriteEnded (good : Bool) (s : State) : Settled s (keepWriteEnded good s) := by
  unfold keepWriteEnded
  split
  · exact Settled.after (settled_afterWrite _ _) (Settled.after (settled_mapActive _ _ fun _ => rfl) (settled_endChunk _))
  · exact .refl s

theorem settled_dropChunk (s : State) : Settled s (dropChunk s) := by
  unfold dropChunk
  split
  · have h : Settled s (endChunk (removeDown (fun c => c.user == .keep) s)) :=
      Settled.after (settled_endChunk _) (settled_removeDown _ _)
    dsimp only
    split
    · exact Settled.after (settled_endActive _ _) h
    · exact Settled.cond _ (Settled.after (settled_endActive _ _) (Settled.after (settled_lowerEnd _ _ _) h)) h
  · exact .refl s

/-! ## Transfers -/

theorem settled_discardInvited (k : RecordKey) (lo hi : Nat) (s : State) : Settled s (discardInvited k lo hi s) :=
  Settled.foldl _ (fun _ _ => settled_mapBuffer _ _ _) _ _

theorem settled_dropFailedData (k : RecordKey) (second : Bool) (s : State) : Settled s (dropFailedData k second s) := by
  unfold dropFailedData
  split
  · exact .refl s
  · refine Settled.cond _ (Settled.after (settled_releaseWhere _ _) (settled_record _ _ _ fun _ => rfl)) ?_
    exact Settled.after (settled_releaseWhere _ _) (Settled.after (settled_discardInvited _ _ _ _)
      (settled_record _ _ _ fun _ => rfl))

theorem settled_releaseSplitTag (k : RecordKey) (s : State) : Settled s (releaseSplitTag k s) := by
  unfold releaseSplitTag
  split
  · split
    · exact Settled.after (settled_record _ _ _ fun _ => rfl) (settled_freeTag _ _)
    · exact .refl s
  · exact .refl s

theorem settled_partEnded (k : RecordKey) (second : Bool) (st : PartStatus) (s : State) :
    Settled s (partEnded k second st s) := by
  have h : Settled s (mapRecord k (fun r => bif second then { r with part2 := st } else { r with part1 := st }) s) :=
    settled_record _ _ _ fun r => by cases second <;> rfl
  unfold partEnded
  dsimp only
  split
  · cases second
    · exact Settled.after (settled_releaseSplitTag _ _) (Settled.after (settled_dropFailedData _ _ _) h)
    · exact Settled.after (settled_dropFailedData _ _ _) h
  · exact h

theorem settled_endToUser (c : DownCmd) (st : PartStatus) (s : State) : Settled s (endToUser c st s) := by
  unfold endToUser
  split
  · exact settled_partEnded _ _ _ _
  · exact settled_partEnded _ _ _ _
  · cases c.op == .read
    · exact settled_keepWriteEnded _ _
    · exact settled_keepReadEnded _ _

/-- A change of the Drive Port that keeps its signature. -/
theorem settled_drive (x : DrivePort) (s : State) (h : x.signature = s.drive.signature) :
    Settled s { s with drive := x } := by
  constructor <;> first
    | rfl | exact BitVec.or_self | exact List.prefix_refl _ | exact List.Sublist.refl _ | exact id
    | exact fun _ => .refl _ | exact h

theorem settled_stopSending (tag : Option Nat) (s : State) : Settled s (stopSending tag s) := by
  unfold stopSending
  split
  · exact Settled.cond _ (settled_drive _ s rfl) (.refl s)
  · exact .refl s

theorem settled_freeEndedTag (c : DownCmd) (s : State) : Settled s (freeEndedTag c s) :=
  Settled.cond _ (.refl s) (settled_freeTag _ s)

theorem settled_endDown (c : DownCmd) (st : PartStatus) (s : State) : Settled s (endDown c st s) :=
  Settled.after (settled_endToUser _ _ _) (Settled.after (settled_freeEndedTag _ _) (Settled.after (settled_stopSending _ _)
    (settled_drive _ s rfl)))

theorem settled_failAll (error : Byte) (s : State) : Settled s (failAll error s) :=
  Settled.foldl _ (fun _ _ => settled_endDown _ _ _) _ _

theorem settled_mapOutstanding (tag : Option Nat) (f : DownCmd → DownCmd) (s : State) : Settled s (mapOutstanding tag f s) :=
  settled_drive _ s rfl

theorem settled_setInbox (l : List DiskFrame) (s : State) : Settled s (setInbox l s) := settled_drive _ s rfl

theorem settled_breakCommand (tag : Option Nat) (s : State) : Settled s (breakCommand tag s) :=
  Settled.after (settled_mapOutstanding _ _ _) (settled_stopSending _ _)

theorem settled_takeReadSector (k : RecordKey) (lba : Nat) (data : Sector) (i : Nat) (r : Record) (s : State) :
    Settled s (takeReadSector k lba data i r s) := by
  unfold takeReadSector
  refine Settled.cond _ (.refl s) ?_
  dsimp only
  split
  · exact Settled.after (settled_joinQueue _ _ _) (settled_setBuffer _ _ _)
  · exact settled_setBuffer _ _ _

theorem settled_takeKeepSector (lba : Nat) (data : Sector) (s : State) : Settled s (takeKeepSector lba data s) := by
  unfold takeKeepSector
  split
  · exact Settled.after (settled_joinQueue _ _ _) (settled_mapBuffer _ _ _)
  · exact .refl s

theorem settled_countPassed (tag : Option Nat) (s : State) : Settled s (countPassed tag s) := settled_mapOutstanding _ _ s

theorem settled_countDownData (k : RecordKey) (s : State) : Settled s (countDownData k s) :=
  settled_record _ _ _ fun _ => rfl

theorem settled_takeSector (c : DownCmd) (data : Sector) (s t : State) (h : takeSector c data s = some t) : Settled s t := by
  unfold takeSector at h
  split at h
  · cases h; exact Settled.after (settled_takeKeepSector _ _ _) (settled_countPassed _ _)
  · split at h
    · dsimp only [cond] at h
      split at h <;> cases h
      exact Settled.after (settled_takeReadSector _ _ _ _ _ _) (Settled.after (settled_countDownData _ _)
        (settled_countPassed _ _))
    · cases h; exact settled_countPassed _ _
    · cases h

theorem settled_takeData (tag : Option Nat) (offset : Nat) (sectors : List Sector) (rest : List DiskFrame) (s t : State)
    (h : takeData tag offset sectors rest s = some t) : Settled s t := by
  unfold takeData at h
  split at h
  · cases h; exact settled_setInbox _ _
  · cases h; exact settled_setInbox _ _
  · dsimp only [cond] at h
    split at h
    · cases h; exact settled_setInbox _ _
    · split at h
      · cases h; exact Settled.after (settled_setInbox _ _) (settled_breakCommand _ _)
      · obtain ⟨u, hu, rfl⟩ := Option.map_eq_some_iff.mp h
        exact Settled.after (settled_setInbox _ _) (settled_takeSector _ _ _ _ hu)

theorem settled_takeWriteRequest (tag : Option Nat) (n : Nat) (s : State) : Settled s (takeWriteRequest tag n s) := by
  unfold takeWriteRequest
  split
  · exact .refl s
  · refine Settled.cond _ (.refl s) (Settled.cond _ (settled_breakCommand _ s) (Settled.cond _ (.refl s) ?_))
    dsimp only
    split
    · exact Settled.after (settled_record _ _ _ fun _ => rfl) (settled_mapOutstanding _ _ _)
    · exact settled_mapOutstanding _ _ _

theorem settled_takeEnd (tag : Option Nat) (good : Bool) (error : Byte) (lba : Nat) (s : State) :
    Settled s (takeEnd tag good error lba s) := by
  unfold takeEnd
  split
  · exact .refl s
  · exact settled_endDown _ _ s

theorem settledBy_takeFrame : SettledBy takeFrame? := by
  intro s t h
  unfold takeFrame? at h
  split at h
  · cases h
  unfold takeOne at h
  split at h
  · exact settled_takeData _ _ _ _ _ _ h
  · cases h; exact Settled.after (settled_takeWriteRequest _ _ _) (settled_setInbox _ _)
  · cases h; exact Settled.after (settled_takeEnd _ _ _ _ _) (settled_setInbox _ _)
  · cases h; exact Settled.after (settled_failAll _ _) (settled_setInbox _ _)

theorem settledBy_wakeDrive : SettledBy wakeDrive? := by
  intro s t h
  unfold wakeDrive? at h
  split at h <;> cases h
  exact Settled.after (settled_emitDown _ _) (settled_drive _ _ rfl)

theorem settledBy_sendCommand : SettledBy sendCommand? := by
  intro s t h
  unfold sendCommand? at h
  split at h
  · dsimp only [cond] at h
    split at h <;> cases h
    exact Settled.after (settled_emitDown _ _) (settled_drive _ _ rfl)
  · cases h

theorem settledBy_sendSector : SettledBy sendSector? := by
  intro s t h
  unfold sendSector? at h
  dsimp only [cond] at h
  split at h
  · split at h
    · cases h
    · cases h
      split
      · exact Settled.after (settled_countDownData _ _) (Settled.after (settled_releaseBuffer _ _)
          (Settled.after (settled_countPassed _ _) (Settled.after (settled_drive _ _ rfl) (settled_emitDown _ _))))
      · exact Settled.after (settled_releaseBuffer _ _) (Settled.after (settled_countPassed _ _)
          (Settled.after (settled_drive _ _ rfl) (settled_emitDown _ _)))
  · cases h

theorem settledBy_secondPart (k : RecordKey) : SettledBy (secondPart? k) := by
  intro s t h
  unfold secondPart? at h
  split at h
  · cases h
  · split at h
    · cases h
    · dsimp only [cond] at h
      split at h <;> cases h
      exact Settled.after (settled_handOver _ _) (settled_record _ _ _ fun _ => rfl)

theorem settledBy_decide (k : RecordKey) : SettledBy (decide? k) := by
  intro s t h
  unfold decide? at h
  split at h
  · cases h
  · dsimp only [cond] at h
    split at h <;> cases h
    exact settled_becomeDue _ _ _

/-! ## The internal steps -/

theorem settledBy_applyPending (i : Nat) : SettledBy (applyPending? i) := by
  intro s t h
  unfold applyPending? at h
  dsimp only [cond] at h
  split at h <;> cases h
  rename_i hc
  constructor <;> first
    | rfl | exact BitVec.or_self | exact List.prefix_refl _ | exact List.Sublist.refl _ | exact id
    | exact fun _ => .refl _ | skip
  intro j
  rw [entry_mapEntry]
  split
  · rename_i hj
    rw [hj.1]
    refine .inr ⟨?_, rfl, ?_⟩
    · exact (Bool.and_eq_true_iff.mp hc).1
    · unfold RegionEntry.applied; split <;> simp_all
  · exact .refl _

theorem settledBy_drainRelease (k : RecordKey) : SettledBy (drainRelease? k) := by
  intro s t h
  unfold drainRelease? at h
  split at h
  · cases h
  · dsimp only [cond] at h
    split at h <;> cases h
    exact Settled.after (settled_stepClassify _ _) (Settled.after (settled_holdIn _ _ _) (settled_setDrain _ _))

theorem settledBy_keywaitRecheck (k : RecordKey) : SettledBy (keywaitRecheck? k) := by
  intro s t h
  unfold keywaitRecheck? at h
  split at h
  · cases h
  · dsimp only [cond] at h
    split at h <;> cases h
    exact settled_stepLookup _ _

theorem settledBy_ringorderRelease (k : RecordKey) : SettledBy (ringorderRelease? k) := by
  intro s t h
  unfold ringorderRelease? at h
  split at h
  · cases h
  · dsimp only [cond] at h
    split at h <;> cases h
    exact Settled.after (settled_stepOverrun _ _) (settled_endHold _ _)

theorem settledBy_overrunRelease (k : RecordKey) : SettledBy (overrunRelease? k) := by
  intro s t h
  unfold overrunRelease? at h
  split at h
  · cases h
  · dsimp only [cond] at h
    split at h <;> cases h
    exact Settled.after (settled_stepTagWait _ _) (settled_endHold _ _)

theorem settledBy_tagwaitGrant : SettledBy tagwaitGrant? := by
  intro s t h
  unfold tagwaitGrant? at h
  split at h <;> cases h
  exact Settled.after (settled_stepSoleWait _ _) (Settled.after (settled_grantPartTag _ _ _) (settled_endHold _ _))

theorem settledBy_solewaitRelease : SettledBy solewaitRelease? := by
  intro s t h
  unfold solewaitRelease? at h
  split at h
  · cases h
  · dsimp only [cond] at h
    split at h <;> cases h
    exact Settled.after (settled_stepIssue _ _) (settled_endHold _ _)

/-- A change of the System Port's link alone. -/
theorem settled_sysLink (l : SysLink) (s : State) : Settled s { s with sys := { s.sys with link := l } } := by
  constructor <;> first
    | rfl | exact BitVec.or_self | exact List.prefix_refl _ | exact List.Sublist.refl _ | exact id
    | exact fun _ => .refl _

theorem settledBy_systemPortReady : SettledBy systemPortReady? := by
  intro s t h
  unfold systemPortReady? at h
  dsimp only [cond] at h
  split at h <;> cases h
  exact Settled.after (settled_emitUp _ _) (settled_sysLink _ _)

theorem settledBy_wakeSystem : SettledBy wakeSystem? := by
  intro s t h
  unfold wakeSystem? at h
  split at h
  · dsimp only [cond] at h
    split at h <;> cases h
    exact Settled.after (settled_emitUp _ _) (settled_sysLink _ _)
  · cases h

theorem SettledBy.orElse {f g : State → Option State} (hf : SettledBy f) (hg : SettledBy g) :
    SettledBy fun s => f s <|> g s := by
  intro s t h
  cases hs : f s with
  | none => exact hg s t (by simpa [hs] using h)
  | some u =>
      have : u = t := by simpa [hs] using h
      exact this ▸ hf s u hs

theorem SettledBy.findSome {α : Type} {f : α → State → Option State} (l : State → List α) (hf : ∀ a, SettledBy (f a)) :
    SettledBy fun s => (l s).findSome? (f · s) := by
  intro s t h
  obtain ⟨a, _, ha⟩ := List.exists_of_findSome?_eq_some h
  exact hf a s t ha

/-- What one internal step can do: its result is settled from the state it is taken in. -/
theorem settledBy_internalStep : SettledBy internalStep :=
  .orElse (.findSome (fun _ => List.range Config.regionCount) settledBy_applyPending) <|
  .orElse (.findSome (fun s => s.tracker.records.map Record.key)
    fun k => .orElse (settledBy_drainRelease k) (settledBy_decide k)) <|
  .orElse (.findSome (fun s => s.tracker.keyWait) settledBy_keywaitRecheck) <|
  .orElse (.findSome (fun s => s.tracker.ringOrder) settledBy_ringorderRelease) <|
  .orElse (.findSome (fun s => s.tracker.overrun) settledBy_overrunRelease) <|
  .orElse settledBy_tagwaitGrant <|
  .orElse settledBy_solewaitRelease <|
  .orElse (.findSome (fun s => s.tracker.records.map Record.key) settledBy_secondPart) <|
  .orElse settledBy_destinationWrite <|
  .orElse settledBy_requestMet <|
  .orElse settledBy_chunkStart <|
  .orElse settledBy_takeFrame <|
  .orElse settledBy_placeRequest <|
  .orElse settledBy_wakeDrive <|
  .orElse settledBy_sendCommand <|
  .orElse settledBy_sendSector <|
  .orElse settledBy_systemPortReady settledBy_wakeSystem

/-- A property that every internal step keeps holds after `settle`. -/
theorem settle_keeps (p : State → Prop) (hp : ∀ s t, p s → internalStep s = some t → p t) (s : State) (hs : p s) :
    p (settle s) := by
  unfold settle
  generalize settleBound s = n
  induction n generalizing s with
  | zero => exact hs
  | succ n ih =>
      unfold settleFor
      split
      · exact hs
      · rename_i t ht
        exact ih t (hp s t hs ht)

/-- Everything `settle` leaves alone. -/
theorem settle_settled (s : State) : Settled s (settle s) :=
  settle_keeps (Settled s) (fun t u h k => h.trans (settledBy_internalStep t u k)) s (.refl s)

/-- With no internal step due, `settle` changes nothing. -/
theorem settle_of_quiet (s : State) (h : internalStep s = none) : settle s = s := by
  unfold settle settleBound
  rw [Nat.add_comm, Nat.add_succ]
  unfold settleFor
  rw [h]

end Sys2Proof.Machine
end

