-- ==== Sys2Proof/WellFormed.lean ====
section
/-! DEFINITION. Which commands are well formed: every operand within the field that the manual gives it. The meanings are
total and do not ask for it. -/

namespace Sys2Proof

/-- A record key names a tag of the queue-tag field (0 to 31, R81), or the sole record. -/
def RecordKey.wf : RecordKey → Bool
  | .tag t => decide (t < Config.tagCount)
  | .sole => true

/-- A downstream tag lies in 0 to 31 (R81). -/
def tagWf : Option Nat → Bool
  | some t => decide (t < Config.tagCount)
  | none => true

/-- A host data command: a 48-bit LBA and a 16-bit count field (R75). -/
def transferWf (lba countField : Nat) : Bool :=
  decide (lba < Config.lbaSpace) && decide (countField < 65536)

/-- A read of the profile that gave bytes gave 64 of them (R172). -/
def ProfileRead.wf : ProfileRead → Bool
  | .noAcknowledge => true
  | .bytes image => decide (image.length = 64)

/-- Every operand lies in its field. -/
def Instr.wf : Instr → Bool
  | .profileLoadEnd r => r.wf
  | .read tag lba cf => decide (tag < Config.tagCount) && transferWf lba cf
  | .write tag lba cf => decide (tag < Config.tagCount) && transferWf lba cf
  | .soleRead lba cf => transferWf lba cf
  | .soleWrite lba cf => transferWf lba cf
  | .unknownCommand tag => tagWf tag
  | .drainRelease k => k.wf
  | .pendingDefinitionApplied i => decide (i < Config.regionCount)
  | .keywaitRecheck k => k.wf
  | .keywaitTimerExpiry k => k.wf
  | .ringorderRelease k => k.wf
  | .overrunRelease k => k.wf
  | .overrunTimerExpiry k => k.wf
  | .secondPartIssue k => k.wf
  | .requestForWriteData tag n => tagWf tag && decide (0 < n) && decide (n ≤ 65536)
  | .diskReadData tag off data => tagWf tag && decide (off ≤ 65536) && decide (0 < data.length)
  | .downstreamCommandEnd tag _ _ lba => tagWf tag && decide (lba < Config.lbaSpace)
  | .keepReadEnd _ _ lba => decide (lba < Config.lbaSpace)
  | .keepWriteEnd _ _ lba => decide (lba < Config.lbaSpace)
  | .hostWriteData k _ => k.wf
  | .powerOnReset | .profileLoadTimeout | .resetAsserted | .resetDeasserted | .linkReset | .lockdown
  | .upstreamLinkEstablished | .upstreamLinkLost | .systemPortReady | .downstreamLinkUp | .diskReadySignature _
  | .downstreamLinkLost | .diskSelfReset | .flush _ | .identify _ | .passNoData _ | .tagwaitGrant | .solewaitRelease
  | .diskFailure _ | .writeDataRequest | .readDataBurst | .completion | .grantStart | .grantEnd | .idleGateOpen
  | .bufferRequestMet | .keepChunkStart | .lowPowerRequest _ | .downstreamLowPower | .diskLowPowerAnswer _
  | .diskLowPowerRequest _ | .hostWake | .diskWake | .secondCounted | .minuteTick | .send _ | .fetch _
  | .malformedFrame | .unknownRequest | .setClock | .trimClock | .loadKey | .dropKey | .setDeadline | .putRegionNow
  | .putRegionBoundary | .freeRegionNow | .freeRegionBoundary | .shapeRing | .openRing | .switchRing | .closeRing
  | .submitKeep | .cancelKeep | .readStatusAlerts | .readStatusClock | .readStatusKeyTable | .readStatusRegion
  | .readStatusRing | .readStatusKeepQueue | .readStatusOutcomeList | .readStatusMissList | .readStatusProfileInUse
  | .clearAlerts | .maskAlerts | .oscillatorCycle => true

end Sys2Proof
end

