-- ==== Sys2Proof/Tests/Slice0.lean ====
section
/-! SUPPORT. Tests: ill-formed commands refused by WellFormed, request frames written out byte by byte from Table 10-2, single
steps with results worked out from the manual, and for each statement with hypotheses a state and operands that meet them. -/

namespace Sys2Proof.Tests

open Sys2Proof.Machine

/-! ## Small states -/

/-- Both ports Ready, the load ended Absent, the line Idle. -/
def ready : State :=
  { State.reset with
    sys := { State.reset.sys with link := .ready, loading := false }
    drive := { State.reset.drive with link := .ready }
    line := { State.reset.line with state := .idle } }

/-- The state with a request in progress, its sequence byte 7. -/
def asking (r : Request) (s : State) : State :=
  { s with line := { s.line with state := .working, request := some (r.frame 0x07#8) } }

/-- The state with this frame in progress. -/
def framed (f : List Byte) (s : State) : State := { s with line := { s.line with state := .working, request := some f } }

/-- The state after a command. -/
def after (c : Instr) (s : State) : State :=
  match exec c s with
  | .next t => t
  | .fault _ => s
  | .refused _ => s

/-- A key. -/
def key : Key := { data := 1#128, tweak := 2#128 }

/-- Slot 0 is Live for id 5 with a deadline at minute 100. -/
def keyed (s : State) : State :=
  s.withSlot 0 { content := .live 5#32 key .keepAllowed (some 100), generation := 1#8 }

/-- The clock is Set, at minute 99 and second 59, one unit before a carry. -/
def set99 (s : State) : State :=
  { s with clock := { set := true, accumulator := 2 ^ 24 - 512, increment := 512, seconds := 59, minute := 99 } }

/-- Ring 1 is Live with claim 50, head 40 and one epoch of id 5. -/
def ringed (s : State) : State :=
  s.withRing 1 { Ring.unshaped with
    live := true, base := 1048576, span := 131072, trail := 2048, claim := 50, head := 40, epochs := [{ start := 0, id := 5#32 }] }

/-- A queued read of 8 sectors at LBA 100 on tag 3. -/
def read3 : Record := newRecord (.tag 3) .read 100 8 0 []

/-- The state with these records. -/
def withRecords (l : List Record) (s : State) : State := { s with tracker := { s.tracker with records := l } }

/-- A keep job of id 9 on ring 1, 20 offsets from 10 on. -/
def job9 : Job :=
  { id := 9, ring := 1, sourceBase := 0, start := 10, upto := 30, acceptedUpto := 30, cursor := 10,
    segments := [{ start := 10, id := 5#32 }], extents := [{ host := 65536, count := 20, disk := 65536 }], destination := 5#32,
    policy := .skip, skipped := 0, phase := .idle, stopOutcome := none }

/-- The state with these jobs. -/
def withJobs (l : List Job) (s : State) : State := { s with keep := { s.keep with queue := l } }

/-- A definition with its write bar set and no target. -/
def rawDefinition (kind : Byte) (order ring base : Nat) : RawDefinition :=
  { kind := kind, order := order, readBar := false, writeBar := true, hasTarget := false, ring := ring, base := base,
    target := 0, id := 0#32 }

/-! ## WellFormed refuses what lies outside its fields -/

theorem test_wf_refuses_host_arrivals :
    [Instr.read 32 0 1, .read 0 (2 ^ 48) 1, .read 0 0 65536, .write 32 0 1, .write 0 (2 ^ 48) 1, .write 0 0 65536,
      .soleRead (2 ^ 48) 1, .soleRead 0 65536, .soleWrite (2 ^ 48) 1, .soleWrite 0 65536, .unknownCommand (some 32),
      .profileLoadEnd (.bytes [])].all (fun c => c.wf = false) = true := by decide

theorem test_wf_refuses_events :
    [Instr.drainRelease (.tag 32), .pendingDefinitionApplied 64, .keywaitRecheck (.tag 32), .keywaitTimerExpiry (.tag 32),
      .ringorderRelease (.tag 32), .overrunRelease (.tag 32), .overrunTimerExpiry (.tag 32), .secondPartIssue (.tag 32),
      .requestForWriteData (some 32) 1, .requestForWriteData none 0, .requestForWriteData none 65537,
      .diskReadData (some 32) 0 [zeroSector], .diskReadData none 65537 [zeroSector], .diskReadData none 0 [],
      .downstreamCommandEnd (some 32) true 0#8 0, .downstreamCommandEnd none true 0#8 (2 ^ 48), .keepReadEnd true 0#8 (2 ^ 48),
      .keepWriteEnd true 0#8 (2 ^ 48), .hostWriteData (.tag 32) zeroSector].all (fun c => c.wf = false) = true := by decide

theorem test_wf_accepts_boundary_operands :
    [Instr.read 31 (2 ^ 48 - 1) 65535, .soleWrite 0 0, .pendingDefinitionApplied 63, .drainRelease .sole,
      .requestForWriteData none 65536, .diskReadData (some 31) 65536 [zeroSector]].all (fun c => c.wf) = true := by decide

/-! ## Frames of Table 10-2, written out byte by byte -/

theorem test_frame_trim_clock :
    decodeFrame [0x02#8, 0x07#8, 0x02#8, 0x34#8, 0x02#8] = .request (.trimClock 0x234) := by decide

theorem test_frame_set_clock :
    decodeFrame [0x01#8, 0x00#8, 0x04#8, 0x78#8, 0x56#8, 0x34#8, 0x12#8] = .request (.setClock 0x12345678) := by decide

theorem test_frame_set_deadline_absent :
    decodeFrame [0x05#8, 0x01#8, 0x09#8, 0x05#8, 0x00#8, 0x00#8, 0x00#8, 0x00#8, 0x09#8, 0x00#8, 0x00#8, 0x00#8] =
      .request (.setDeadline 5#32 none) := by decide

theorem test_frame_open_ring :
    decodeFrame [0x09#8, 0x01#8, 0x05#8, 0x02#8, 0x80#8, 0x02#8, 0x00#8, 0x00#8] = .request (.openRing 2 640#32) := by decide

theorem test_frame_put_region_boundary :
    decodeFrame ([0x06#8, 0x01#8, 0x1A#8, 0x03#8, 0x01#8, 0x02#8, 0x14#8, 0x02#8, 0x01#8] ++
        [0x00#8, 0x00#8, 0x10#8, 0x00#8, 0x00#8, 0x00#8, 0x00#8, 0x00#8] ++ List.replicate 8 0#8 ++ List.replicate 4 0#8) =
      .request (.putRegion 3 true (rawDefinition 2#8 20 1 0x100000)) := by decide

theorem test_frame_submit_keep :
    decodeFrame ([0x0C#8, 0x01#8, 0x15#8, 0x12#8, 0x01#8, 0x0A#8, 0x00#8, 0x00#8, 0x00#8, 0x00#8, 0x00#8] ++
        [0x14#8, 0x00#8, 0x00#8, 0x00#8, 0x00#8, 0x00#8, 0x01#8, 0x00#8, 0x00#8, 0x00#8, 0x13#8, 0x00#8, 0x00#8]) =
      .request (.submitKeep 2 .skip 10 20 [(65536, 20)]) := by decide

theorem test_frame_shapes :
    decodeFrame [0x02#8, 0x07#8] = .malformed ∧ decodeFrame [0x02#8, 0x07#8, 0x31#8] = .malformed
      ∧ decodeFrame [0x11#8, 0x07#8, 0x00#8] = .unknownType ∧ decodeFrame [0x02#8, 0x07#8, 0x01#8, 0x00#8] = .mismatched := by
  decide

theorem test_transactions :
    decodeTransaction [0x3C#8, 0x02#8] = some (.send [0x02#8]) ∧ decodeTransaction [0xC3#8, 0#8, 0#8] = some (.fetch 2)
      ∧ decodeTransaction [0x3D#8] = none ∧ decodeTransaction [] = none := by decide

/-! ## Single steps -/

/-- R158: a trim below 256 is clamped, and the reply carries the value in force. -/
theorem test_trim_clamps : (after .trimClock (asking (.trimClock 10) ready)).clock.increment = 256 := by decide

/-- R157, R33: the cycle that ends minute 99 ticks minute 100, and the deadline at 100 expires. -/
theorem test_minute_tick_expires :
    (after .minuteTick (set99 (keyed ready))).clock.minute = 100
      ∧ ((after .minuteTick (set99 (keyed ready))).slot 0).content = .expired 5#32 .keepAllowed (some 100) := by decide

/-- R43: Lockdown empties the slot and keeps its generation. -/
theorem test_lockdown_wipes :
    (after .lockdown (keyed ready)).slot 0 = { content := .empty, generation := 1#8 } := by decide

/-- R30: a load takes the lowest-numbered Empty slot, whose generation rises by one. -/
theorem test_load_key_takes_next_slot :
    (after .loadKey (asking (.loadKey 6#32 key 0x01#8 none) (keyed ready))).slot 1 =
      { content := .live 6#32 key .keepNever none, generation := 1#8 } := by decide

/-- R29: an id that has a slot is refused Duplicate. -/
theorem test_load_key_duplicate :
    (after .loadKey (asking (.loadKey 5#32 key 0x01#8 none) (keyed ready))).line.reply =
      some { status := .refused .duplicate, sequence := 0x07#8, body := [] } := by decide

/-- R94, R101: a read of unmapped sectors under Pass goes out at once, on its tag and at its own LBA. -/
theorem test_read_goes_out :
    (after (.read 3 100 8) ready).wires.down = [.command (some 3) .read 100 8 []] := by decide

/-- R75: a count field of 0 stands for 65 536 sectors. -/
theorem test_count_field_zero :
    (after (.write 0 0 0) ready).wires.down = [.command (some 0) .write 0 65536 []] := by decide

/-- R76: with R = 4, tag 28 is refused BadTag, and the completion carries the tag and code 02h (R179). -/
theorem test_bad_tag :
    (after .completion (after (.read 28 100 8) ready)).wires.up = [.completion (some 28) 0x51#8 0x04#8 0 0x02] := by decide

/-- R84: an end before all data has passed is an error at the first sector that had not, and is reported so (R179). -/
theorem test_short_read :
    (after .completion (after (.downstreamCommandEnd (some 3) true 0x40#8 0) (after (.read 3 100 8) ready))).wires.up =
      [.completion (some 3) 0x51#8 0x40#8 100 0] := by decide

/-- R78: with R = 4 the queue-depth field of Identify data reads 27. -/
theorem test_identify_depth : sectorByte (identifyRewrite 4 (setSectorByte 150 0x1F#8 zeroSector)) 150 = 27#8 := by decide +kernel

/-- R85: a quiet System Port accepts slumber. -/
theorem test_low_power : (after (.lowPowerRequest .slumber) ready).sys.link = .asleep .slumber := by decide

/-- R171: clearing leaves the other causes. -/
theorem test_clear_alerts :
    (after .clearAlerts (asking (.clearAlerts 0x10#8) (ready.withLatched 0x12#8))).line.latched = 0x02#8 := by decide

/-- R166: a fetch while a request is in progress answers Pending with the request's sequence byte (R175, R178). -/
theorem test_fetch_pending :
    (after (.fetch 5) (asking (.trimClock 512) ready)).wires.spi = [[0x02#8, 0x07#8, 0x00#8, 0x00#8, 0xFF#8]] := by decide

/-! ## The hypotheses of each statement are met -/

theorem witness_StepRunsFrontCommand : ({ ready with pending := [.grantEnd, .lockdown] } : State).pending = .grantEnd :: [.lockdown] :=
  rfl

theorem witness_StepKeepsClockLaw :
    (set99 ready).clock.Law ∧ (∃ t, step { set99 ready with pending := [.minuteTick] } = .next t)
      ∧ ({ set99 ready with pending := [.minuteTick] } : State).pending.head? ≠ some .powerOnReset := ⟨by decide, ⟨_, rfl⟩, by decide⟩

/-- A set clock, a Live key and a Miss List entry without a slot. -/
def keysState : State :=
  { setMissList [7#32] (keyed (set99 ready)) with pending := [.minuteTick] }

theorem witness_StepKeepsTableLaws :
    keysState.KeyTableLaw ∧ keysState.DeadlineLaw ∧ keysState.MissListLaw ∧ ∃ t, step keysState = .next t :=
  ⟨by decide, by decide, by decide, _, rfl⟩

/-- Lockdown is set. -/
def lockedState : State := { ready with keys := { ready.keys with lockdown := true }, pending := [.linkReset] }

theorem witness_StepKeepsTableLaws_lockdown :
    lockedState.LockdownLaw ∧ lockedState.keys.lockdown = true ∧ lockedState.pending.head? ≠ some .powerOnReset
      ∧ ∃ t, step lockedState = .next t := ⟨by decide, by decide, by decide, _, rfl⟩

theorem witness_StepKeepsRingLaws :
    (ringed ready).RingLaw ∧ ((ringed ready).ring 1).live = true
      ∧ (∃ t, step { ringed ready with pending := [.grantEnd] } = .next t ∧ (t.ring 1).live = true) :=
  ⟨by decide, by decide, _, rfl, by decide⟩

/-- Entry 4 is Active as ring 1's entry. -/
def mapped (s : State) : State :=
  s.withEntry 4 (some { kind := .ring 1, base := 2 ^ 24, order := 20, readBar := false, writeBar := false }) none

theorem witness_StepKeepsRingLaws_names : State.reset.RingNameLaw ∧ ∃ t, step State.reset = .next t := by
  refine ⟨?_, _, rfl⟩
  have table : (List.range 64).all (fun i => (List.range 4).all fun r => !(State.reset.entry i).names r) = true := by decide
  have vacant : ∀ i < Config.regionCount, ∀ r < Config.ringCount, (State.reset.entry i).names r = false := by
    simpa using table
  have idle : ∀ r < Config.ringCount, (State.reset.ring r).live = false := by decide
  intro r hr
  refine ⟨fun i hi j _ n _ => ?_, fun h => ?_⟩
  · rw [vacant i hi r hr] at n
    cases n
  · rw [idle r hr] at h
    cases h

theorem witness_StepKeepsKeepLaw :
    (withJobs [job9] ready).keep.Law ∧ job9 ∈ (withJobs [job9] ready).keep.queue
      ∧ (∃ t, step { withJobs [job9] ready with pending := [.hostWake] } = .next t ∧ job9 ∈ t.keep.queue) :=
  ⟨by decide, by decide, _, rfl, by decide⟩

theorem witness_StepKeepsPoolLaw : ready.PoolLaw ∧ ∃ t, step { ready with pending := [.completion] } = .next t :=
  ⟨by decide, _, rfl⟩

theorem witness_AlertClockMapAndShapeFrames :
    (∃ t, exec .completion ready = .next t) ∧ Instr.completion ≠ .powerOnReset ∧ Instr.completion ≠ .clearAlerts
      ∧ Instr.completion ≠ .maskAlerts ∧ Instr.completion ≠ .shapeRing ∧ ready.line.state ≠ .loading
      ∧ Instr.completion ∉ [Instr.setClock, .trimClock, .oscillatorCycle, .secondCounted, .minuteTick]
      ∧ Instr.completion ∉ [Instr.setClock, .oscillatorCycle, .secondCounted, .minuteTick, .loadKey, .dropKey, .setDeadline,
          .lockdown]
      ∧ Instr.completion ∉ [Instr.putRegionNow, .putRegionBoundary, .freeRegionNow, .freeRegionBoundary] :=
  ⟨⟨_, rfl⟩, by decide, by decide, by decide, by decide, by decide, by decide, by decide, by decide⟩

theorem witness_RequestFrameRoundTrip :
    (Request.setClock (2 ^ 32 - 1)).fits = true ∧ (Request.loadKey 5#32 key 0xFF#8 (some 0)).fits = true
      ∧ (Request.putRegion 255 true (rawDefinition 0xFF#8 255 255 (2 ^ 64 - 1))).fits = true
      ∧ (Request.submitKeep 3 .skip (2 ^ 48 - 1) (2 ^ 32 - 1) [(0, 1), (1, 2 ^ 24), (2 ^ 48 - 1, 1), (4, 5)]).fits = true := by
  decide

theorem witness_RefusedRequestChangesNothing :
    (asking (.dropKey 0#32) ready).line.state = .working ∧ internalStep (asking (.dropKey 0#32) ready) = none
      ∧ (∃ t, exec .dropKey (asking (.dropKey 0#32) ready) = .next t ∧ t.line.state = .idle
        ∧ t.line.reply = some { status := .refused .badArgument, sequence := 0x07#8, body := [] })
      ∧ Instr.dropKey ≠ .powerOnReset := ⟨by decide, by decide, ⟨_, rfl, by decide, by decide⟩, by decide⟩

theorem witness_SendAndFetch_send :
    ready.line.request = none ∧ (framed [] ready).line.request = some [] := by decide

theorem witness_SendAndFetch_fetch :
    (framed [1#8, 2#8] ready).line.request = some [1#8, 2#8] ∧ (ready.answered 7#8 .staged []).line.request = none
      ∧ (ready.answered 7#8 .staged []).line.reply = some { status := .staged, sequence := 7#8, body := [] }
      ∧ ready.line.request = none ∧ ready.line.reply = none := by decide

theorem witness_MalformedAndUnknownAnswered :
    [[], [0x01#8, 0x02#8], [0x01#8, 0x02#8, 49#8], [0x01#8, 0x02#8, 0x01#8]].all (fun f =>
        (framed f ready).line.state = .working ∧ (framed f ready).line.request = some f ∧ internalStep (framed f ready) = none
          ∧ (f.length < 3 ∨ 48 < (byteAt f 2).toNat ∨ f.length ≠ 3 + (byteAt f 2).toNat))
      ∧ [[0x00#8, 0x02#8, 0x00#8], [0x11#8, 0x02#8, 0x00#8]].all (fun f =>
        internalStep (framed f ready) = none ∧ 3 ≤ f.length ∧ (byteAt f 2).toNat ≤ 48 ∧ f.length = 3 + (byteAt f 2).toNat
          ∧ ((byteAt f 0).toNat = 0 ∨ 16 < (byteAt f 0).toNat))
      ∧ [[0x03#8, 0x02#8, 0x00#8]].all (fun f =>
        internalStep (framed f ready) = none ∧ 3 ≤ f.length ∧ (byteAt f 2).toNat ≤ 48 ∧ f.length = 3 + (byteAt f 2).toNat
          ∧ byteAt f 0 = 0x03#8 ∧ (byteAt f 2).toNat ≠ 42) := by decide

theorem witness_ReadStatusReports :
    (List.range 9).all (fun k => internalStep (asking (.readStatus k 3) ready) = none
        ∧ (asking (.readStatus k 3) ready).inProgress 7#8 (.readStatus k 3))
      ∧ [9, 255].all (fun k => (asking (.readStatus k 3) ready).inProgress 7#8 (.readStatus k 3))
      ∧ [63, 64].all (fun i => (asking (.readStatus 3 i) ready).inProgress 7#8 (.readStatus 3 i))
      ∧ [3, 4].all (fun i => (asking (.readStatus 4 i) ready).inProgress 7#8 (.readStatus 4 i)) := by decide

theorem witness_ClearAndMaskAlerts :
    [0x00#8, 0x7F#8, 0x80#8].all (fun x => internalStep (asking (.clearAlerts x) ready) = none
      ∧ (asking (.clearAlerts x) ready).inProgress 7#8 (.clearAlerts x)
      ∧ internalStep (asking (.maskAlerts x) ready) = none
      ∧ (asking (.maskAlerts x) ready).inProgress 7#8 (.maskAlerts x)) := by decide

theorem witness_ClockRequests_set :
    (asking (.setClock 5) ready).inProgress 7#8 (.setClock 5) ∧ ready.clock.set = false
      ∧ (asking (.setClock 99) (set99 ready)).inProgress 7#8 (.setClock 99) ∧ (set99 ready).clock.set = true
      ∧ 99 = (set99 ready).clock.minute ∧ (asking (.setClock 100) (set99 ready)).inProgress 7#8 (.setClock 100)
      ∧ (set99 ready).clock.minute < 100 ∧ (asking (.setClock 98) (set99 ready)).inProgress 7#8 (.setClock 98)
      ∧ 98 < (set99 ready).clock.minute := by decide

theorem witness_ClockRequests_trim :
    [0, 255, 256, 1023, 1024, 65535].all fun i => (asking (.trimClock i) ready).inProgress 7#8 (.trimClock i) := by decide

/-- The set clock of `set99`, its carry one unit away, with other seconds and minute. -/
def clockAt (seconds minute lack : Nat) : Clock :=
  { set := true, accumulator := 2 ^ 24 - 512 - lack, increment := 512, seconds := seconds, minute := minute }

theorem witness_OscillatorCycles :
    ready.clock.set = false
      ∧ (clockAt 0 0 1).accumulator + (clockAt 0 0 1).increment < 2 ^ 24
      ∧ (2 ^ 24 ≤ (clockAt 58 0 0).accumulator + (clockAt 58 0 0).increment ∧ (clockAt 58 0 0).seconds < 59)
      ∧ (2 ^ 24 ≤ (clockAt 59 0 0).accumulator + (clockAt 59 0 0).increment ∧ (clockAt 59 (2 ^ 32 - 1) 0).minute = 2 ^ 32 - 1)
      ∧ (clockAt 59 (2 ^ 32 - 2) 0).minute < 2 ^ 32 - 1 := by decide

theorem witness_LoadKey :
    (asking (.loadKey 6#32 key 0x00#8 none) (keyed ready)).inProgress 7#8 (.loadKey 6#32 key 0x00#8 none)
      ∧ (keyed ready).loadKeyRefusal 6#32 0x00#8 none = none ∧ (keyed ready).lowestEmpty 1
      ∧ (asking (.loadKey 5#32 key 0x02#8 none) (keyed ready)).inProgress 7#8 (.loadKey 5#32 key 0x02#8 none)
      ∧ (keyed ready).loadKeyRefusal 5#32 0x02#8 none = some .badArgument
      ∧ (keyed ready).loadKeyRefusal 5#32 0x01#8 none = some .duplicate
      ∧ (set99 ready).loadKeyRefusal 5#32 0x01#8 (some 99) = some .expired := by decide

theorem witness_DropKeyAndSetDeadline_drop :
    (keyed ready).KeyTableLaw ∧ [0#32, 4#32, 5#32].all (fun id => (asking (.dropKey id) (keyed ready)).inProgress 7#8 (.dropKey id))
      ∧ ¬ (keyed ready).holds 4#32 ∧ ((keyed ready).slot 0).content.id? = some 5#32 := by decide

theorem witness_DropKeyAndSetDeadline_set :
    (keyed (set99 ready)).KeyTableLaw
      ∧ [none, some 99, some 100].all (fun d =>
          (asking (.setDeadline 5#32 d) (keyed (set99 ready))).inProgress 7#8 (.setDeadline 5#32 d))
      ∧ (asking (.setDeadline 0#32 none) ready).inProgress 7#8 (.setDeadline 0#32 none)
      ∧ (asking (.setDeadline 4#32 none) ready).inProgress 7#8 (.setDeadline 4#32 none) ∧ ¬ ready.holds 4#32
      ∧ ((keyed ready).slot 0).content = .live 5#32 key .keepAllowed (some 100) ∧ (keyed ready).clock.set = false
      ∧ (keyed (set99 ready)).clock.set = true ∧ (keyed (set99 ready)).clock.minute = 99
      ∧ ((ready.withSlot 3 { content := .expired 5#32 .keepNever none, generation := 2#8 }).slot 3).content =
          .expired 5#32 .keepNever none := by
  refine ⟨?_, ?_, ?_, ?_, ?_, ?_, ?_, ?_, ?_, ?_⟩ <;> decide

theorem witness_PutAndFreeRegion_put :
    (asking (.putRegion 63 true (rawDefinition 2#8 20 1 (2 ^ 24))) ready).inProgress 7#8
        (.putRegion 63 true (rawDefinition 2#8 20 1 (2 ^ 24)))
      ∧ PutVerdict ready 63 (rawDefinition 2#8 20 1 (2 ^ 24)) none
      ∧ PutVerdict ready 64 (rawDefinition 2#8 20 1 (2 ^ 24)) (some .badArgument)
      ∧ PutVerdict ready 0 (rawDefinition 5#8 20 1 (2 ^ 24)) (some .badArgument)
      ∧ PutVerdict (mapped (ringed ready)) 4 (rawDefinition 3#8 11 0 0) (some .ringLive)
      ∧ PutVerdict (mapped ready) 5 (rawDefinition 2#8 20 1 (2 ^ 24)) (some .ringTaken) := by
  have fits : (rawDefinition 2#8 20 1 (2 ^ 24)).allowed := by unfold RawDefinition.allowed; decide
  have barred : (rawDefinition 3#8 11 0 0).allowed := by unfold RawDefinition.allowed; decide
  have odd : ¬ (rawDefinition 5#8 20 1 (2 ^ 24)).allowed := by unfold RawDefinition.allowed; decide
  have empty : ∀ j < 64, (ready.entry j).active = none ∧ (ready.entry j).staged = none := by
    simpa using (by decide : (List.range 64).all (fun j => (ready.entry j).active.isNone && (ready.entry j).staged.isNone) = true)
  refine ⟨by decide, .accepted (by decide) fits ?_ ?_, .badArgument (.inl (by decide)), .badArgument (.inr odd),
    .ringLive (by decide) barred ⟨_, 1, rfl, rfl, by decide⟩, .ringTaken (by decide) fits ?_ rfl ⟨4, by decide, by decide, _, rfl, .inl rfl⟩⟩
  · rintro ⟨d, r, h, -⟩
    rw [(empty 63 (by decide)).1] at h
    cases h
  · rintro - ⟨j, hj, -, d, -, h | h⟩
    · rw [(empty j hj).1] at h
      cases h
    · rw [(empty j hj).2] at h
      cases h
  · rintro ⟨d, r, h, -⟩
    have none : ((mapped ready).entry 5).active = none := by decide
    rw [none] at h
    cases h

/-- Entry 4 with a count of 1 and, if asked, a staged definition. -/
def counted (staged : Option Staged) (n : Nat) (s : State) : State :=
  mapEntry 4 (fun e => { e with staged := staged, inFlight := n }) (mapped s)

theorem witness_PutAndFreeRegion_free :
    [4, 63, 64].all (fun i => (asking (.freeRegion i true) (mapped ready)).inProgress 7#8 (.freeRegion i true))
      ∧ (mapped (ringed ready)).ringLiveAt 4 ∧ ¬ (mapped ready).ringLiveAt 4 ∧ ((mapped ready).entry 4).active ≠ none
      ∧ ((mapped ready).entry 63).active = none ∧ ((mapped ready).entry 63).staged = none
      ∧ ((mapped ready).entry 4).inFlight = 0 ∧ ((counted none 1 ready).entry 4).inFlight = 1 := by
  refine ⟨by decide, ⟨_, 1, rfl, rfl, by decide⟩, ?_, by decide, by decide, by decide, by decide, by decide⟩
  rintro ⟨d, r, h, k, l⟩
  cases h
  cases k
  revert l
  decide

theorem witness_ShapeAndOpenRing_shape :
    [(1, 0, 131072, 2048), (3, 0, 0, 0), (4, 0, 131072, 2048)].all (fun (r, pb, p, w) =>
        (asking (.shapeRing r pb p w) ready).inProgress 7#8 (.shapeRing r pb p w))
      ∧ ready.shapeRefusal 1 0 131072 2048 = none ∧ ready.shapeRefusal 4 0 131072 2048 = some .badArgument
      ∧ (ringed ready).shapeRefusal 1 0 131072 2048 = some .ringLive
      ∧ (ringed ready).shapeRefusal 0 1048576 131072 2048 = some .overlap := by
  refine ⟨?_, ?_, ?_, ?_, ?_⟩ <;> decide

/-- Ring 1 is shaped and Idle. -/
def shaped (s : State) : State := s.withRing 1 { Ring.unshaped with base := 1048576, span := 131072, trail := 2048 }

theorem witness_ShapeAndOpenRing_open :
    (asking (.openRing 1 5#32) (mapped (shaped ready))).inProgress 7#8 (.openRing 1 5#32)
      ∧ (shaped ready).openRefusal 1 0#32 = some .badArgument ∧ (ringed ready).openRefusal 1 5#32 = some .ringLive
      ∧ (mapped (shaped ready)).openRefusal 1 5#32 = none := by
  refine ⟨by decide, by decide, by decide, ?_⟩
  unfold State.openRefusal
  rw [if_neg (by decide), if_neg (by decide), if_neg (by decide), if_neg (not_not_intro ⟨4, by decide, by decide⟩),
    if_neg (by decide)]

/-- Ring 1 with these epochs and its head. -/
def ringWith (epochs : List Epoch) (head : Nat) (s : State) : State :=
  s.withRing 1 { (ringed s).ring 1 with epochs := epochs, head := head }

theorem witness_SwitchRing :
    [(1, 6#32), (4, 6#32), (1, 0#32)].all (fun (r, id) => (asking (.switchRing r id) (ringed ready)).inProgress 7#8 (.switchRing r id))
      ∧ ((ready.ring 1).live = false ∧ ((ringed ready).ring 1).live = true)
      ∧ ((ringWith [{ start := 50, id := 5#32 }] 50 ready).ring 1).epochs = [] ++ [{ start := 50, id := 5#32 }]
      ∧ ((ringed ready).ring 1).epochs = [] ++ [{ start := 0, id := 5#32 }] ∧ 0 < ((ringed ready).ring 1).claim
      ∧ [2, 3].all (fun head => ((ringWith [{ start := 0, id := 5#32 }, { start := 3, id := 6#32 }, { start := 8, id := 7#32 },
          { start := 9, id := 5#32 }] head ready).ring 1).head = head) := by
  refine ⟨?_, ?_, ?_, ?_, ?_, ?_⟩ <;> decide

theorem witness_CloseRing :
    [1, 0, 4].all (fun r => (asking (.closeRing r) (withJobs [job9] (ringed ready))).inProgress 7#8 (.closeRing r))
      ∧ (withJobs [job9] (ringed ready)).keep.Law ∧ ((ringed ready).ring 1).live = true ∧ ((ringed ready).ring 0).live = false := by
  refine ⟨?_, ?_, ?_, ?_⟩ <;> decide

theorem witness_BarsRunsAndRingAcceptanceTests : 0 < 1 ∧ ((ringed ready).ring 1).live = true := by decide

/-! ### Start-up, resets, Lockdown and the links -/

theorem witness_PowerOnAndLoad :
    State.reset.line.state = .loading ∧ State.reset.keys.lockdownSeen = false ∧ ready.line.state ≠ .loading
      ∧ (after .lockdown State.reset).keys.lockdownSeen = true ∧ (after .lockdown State.reset).line.state = .loading := by decide

theorem witness_ProfileInRange :
    (List.replicate 64 0x00#8).length = 64 ∧ (profileOf (.bytes (List.replicate 64 0x00#8))).result = .faulty
      ∧ (profileOf (.bytes (0x01#8 :: 0xFF#8 :: List.replicate 62 0x00#8))).result = .good := by decide

/-- The part tags of an image that is Good but for byte 1 at the ends of its range (Table 10-4, R173). -/
theorem witness_ProfileInRange_ends :
    [1, 2, 8, 9].map (fun n => (profileOf (.bytes (1#8 :: BitVec.ofNat 8 n :: List.replicate 61 0#8 ++
      [BitVec.ofNat 8 (255 - n)]))).partTags) = [4, 2, 8, 4] := by decide

theorem witness_LineReset :
    ready.resetAsserted = false ∧ (after .resetAsserted (keyed ready)).resetAsserted = true := by decide

theorem witness_LinkResets :
    (Instr.linkReset, SysLink.notReady) ∈ [(Instr.linkReset, SysLink.notReady), (.upstreamLinkLost, .down)]
      ∧ (withJobs [job9] (withRecords [read3] ready)).keep.Law ∧ (withJobs [job9] (withRecords [read3] ready)).sys.link ≠ .down
      ∧ State.reset.sys.link = .down := by decide

theorem witness_EntersLockdown :
    (withJobs [job9] (keyed ready)).keep.Law ∧ (keyed ready).line.state ≠ .loading ∧ (keyed ready).keys.lockdown = false
      ∧ State.reset.line.state = .loading ∧ lockedState.keys.lockdown = true := by decide

/-- The links in these states. -/
def links (u : SysLink) (d : DriveLink) (s : State) : State :=
  { s with sys := { s.sys with link := u }, drive := { s.drive with link := d } }

theorem witness_LinkStates :
    (links .down .down ready).sys.link = .down ∧ (links .down .down ready).resetAsserted = false
      ∧ (links .notReady .ready ready).sys.link = .notReady ∧ (links .notReady .ready ready).sys.loading = false
      ∧ (links .notReady .ready ready).drive.link = .ready ∧ (links .down .down ready).drive.link = .down
      ∧ (links .ready .starting ready).drive.link = .starting ∧ (links .ready (.asleep .slumber) ready).drive.link ≠ .down
      ∧ (links .ready (.asleep .slumber) ready).drive.link = .asleep .slumber := by decide

/-! ### Arrivals -/

theorem witness_ArrivalRefused :
    arrivalOf (.unknownCommand (some 3)) = some { tag := some 3, unsupported := true, kind := .passNoData, host := 0, count := 0, frame := [] }
      ∧ ready.sys.link = .ready ∧ ArrivalVerdict ready (dataArrival (some 0) .read (2 ^ 48) 1) (some .unsupported)
      ∧ ArrivalVerdict ready (dataArrival (some 28) .read 0 1) (some .badTag)
      ∧ ArrivalVerdict (withRecords [read3] ready) (dataArrival (some 3) .read 0 1) (some .badTag)
      ∧ ArrivalVerdict (withRecords [newRecord .sole .flush 0 0 0 []] ready) (dataArrival (some 3) .write 0 1) (some .notSole)
      ∧ ArrivalVerdict (withRecords [read3] ready) (dataArrival none .soleRead 0 1) (some .notSole)
      ∧ (links .notReady .starting ready).sys.link = .notReady := by
  refine ⟨rfl, rfl, .unsupported (by decide), .tagAbove (by decide) 28 rfl (by decide),
    .tagInFlight (by decide) 3 rfl (by decide) ⟨read3, by decide, rfl⟩,
    .queuedBesideSole (by decide) 3 rfl (by decide) ?_ ⟨newRecord .sole .flush 0 0 0 [], by decide, rfl⟩,
    .soleBesideAny (by decide) rfl (by decide), rfl⟩
  simp [State.occupied, withRecords, newRecord]

theorem witness_ArrivalAcceptedAndPlainCommandIssued :
    [Instr.read 0 0 1, .write 27 0 0, .soleRead 0 1, .soleWrite 0 1, .flush [], .identify [], .passNoData []].all (fun c =>
        (arrivalOf c).isSome)
      ∧ ArrivalVerdict ready (dataArrival (some 0) .read 0 1) none ∧ ArrivalVerdict ready (dataArrival (some 27) .write 0 0) none
      ∧ ArrivalVerdict ready (dataArrival none .soleRead 0 1) none ∧ ready.line.profile.unmapped = .pass
      ∧ ready.keep.queue = [] ∧ ready.keep.chunk = none ∧ (List.range 64).all (fun i => (ready.entry i).active.isNone)
      ∧ (∀ r < Config.ringCount, (ready.ring r).span = 0 ∧ (ready.ring r).accesses = []) := by
  refine ⟨by decide, .queuedAccepted (by decide) 0 rfl (by decide) ?_ ?_, .queuedAccepted (by decide) 27 rfl (by decide) ?_ ?_,
    .soleAccepted (by decide) rfl (by decide), by decide, by decide, by decide, by decide, by decide⟩ <;>
    simp [State.occupied, ready, State.reset]

/-! ### Holds and their releases -/

/-- The state with tracker orders in which tag 3 waits. -/
def holding (x : Record) (s : State) : State :=
  { s with tracker := { s.tracker with
      records := [x], keyWait := [.tag 3], ringOrder := [.tag 3], overrun := [.tag 3], tagWait := [.tag 3] } }

theorem witness_RegionHolds :
    4 < Config.regionCount ∧ ((counted (some .vacate) 0 ready).entry 4).inFlight = 0
      ∧ ((counted (some .vacate) 0 ready).entry 4).staged = some .vacate
      ∧ ((counted (some (.define { kind := .barred, base := 0, order := 11, readBar := true, writeBar := true })) 0 ready).entry
          4).staged = some (.define { kind := .barred, base := 0, order := 11, readBar := true, writeBar := true })
      ∧ (setDrain [.tag 3] (withRecords [read3] ready)).record? (.tag 3) = some read3
      ∧ .tag 3 ∈ (setDrain [.tag 3] (withRecords [read3] ready)).regions.drain
      ∧ (List.range 64).all (fun j => (ready.entry j).staged.isNone) := by
  refine ⟨?_, ?_, ?_, ?_, ?_, ?_, ?_⟩ <;> decide

/-- A run of id 5. -/
def run5 : Run :=
  { first := 100, count := 8, binding := some 4, kind := .programme, id := some 5#32, capture := none, disk := some 100,
    ring := none, epochStart := none, virt := none, split := none }

/-- Tag 3 in KeyWait for id 5. -/
def waiting : Record := { read3 with state := .keyWait, runs := [run5], awaited := [5#32], timer := some (.keyWait 200) }

/-- Tag 3 in KeyWait for ids 5 and 6. -/
def waitingTwo : Record := { waiting with runs := [run5, { run5 with id := some 6#32 }], awaited := [5#32, 6#32] }

theorem witness_KeyWaitEnds :
    (holding waiting (keyed ready)).record? (.tag 3) = some waiting ∧ .tag 3 ∈ (holding waiting (keyed ready)).tracker.keyWait
      ∧ 5#32 ∈ waiting.awaited ∧ (holding waiting (keyed ready)).holds 5#32 ∧ protectedIds waiting.runs = [5#32]
      ∧ (holding waiting (keyed ready)).lookup 5#32 = .captured { slot := 0, generation := 1#8 }
      ∧ (holding waiting (ready.withSlot 0 { content := .expired 5#32 .keepNever none, generation := 1#8 })).lookup 5#32 = .expired
      ∧ protectedIds waitingTwo.runs = [5#32, 6#32] ∧ (setMissList [6#32] (keyed ready)).lookup 6#32 = .miss
      ∧ (keyed ready).keys.lockdown = false ∧ (setMissList [6#32] (keyed ready)).keys.missList = [6#32] := by
  refine ⟨?_, ?_, ?_, ?_, ?_, ?_, ?_, ?_, ?_, ?_, ?_⟩ <;> decide

/-- Tag 3 writes offsets 131 090 to 131 097 of ring 1, over the slots of 18 to 25, which job 9 has yet to copy. -/
def overwriting (s : State) : State :=
  withJobs [job9] (mapRing 1 (fun q =>
    { q with accesses := [{ record := .tag 3, write := true, first := 131090, count := 8, issued := false }] }) (ringed s))

/-- Tag 3 in Overrun. -/
def held3 : Record := { read3 with kind := .write, state := .overrun, timer := some (.overrun 400) }

theorem witness_RingHoldsEnd :
    (holding held3 (overwriting ready)).record? (.tag 3) = some held3 ∧ held3.waitsFor = [] ∧ held3.timer ≠ none
      ∧ .tag 3 ∈ (holding held3 (overwriting ready)).tracker.ringOrder
      ∧ .tag 3 ∈ (holding held3 (overwriting ready)).tracker.overrun ∧ (holding held3 (overwriting ready)).keep.Law
      ∧ (overwriting ready).heldByJob (.tag 3) job9 ∧ ready.keep.queue = [] := by
  refine ⟨by decide, by decide, by decide, by decide, by decide, by decide, ?_, by decide⟩
  exact ⟨_, List.mem_cons_self, rfl, rfl, 18, by decide, by decide, by decide, by decide⟩

/-- Tag 3 with its second part at LBA 104 on the given tag. -/
def split3 (t : Option Nat) : Record := { read3 with split := some { host := 104, count := 4, disk := 7, tag := t }, downCount := 4 }

/-- The same, its first part at the disk. -/
def issued3 : Record := { split3 (some 28) with state := .issued, part1 := .outstanding }

theorem witness_TagHoldsEnd :
    (holding (split3 none) ready).record? (.tag 3) = some (split3 none) ∧ (holding (split3 none) ready).tracker.tagWait = .tag 3 :: []
      ∧ 27 < 32 - ready.line.profile.partTags ∧ ready.lowestPartTag 28
      ∧ (withRecords [{ newRecord .sole .flush 0 0 0 [] with state := .soleWait }] ready).record? .sole =
          some { newRecord .sole .flush 0 0 0 [] with state := .soleWait } ∧ ready.keep.chunk = none
      ∧ (withRecords [issued3] ready).record? (.tag 3) = some issued3 ∧ issued3.part2 = .notIssued
      ∧ 104 - issued3.host ≤ issued3.downCount := by
  refine ⟨by decide, by decide, by decide, ⟨by decide, by decide, by decide, ?_⟩, by decide, by decide, by decide, by decide, by decide⟩
  intro x lower upper
  exact absurd lower (by have : ready.line.profile.partTags = 4 := rfl; omega)

/-! ### The disk -/

/-- One outstanding command for tag 3's record, with this much of it passed. -/
def outstanding3 (op : DownOp) (passed : Nat) : DownCmd := { freshCommand (some 3) (.hostFirst (.tag 3)) op 100 8 100 [] with passed := passed, asked := passed }

/-- The command is outstanding for an issued record. -/
def withDisk (c : DownCmd) (x : Record) (s : State) : State :=
  { withRecords [x] s with drive := { s.drive with outstanding := [c] } }

theorem witness_DiskEvents :
    [DownOp.read, .write, .identify].all (fun op => [0, 7, 8].all fun n =>
        (withDisk (outstanding3 op n) read3 ready).drive.link = .ready ∧ (withDisk (outstanding3 op n) read3 ready).drive.inbox = []
          ∧ (withDisk (outstanding3 op n) read3 ready).outstandingOn (some 3) = some (outstanding3 op n)
          ∧ (outstanding3 op n).user = .hostFirst (.tag 3) ∧ (outstanding3 op n).broken = false
          ∧ (outstanding3 op n).discarding = false ∧ (outstanding3 op n).asked = (outstanding3 op n).passed
          ∧ (withDisk (outstanding3 op n) read3 ready).record? (.tag 3) = some read3)
      ∧ 7 + 1 ≤ (outstanding3 .write 7).count ∧ ready.freeBuffer = some 0
      ∧ ready.classBuffers .hostRead < Config.hostClassLimit ∧ 100 + 7 < read3.limit
      ∧ ({ ready with engine := { ready.engine with pool := Vector.replicate 64 Buffer.aside } } : State).freeBuffers = 0
      ∧ ∀ o ∈ [outstanding3 .read 7], o.user = (outstanding3 .read 7).user → o = outstanding3 .read 7 := by
  refine ⟨?_, ?_, ?_, ?_, ?_, ?_, ?_⟩ <;> decide

/-- A keep chunk of 16 sectors in flight on tag 28. -/
def chunk16 : Chunk :=
  { count := 16, tag := 28, sources := [], target := { slot := 0, generation := 1#8 }, counted := [], readEnded := false,
    zeroSource := false }

/-- The keep chunk's command, with all of it passed or not. -/
def keepDown (op : DownOp) (passed : Nat) : DownCmd :=
  { freshCommand (some 28) .keep op 65536 16 65536 [] with passed := passed, asked := passed }

/-- Job 9 with its chunk in flight and this command outstanding. -/
def chunking (j : Job) (c : DownCmd) (s : State) : State :=
  { s with keep := { s.keep with queue := [j], chunk := some chunk16 }, drive := { s.drive with outstanding := [c] } }

theorem witness_KeepCommandEnds :
    [(Phase.reading, DownOp.read), (.writing, .write)].all (fun (f, op) => [ErrorPolicy.halt, .skip].all fun p =>
        [0, 10].all fun u => [none, some .cancelled].all fun o =>
          let j := { job9 with phase := f, policy := p, stopOutcome := o, cursor := 10 + 4 * u / 10 }
          (chunking j (keepDown op 16) ready).keep.Law
            ∧ (chunking j (keepDown op 16) ready).drive.outstanding.find? (fun x => x.user == .keep && x.op == op) = some (keepDown op 16)
            ∧ (chunking j (keepDown op 16) ready).outstandingOn (some 28) = some (keepDown op 16)
            ∧ (chunking j { keepDown op 16 with broken := true } ready).outstandingOn (some 28) =
                some { keepDown op 16 with broken := true }
            ∧ (chunking j (keepDown op 16) ready).drive.inbox = []) := by decide

/-! ### The upstream link -/

/-- The state with this send order. -/
def sending (l : List DueItem) (s : State) : State := { s with sys := { s.sys with sendOrder := l } }

/-- Tag 3's record, Due as Lost. -/
def lost3 : Record := { read3 with state := .due, outcome := some (.lost .expired 101) }

theorem witness_CompletionSent :
    ready.sys.link = .ready
      ∧ (List.range 64).all (fun i => (ready.buffer i).state ≠ .taken ∧ (ready.buffer i).cls = none)
      ∧ (sending [.arrival none .notSole] ready).sys.sendOrder = .arrival none .notSole :: []
      ∧ (sending [.record (.tag 3)] (withRecords [lost3] ready)).sys.sendOrder = .record (.tag 3) :: []
      ∧ (sending [.record (.tag 3)] (withRecords [lost3] ready)).record? (.tag 3) = some lost3
      ∧ lost3.outcome = some (.lost .expired 101) := by
  refine ⟨?_, ?_, ?_, ?_, ?_, ?_⟩ <;> decide

/-- Tag 3's record with its first sector ready in buffer 0, or, as a write, with a request for 8 sectors. -/
def turning (write : Bool) : Record :=
  { read3 with
    kind := if write then .write else .read, state := .issued
    request := if write then some { first := 100, count := 8, invited := 0 } else none }

/-- A buffer of tag 3 at LBA 100. -/
def buffer3 (st : BufState) (c : BufClass) : Buffer :=
  { Buffer.empty with state := st, cls := some c, owner := .record (.tag 3), lba := 100 }

/-- A read's turn, a write's turn, and an invited sector in the last buffer. -/
def readTurn : State := setBuffer 0 (buffer3 .done .hostRead) (withRecords [turning false] ready)

@[inherit_doc readTurn] def writeTurn : State := withRecords [turning true] ready

@[inherit_doc readTurn] def invited : State := setBuffer 63 (buffer3 .taken .hostWrite) (withRecords [turning true] ready)

theorem witness_UpstreamTurns :
    (readTurn.record? (.tag 3) = some (turning false) ∧ readTurn.sys.sendOrder = [] ∧ readTurn.nextTurn = some (turning false)
        ∧ readTurn.readyRead (turning false) ≠ none ∧ (readTurn.tracker.records.map Record.order).Pairwise (· < ·)
        ∧ (List.range 64).all (fun i => (readTurn.buffer i).state ≠ .taken))
      ∧ (writeTurn.nextTurn = some (turning true) ∧ writeTurn.readyRead (turning true) = none
        ∧ 8 = min (min 16 (8 - 0)) (min (32 - writeTurn.classBuffers .hostWrite) writeTurn.freeBuffers))
      ∧ ((invited.buffer 63).owner = .record (.tag 3) ∧ (invited.buffer 63).state = .taken
        ∧ (invited.buffer 63).cls = some .hostWrite ∧ (invited.buffer 63).discard = false
        ∧ (List.range 63).all (fun m => (invited.buffer m).state ≠ .taken)) := by
  refine ⟨?_, ?_, ?_⟩ <;> decide

/-! ### The engine and the Keep Unit's starts -/

/-- Tag 3's record with the pair of slot 0 captured for its run. -/
def captured3 : Record :=
  { read3 with state := .issued, runs := [{ run5 with capture := some { slot := 0, generation := 1#8 } }] }

/-- A keep buffer with its source pair. -/
def keepBuffer : Buffer :=
  { Buffer.takenForKeep with state := .queued, treatment := .protect, srcPair := some { slot := 0, generation := 1#8 } }

/-- A host sector of tag 3 in buffer 0 heads the Read queue. -/
def readGrant (s : State) : State :=
  joinQueue .hostRead 0 (setBuffer 0 { buffer3 .queued .hostRead with treatment := .protect } (withRecords [captured3] s))

/-- A keep sector in buffer 1 heads the Keep queue, with job 9's chunk in flight. -/
def keepGranted (s : State) : State :=
  joinQueue .keep 1 (setBuffer 1 keepBuffer (chunking { job9 with phase := .transforming, cursor := 14 } (keepDown .read 16) s))

theorem witness_GrantStarts :
    ((readGrant (keyed ready)).engine.grant = none ∧ (readGrant (keyed ready)).arbitrate = some .read
        ∧ (readGrant (keyed ready)).queueOf .read = 0 :: [] ∧ ((readGrant ready).buffer 0).owner = .record (.tag 3)
        ∧ (readGrant ready).record? (.tag 3) = some captured3
        ∧ captured3.runAt 100 = some { run5 with capture := some { slot := 0, generation := 1#8 } }
        ∧ ((keyed ready).slot 0).content = .live 5#32 key .keepAllowed (some 100) ∧ ((keyed ready).slot 0).generation = 1#8
        ∧ (ready.slot 0).content = .empty)
      ∧ ((keepGranted (keyed ready)).engine.grant = none ∧ (keepGranted (keyed ready)).arbitrate = some .keepShare
        ∧ (keepGranted (keyed ready)).queueOf .keepShare = 1 :: [] ∧ (keepGranted ready).keep.chunk = some chunk16
        ∧ ((keepGranted ready).buffer 1).srcPair = some { slot := 0, generation := 1#8 }
        ∧ ((keepGranted ready).buffer 1).treatment = .protect ∧ (keepGranted ready).keep.Law) := by
  refine ⟨⟨?_, ?_, ?_, ?_, ?_, ?_, ?_, ?_, ?_⟩, ?_, ?_, ?_, ?_, ?_, ?_, ?_⟩ <;> decide

/-- A grant on buffer 63 with this fate. -/
def granting (f : GrantFate) (s : State) : State :=
  { s with engine := { s.engine with grant := some { buffer := some 63, result := zeroSector, fate := f, lost := some .keyLost } } }

theorem witness_GrantEnds :
    (∀ f : GrantFate, (granting f ready).engine.grant =
        some { buffer := some 63, result := zeroSector, fate := f, lost := some .keyLost })
      ∧ (invited.buffer 63).owner = .record (.tag 3) ∧ invited.record? (.tag 3) = some (turning true)
      ∧ (turning true).kind.isWrite = true := ⟨fun _ => rfl, by decide, by decide, by decide⟩

/-- Job 9 with a buffer request for one buffer, met or not, and that buffer set aside for it. -/
def requesting (met : Bool) (s : State) : State :=
  setBuffer 0 Buffer.aside { s with keep := { s.keep with queue := [job9], request := some { count := 1, met := met } } }

theorem witness_KeepStarts :
    (requesting false ready).keep.request = some { count := 1, met := false } ∧ 1 ≤ (requesting false ready).setAsideBuffers
      ∧ (requesting true ready).keep.request = some { count := 1, met := true }
      ∧ (requesting true ready).keep.queue = job9 :: [] ∧ (requesting true ready).tracker.tagWait = []
      ∧ job9.target = some (65536, 65536, 20) ∧ (requesting true ready).chunkKeys job9 65536 65536 1 = .error .keyLost :=
  ⟨rfl, by decide, rfl, rfl, rfl, by decide, rfl⟩

/-! ### Link power -/

theorem witness_LinkPower :
    ready.sys.link = .ready ∧ ready.sys.sendOrder = [] ∧ ready.tracker.records = []
      ∧ (links (.asleep .partialDepth) .ready ready).drive.outstanding = [] ∧ ready.drive.issueOrder = []
      ∧ ready.drive.lowPower = .idle ∧ (setLowPower (.asked .slumber) ready).drive.lowPower = .asked .slumber
      ∧ (links (.asleep .partialDepth) (.asleep .partialDepth) ready).drive.link = .asleep .partialDepth := by decide

/-! ### Keep requests -/

/-- Ring 1 Live with its key and its entry 4, and a destination programme of the same id at LBA 65 536. -/
def keepable : State :=
  (keyed (mapped (ringed ready))).withEntry 5
    (some { kind := .programme none 5#32, base := 65536, order := 16, readBar := false, writeBar := false }) none

theorem keepable_sector_class : (keepable.classOf 65536).kind = .programme ∧ (keepable.classOf 65536).id = some 5#32
    ∧ keepable.writeBarred 65536 = false ∧ (keepable.classOf 65536).disk = some 65536 := by decide

theorem keepable_destination : keepable.destinationAllowed 5#32 1 [(65536, 1)] := by
  refine ⟨rfl, fun e he => ⟨65536, fun y lower upper => ?_⟩⟩
  obtain rfl : e = (65536, 1) := by simpa using he
  obtain rfl : y = 65536 := Nat.le_antisymm (Nat.le_of_lt_succ upper) lower
  have spans : ∀ q < Config.ringCount,
      ¬ ((keepable.ring q).base ≤ 65536 + (65536 - 65536) ∧ 65536 + (65536 - 65536) < (keepable.ring q).base + (keepable.ring q).span) := by
    decide
  exact ⟨keepable_sector_class.1, keepable_sector_class.2.1, keepable_sector_class.2.2.1, keepable_sector_class.2.2.2, spans⟩

theorem keepable_live : keepable.liveForKeep 5#32 := ⟨0, by decide, key, some 100, by decide⟩

/-- The table of R134 finds nothing for one sector of the ring's newest one and that destination. -/
theorem submit_passes {s : State} (early : s.keys.lockdown = false ∧ s.keep.queue.length < 4 ∧ (s.ring 1).live = true
      ∧ max (s.ring 1).floor ((s.ring 1).head - (s.ring 1).trail) ≤ 39 ∧ 39 + 1 ≤ (s.ring 1).head)
    (epoch : (s.ring 1).epochAt 39 = some { start := 0, id := 5#32 }) (live : s.liveForKeep 5#32)
    (allowed : s.destinationAllowed 5#32 1 [(65536, 1)])
    (apart : ∀ j ∈ s.keep.queue, ∀ x ∈ j.extents, 65536 + 1 ≤ x.host) (empty : s.tracker.records = []) :
    FirstReason (s.submitTable 1 39 1 [(65536, 1)]) none := by
  refine .later (by simp [early]) <| .later (by simp [early]) <| .later (by simp) <| .later (by simp [early]) <|
    .later (not_not_intro early.2.2.2) <| .later ?_ <| .later (not_not_intro ⟨_, allowed⟩) <|
    .later (not_not_intro ⟨_, allowed, live⟩) <| .later ?_ <| .later ?_ .passed
  · rintro ⟨v, lower, upper, e, found, stays⟩
    obtain rfl : v = 39 := by omega
    rw [epoch] at found
    cases found
    exact stays live
  · rintro (⟨i, j, x, y, less, -, hj, -⟩ | ⟨e, he, j, hj, x, hx, y, -, upper, lower, -⟩)
    · have : j < [(65536, 1)].length := (List.getElem?_eq_some_iff.mp hj).1
      simp at this
      omega
    · obtain rfl : e = (65536, 1) := by simpa using he
      exact absurd (apart j hj x hx) (by omega)
  · rintro ⟨e, -, x, hx, -⟩
    rw [empty] at hx
    cases hx

/-- The same with a job that holds the next id. -/
def keepableBusy : State :=
  { keepable with keep := { keepable.keep with
      queue := [{ job9 with id := 1, extents := [{ host := 65537, count := 20, disk := 65537 }] }] } }

theorem witness_SubmitKeep :
    (∀ s ∈ [keepable, keepableBusy], s.KeyTableLaw ∧ s.RingLaw ∧ s.keep.Law
        ∧ (asking (.submitKeep 1 .skip 39 1 [(65536, 1)]) s).inProgress 7#8 (.submitKeep 1 .skip 39 1 [(65536, 1)])
        ∧ FirstReason (s.submitTable 1 39 1 [(65536, 1)]) none)
      ∧ FirstReason (keepable.submitTable 1 40 1 [(65536, 1)]) (some .ringStale)
      ∧ FirstReason (lockedState.submitTable 1 39 1 [(65536, 1)]) (some .locked)
      ∧ keepableBusy.keep.nextId = 1 := by
  refine ⟨fun s hs => ?_, .later (by decide) <| .later (by decide) <| .later (by simp) <| .later (by decide) <| .here (by decide),
    .here rfl, rfl⟩
  fin_cases hs
  · exact ⟨by decide, by decide, by decide, by decide,
      submit_passes (by decide) (by decide) keepable_live keepable_destination (by decide) (by decide)⟩
  · exact ⟨by decide, by decide, by decide, by decide,
      submit_passes (by decide) (by decide) keepable_live keepable_destination (by decide) (by decide)⟩

theorem witness_CancelKeep :
    [0, 8, 9].all (fun id => (asking (.cancelKeep id) (withJobs [job9] ready)).inProgress 7#8 (.cancelKeep id))
      ∧ (withJobs [job9] ready).keep.Law ∧ (∀ j ∈ [job9], j.id ≠ 8) ∧ job9 ∈ (withJobs [job9] ready).keep.queue
      ∧ (chunking { job9 with phase := .writing } (keepDown .write 0) ready).keep.Law := by
  refine ⟨?_, ?_, ?_, ?_, ?_⟩ <;> decide

/-! ## Further states for the clauses of the statements -/

/-! ### Internal steps -/

/-- An entry's pending definition is due. -/
def stagedDue : State := counted (some .vacate) 0 ready

theorem witness_SettleTakesDueSteps :
    internalStep ready = none ∧ (∃ t, step { ready with pending := [.grantEnd] } = .next t)
      ∧ (internalStep stagedDue).isSome = true ∧ internalStep (settle stagedDue) = none := by
  refine ⟨by decide, ⟨_, rfl⟩, by decide, by decide⟩

/-- Tag 3 in the Drain list, over the range of entry 4, which holds a pending definition. -/
def drained (s : State) : State :=
  setDrain [.tag 3] (withRecords [{ read3 with state := .drain, host := 2 ^ 24 }] (counted (some .vacate) 1 s))

/-- The state with these tracker lists and this record. -/
def listed (kw ro ov tw : List RecordKey) (x : Record) (s : State) : State :=
  { s with tracker := { s.tracker with records := [x], keyWait := kw, ringOrder := ro, overrun := ov, tagWait := tw } }

/-- The part tags are all in use. -/
def noPartTag (s : State) : State := [28, 29, 30, 31].foldl (fun s t => setTag t (some .keep) s) s

/-- No buffer is Free. -/
def crowded (s : State) : State := { s with engine := { s.engine with pool := Vector.replicate 64 Buffer.aside } }

/-- A buffer request for one buffer. -/
def requested (met : Bool) (s : State) : State := { s with keep := { s.keep with request := some { count := 1, met := met } } }

/-- Frames of the disk wait. -/
def framesWait (l : List DiskFrame) (s : State) : State := { s with drive := { s.drive with inbox := l } }

/-- Commands wait in the issue order. -/
def ordered (l : List DownCmd) (s : State) : State := { s with drive := { s.drive with issueOrder := l } }

/-- A state of rest for each clause of the statement. -/
def atRest : List State :=
  [ready, drained ready, listed [.tag 3] [] [] [] waiting ready,
    listed [] [.tag 3] [] [] { read3 with state := .ringOrder, waitsFor := [.tag 4] } ready,
    requested false (listed [] [] [.tag 3] [] held3 (overwriting ready)),
    withRecords [{ newRecord .sole .flush 0 0 0 [] with state := .soleWait }]
      (chunking { job9 with phase := .reading } (keepDown .read 0) ready),
    withRecords [{ issued3 with downCount := 3 }] ready,
    noPartTag (listed [] [] [] [.tag 3] { split3 none with state := .tagWait } ready),
    requested false (withJobs [job9] ready),
    requested true (noPartTag (withJobs [job9] ready)),
    chunking { job9 with phase := .transforming } (keepDown .read 16) ready,
    framesWait [.data (some 3) 0 [zeroSector]] (crowded (withDisk (outstanding3 .read 0) read3 ready)),
    ordered [freshCommand none (.hostFirst .sole) .noData 0 0 0 []] (withDisk (outstanding3 .read 0) read3 ready),
    withDisk { outstanding3 .write 0 with asked := 8 } (turning true) ready,
    links .notReady .starting ready, links (.asleep .slumber) (.asleep .slumber) ready ]

theorem witness_AtRestNothingDue : atRest.all (fun s => internalStep s = none) = true := by decide



/-- Ring 1 with an access of tag 3 at its claim. -/
def accessed (s : State) : State :=
  withRecords [read3] (mapRing 1 (fun q =>
    { q with accesses := [{ record := .tag 3, write := true, first := 42, count := 8, issued := false }] }) (ringed s))

theorem witness_StepKeepsRingLaws_access :
    (accessed ready).RingLaw ∧ ∃ t, step { accessed ready with pending := [.grantEnd] } = .next t ∧ (t.ring 1).live = true :=
  ⟨by decide, _, rfl, by decide⟩

theorem witness_StepKeepsPoolLaw_aside :
    (requesting true ready).PoolLaw ∧ ((requesting true ready).buffer 0).state = .setAside
      ∧ ∃ t, step { requesting true ready with pending := [.bufferRequestMet] } = .next t := ⟨by decide, by decide, _, rfl⟩

theorem witness_frames_in_every_line_state :
    (∃ t, exec .completion State.reset = .next t) ∧ State.reset.line.state = .loading
      ∧ (∀ r, Instr.completion ≠ .profileLoadEnd r) ∧ Instr.completion ≠ .profileLoadTimeout
      ∧ (stagedDue.entry 4).staged ≠ none ∧ (∃ t, exec (.pendingDefinitionApplied 4) stagedDue = .next t) :=
  ⟨⟨_, rfl⟩, rfl, fun _ => by simp, by decide, by decide, _, rfl⟩

theorem witness_misfit :
    (∀ t < 17, 1 ≤ t → misfit t [])
      ∧ misfit 3 (List.replicate 37 0#8 ++ [0x02#8] ++ List.replicate 4 0#8)
      ∧ misfit 5 ([0#8, 0#8, 0#8, 0#8, 0x80#8] ++ List.replicate 4 0#8)
      ∧ misfit 6 ([0#8, 0#8, 0#8, 0#8, 0x08#8] ++ List.replicate 21 0#8) ∧ misfit 6 ([0#8, 2#8] ++ List.replicate 24 0#8)
      ∧ misfit 7 [0#8, 2#8] ∧ misfit 12 (List.replicate 12 0#8) ∧ misfit 12 ([0#8, 4#8] ++ List.replicate 45 0#8)
      ∧ misfit 12 ([0x04#8, 1#8] ++ List.replicate 19 0#8)
      ∧ (List.range 16).all (fun t => internalStep (framed [BitVec.ofNat 8 (t + 1), 2#8, 0#8] ready) = none) = true := by
  unfold misfit
  refine ⟨fun t upper lower => by interval_cases t <;> decide, ?_, ?_, ?_, ?_, ?_, ?_, ?_, ?_, ?_⟩ <;> decide

/-- Ring 1, a Live key, a job and an outcome to report, and no internal step due. -/
def reporting (s : State) : State :=
  let s := requested false (withJobs [job9] (keyed (ringed s)))
  { s with keep := { s.keep with outcomes := [outcomeEntry 8 1 (.failed .keyLost) 20 0] } }

theorem witness_StatusRecordLayouts :
    (List.range 9).all (fun k => internalStep (asking (.readStatus k 1) (reporting ready)) = none
        ∧ (asking (.readStatus k 1) (reporting ready)).inProgress 7#8 (.readStatus k 1))
      ∧ (reporting ready).RingLaw ∧ (∀ j ∈ (reporting ready).keep.queue, j.segments.length ≤ 4 ∧ j.extents.length ≤ 4)
      ∧ ((reporting ready).slot 0).content = .live 5#32 key .keepAllowed (some 100)
      ∧ internalStep (asking (.readStatus 2 1) ((reporting ready).withSlot 0
          { content := .live 5#32 { data := 0#128, tweak := 0#128 } .keepAllowed (some 100), generation := 1#8 })) = none
      ∧ (reporting ready).keep.queue[0]? = some job9
      ∧ (reporting ready).keep.outcomes[0]? = some (outcomeEntry 8 1 (.failed .keyLost) 20 0)
      ∧ ((reporting ready).ring 1).epochs[0]? = some { start := 0, id := 5#32 } ∧ ((reporting ready).ring 1).epochs[1]? = none
      ∧ StopCode (some (.failed .lockdown)) 15 := by
  refine ⟨?_, ?_, ?_, ?_, ?_, ?_, ?_, ?_, ?_, .failed 6 .lockdown rfl⟩ <;> decide

/-- The Active job of a dropped chunk: stopping, cut to the end of the chunk, or to start it anew. -/
theorem witness_LinkResets_chunk :
    [({ job9 with phase := .reading, stopOutcome := some .cancelled } : Job), { job9 with phase := .transforming, upto := 26 },
        { job9 with phase := .reading }].all (fun j => (chunking j (keepDown .read 0) ready).keep.Law
      ∧ (chunking j (keepDown .read 0) ready).keep.queue = j :: [] ∧ (chunking j (keepDown .read 0) ready).keep.chunk = some chunk16
      ∧ (chunking j (keepDown .read 0) ready).sys.link ≠ .down) = true
      ∧ 26 = job9.cursor + chunk16.count ∧ 26 ≠ job9.acceptedUpto := by decide

theorem witness_EntersLockdown_waiting :
    (listed [.tag 3] [] [] [] waiting ready).tracker.keyWait = [.tag 3]
      ∧ (listed [.tag 3] [] [] [] waiting ready).record? (.tag 3) = some waiting := by decide

theorem witness_LinkStates_outstanding :
    [0, 8].all (fun n => (withDisk (outstanding3 .read n) read3 ready).drive.link = .ready
      ∧ outstanding3 .read n ∈ (withDisk (outstanding3 .read n) read3 ready).drive.outstanding
      ∧ (outstanding3 .read n).user = .hostFirst (.tag 3)
      ∧ (withDisk (outstanding3 .read n) read3 ready).record? (.tag 3) = some read3
      ∧ ∀ p ∈ (withDisk (outstanding3 .read n) read3 ready).drive.outstanding, p.user = (outstanding3 .read n).user →
          p = outstanding3 .read n) = true := by decide

/-! ### Classification, lookup and ring acceptance of an arrival -/

/-- No active definition bars a sector, and unmapped sectors pass. -/
def unbarred (s : State) : Bool :=
  s.activeDefs.all (fun e => !e.2.kind.isBarred)
    && (List.range 64).all (fun i => (s.entry i).active.all fun d => !d.readBar && !d.writeBar)
    && s.line.profile.unmapped == .pass

theorem unbarred_sector {s : State} (h : unbarred s = true) (w : Bool) (y : Nat) : ¬ s.sectorBarred w y := by
  simp only [unbarred, Bool.and_eq_true, List.all_eq_true, beq_iff_eq] at h
  rintro (⟨i, hi, d, active, -, -, bar⟩ | ⟨i, d, bound, kind⟩ | ⟨-, policy⟩)
  · have := h.1.2 i (by simpa using hi)
    rw [active] at this
    cases w <;> simp_all
  · have mem : (i, d) ∈ s.activeDefs := by
      unfold State.binding at bound
      exact (List.mem_filter.mp (List.mem_of_find?_eq_some bound)).1
    have := h.1.1 _ mem
    rw [kind] at this
    cases this
  · rw [h.2] at policy
    cases policy

/-- No bar and no job refuses a command. -/
theorem past_bars_and_jobs {s : State} {w : Bool} {x n : Nat} {v : Option HostReason} (h : unbarred s = true)
    (idle : s.keep.queue = []) (rest : FirstReason ((s.classifyTable w x n).drop 2) v) : FirstReason (s.classifyTable w x n) v :=
  .later (fun ⟨y, _, _, b⟩ => unbarred_sector h w y b) (.later (fun ⟨j, hj, _⟩ => by cases idle ▸ hj) rest)

/-- The table of R12 finds nothing for one sector that lies outside every other ring's span. -/
theorem one_sector_passes {s : State} (w : Bool) (x : Nat) (h : unbarred s = true) (idle : s.keep.queue = [])
    (runs : (s.classify x 1).length ≤ 4) (outside : ¬ s.onShieldedSpan x) : FirstReason (s.classifyTable w x 1) none := by
  refine past_bars_and_jobs h idle <| .later (by omega) <| .later ?_ <| .later ?_ .passed
  · rintro (⟨y, _, _, _⟩ | ⟨y, z, _, _, _, _⟩) <;> omega
  · rintro ⟨y, lower, upper, m⟩
    obtain rfl : y = x := by omega
    exact outside m

/-- Entry 4 is ring 1's, at LBA 2^24, and entry 5 holds the programme of id 5 at LBA 65 536. -/
def playing (s : State) : State :=
  (mapped (ringed s)).withEntry 5
    (some { kind := .programme none 5#32, base := 65536, order := 16, readBar := false, writeBar := false }) none

/-- The same with four epochs on ring 1. -/
def switched (s : State) : State :=
  mapRing 1 (fun q => { q with epochs := [⟨0, 5#32⟩, ⟨1, 6#32⟩, ⟨2, 7#32⟩, ⟨3, 8#32⟩] }) (playing s)

/-- A sector whose disk LBA lies on no other ring's span is not shielded. -/
theorem not_shielded {s : State} {x d : Nat} (disk : (s.classOf x).disk = some d)
    (spans : ∀ q < Config.ringCount,
      ¬ ((s.classOf x).ring ≠ some q ∧ (s.ring q).base ≤ d ∧ d < (s.ring q).base + (s.ring q).span)) : ¬ s.onShieldedSpan x := by
  rintro ⟨e, he, q, hq, m⟩
  rw [disk] at he
  cases he
  exact spans q hq m

theorem ready_sector (y : Nat) : (ready.classOf y).disk = some y ∧ (ready.classOf y).ring = none := by
  have b : ready.binding y = none := by
    unfold State.binding State.matching
    rw [(by decide : ready.activeDefs = [])]
    rfl
  unfold State.classOf
  rw [b]
  exact ⟨rfl, rfl⟩

/-- The first command on tag 0 is accepted. -/
theorem accepted_alone {s : State} {kind : HostKind} {x n : Nat} (empty : s.tracker.records = [])
    (tags : s.line.profile.partTags = 4) (fits : (dataArrival (some 0) kind x n).unsupported = false) :
    ArrivalVerdict s (dataArrival (some 0) kind x n) none :=
  .queuedAccepted fits 0 rfl (by rw [tags]; decide) (by simp [State.occupied, empty]) (by simp [State.occupied, empty])

theorem undrained {s : State} {x n : Nat} (h : ∀ i < Config.regionCount, (s.entry i).staged = none) : ¬ s.drains x n :=
  fun ⟨i, hi, _, staged, _⟩ => staged (h i hi)

theorem witness_ArrivalClassified :
    arrivalOf (.write 0 0 0) = some (dataArrival (some 0) .write 0 0) ∧ ready.sys.link = .ready
      ∧ ArrivalVerdict ready (dataArrival (some 0) .write 0 0) none ∧ (dataArrival (some 0) .write 0 0).kind.isData = true
      ∧ (dataArrival (some 0) .write 0 0).count = 65536 ∧ ready.RingLaw ∧ ¬ ready.drains 0 65536
      ∧ FirstReason (ready.classifyTable true 0 65536) none := by
  refine ⟨rfl, rfl, accepted_alone rfl rfl (by decide), rfl, by decide, by decide, undrained (by decide),
    past_bars_and_jobs (by decide) rfl <| .later (by decide) <| .later ?_ <| .later ?_ .passed⟩
  · rintro (⟨y, _, _, -, d, e, hd, he, broken⟩ | ⟨y, _, _, _, _, ⟨r, _, d, ring, -⟩, -⟩)
    · rw [(ready_sector y).1] at hd
      rw [(ready_sector (y + 1)).1] at he
      cases hd
      cases he
      exact broken rfl
    · rw [(ready_sector y).2] at ring
      cases ring
  · rintro ⟨y, -, -, d, -, q, hq, -, lower, upper⟩
    have : ∀ q < Config.ringCount, (ready.ring q).base + (ready.ring q).span = 0 := by decide
    have := this q hq
    omega

theorem witness_ArrivalClassified_refused :
    FirstReason (({ ready with line := { ready.line with profile := { ready.line.profile with unmapped := .bar } } } :
        State).classifyTable true 100 1) (some .barred)
      ∧ FirstReason ((withJobs [job9] ready).classifyTable true 65555 1) (some .busy)
      ∧ FirstReason ((switched ready).classifyTable false (2 ^ 24 - 1) 5) (some .fragmented)
      ∧ FirstReason ((playing ready).classifyTable false (2 ^ 24 - 1) 2) (some .discontiguous)
      ∧ FirstReason ((playing ready).classifyTable false 1048576 1) (some .shielded) := by
  refine ⟨.here ⟨100, by decide, by decide, .inr (.inr ⟨by decide, rfl⟩)⟩,
    .later (fun ⟨y, _, _, b⟩ => unbarred_sector (by decide) true y b)
      (.here ⟨job9, by decide, _, List.mem_cons_self, 65555, ?_⟩),
    past_bars_and_jobs (by decide) rfl <| .here (by decide),
    past_bars_and_jobs (by decide) rfl <| .later (by decide) <|
      .here (.inl ⟨2 ^ 24 - 1, by decide, by decide, ?_, 2 ^ 24 - 1, 1048576, by decide, by decide, by decide⟩),
    past_bars_and_jobs (by decide) rfl <| .later (by decide) <| .later ?_ <|
      .here ⟨1048576, by decide, by decide, 1048576, by decide, 1, by decide, by decide, by decide, by decide⟩⟩
  · decide
  · rintro ⟨r, -, d, ring, -⟩
    rw [(by decide : ((playing ready).classOf (2 ^ 24 - 1)).ring = none)] at ring
    cases ring
  · rintro (⟨y, _, _, _⟩ | ⟨y, z, _, _, _, _⟩) <;> omega

theorem playing_sector_passes : FirstReason ((playing ready).classifyTable false 65536 1) none :=
  one_sector_passes false 65536 (by decide) rfl (by decide)
    (not_shielded (d := 65536) (by decide) (by decide))

theorem playing_ring_sector_passes (w : Bool) (v : Nat) (h : v ∈ [39, 40, 50, 51]) :
    FirstReason ((playing ready).classifyTable w (2 ^ 24 + v) 1) none := by
  refine one_sector_passes w _ (by decide) rfl ?_
    (not_shielded (d := 1048576 + v) ?_ ?_) <;>
  fin_cases h <;> decide

theorem witness_ArrivalLookedUp :
    arrivalOf (.read 0 65536 1) = some (dataArrival (some 0) .read 65536 1)
      ∧ (∀ s ∈ [playing ready, playing (keyed ready)],
          s.sys.link = .ready ∧ ArrivalVerdict s (dataArrival (some 0) .read 65536 1) none)
      ∧ (drained ready).drains (2 ^ 24) 1 ∧ (∀ s ∈ [playing ready, playing (keyed ready)], ¬ s.drains 65536 1)
      ∧ (playing ready).needs 65536 1 5#32 ∧ (playing ready).newIds 65536 1 [5#32]
      ∧ (playing (keyed ready)).liveAs 5#32 { slot := 0, generation := 1#8 }
      ∧ (playing (ready.withSlot 0 { content := .expired 5#32 .keepNever none, generation := 1#8 })).expiredId 5#32
      ∧ (∀ l ∈ [[1#32, 2#32, 3#32], [1#32, 2#32, 3#32, 4#32]], (setMissList l (playing ready)).RingLaw
        ∧ (setMissList l (playing ready)).KeyTableLaw ∧ (setMissList l (playing ready)).keys.missList = l
        ∧ RecordKey.tag 0 ∉ (setMissList l (playing ready)).tracker.keyWait) := by
  have only : ∀ y, 65536 ≤ y → y < 65536 + 1 → y = 65536 := fun y _ _ => by omega
  have cls : ((playing ready).classOf 65536).protectedId = some 5#32 := by decide
  refine ⟨rfl, fun s hs => ?_, ⟨4, by decide, _, by decide, rfl, 2 ^ 24, by decide, by decide, by decide, by decide⟩, ?_,
    ⟨65536, by decide, by decide, cls⟩, ⟨by decide, fun id => ?_, List.pairwise_singleton _ _⟩,
    ⟨by decide, by decide, key, .keepAllowed, some 100, by decide⟩, ⟨0, by decide, .keepNever, none, by decide⟩, fun l hl => ?_⟩
  · fin_cases hs <;> exact ⟨rfl, accepted_alone rfl rfl (by decide)⟩
  · intro s hs
    have none : ∀ i < Config.regionCount, ((playing ready).entry i).staged = none := by decide
    fin_cases hs <;> exact undrained none
  · constructor
    · rintro h
      obtain rfl : id = 5#32 := by simpa using h
      exact ⟨⟨65536, by decide, by decide, cls⟩, by decide, by decide⟩
    · rintro ⟨⟨y, lower, upper, h⟩, -⟩
      rw [only y lower upper, cls] at h
      cases h
      simp
  · fin_cases hl <;>
    · refine ⟨?_, ?_, rfl, ?_⟩ <;> decide

/-- The access of a command of one ring sector. -/
theorem one_sector_access {s : State} {x r v q y w m : Nat} (ring : (s.classOf x).ring = some r)
    (virt : (s.classOf x).virt = some v) (a : s.accessOf x 1 q y w m) : q = r ∧ y = x ∧ w = v ∧ m = 1 := by
  obtain ⟨lower, upper, hr, hv, -, rfl⟩ := a
  obtain rfl : y = x := by omega
  rw [ring] at hr
  rw [virt] at hv
  cases hr
  cases hv
  simp [ring]

theorem access_of_sector {s : State} {x r v : Nat} (ring : (s.classOf x).ring = some r) (virt : (s.classOf x).virt = some v) :
    s.accessOf x 1 r x v 1 :=
  ⟨Nat.le_refl _, Nat.lt_succ_self _, ring, virt, fun z _ _ => by omega, by simp [ring]⟩

/-- A write of tag 4 on the list of ring 1, at its claim's last 8 offsets, and its record. -/
def writing4 (s : State) : State :=
  withRecords [{ read3 with key := .tag 4, kind := .write, state := .issued }] (mapRing 1 (fun q =>
    { q with accesses := [{ record := .tag 4, write := true, first := 32, count := 8, issued := true }] }) s)

theorem witness_RingAcceptedAndOrdered_verdicts :
    AcceptVerdict (playing ready) false (2 ^ 24 + 39) 1 none
      ∧ AcceptVerdict (playing ready) false (2 ^ 24 + 40) 1 (some .ringAhead)
      ∧ AcceptVerdict (playing ready) true (2 ^ 24 + 50) 1 none
      ∧ AcceptVerdict (playing ready) true (2 ^ 24 + 51) 1 (some .ringGap) := by
  refine ⟨.accepted fun q y v m a => ?_, .refused _ 1 _ 40 1 (access_of_sector (by decide) (by decide)) ?_ (fun q y v m a less => ?_),
    .accepted fun q y v m a => ?_, .refused _ 1 _ 51 1 (access_of_sector (by decide) (by decide)) ?_ (fun q y v m a less => ?_)⟩
  · obtain ⟨rfl, rfl, rfl, rfl⟩ := one_sector_access (r := 1) (v := 39) (by decide) (by decide) a
    refine .later (by decide) <| .later ?_ <| .later (by decide) <| .later (by decide) <| .later (by decide) <| .later ?_ .passed
    · rintro ⟨y, lower, upper, -, none⟩
      obtain rfl : y = 2 ^ 24 + 39 := by omega
      revert none
      decide
    · rintro ⟨-, o, ho, -⟩
      cases (by decide : ((playing ready).ring 1).accesses = []) ▸ ho
  · refine .later (by decide) <| .later ?_ <| .later (by decide) <| .later (by decide) <| .here (by decide)
    rintro ⟨y, lower, upper, -, none⟩
    obtain rfl : y = 2 ^ 24 + 40 := by omega
    revert none
    decide
  · have := a.1
    omega
  · obtain ⟨rfl, rfl, rfl, rfl⟩ := one_sector_access (r := 1) (v := 50) (by decide) (by decide) a
    refine .later (by decide) <| .later ?_ <| .later (by decide) <| .later (by decide) <| .later (by decide) <| .later ?_ .passed
    · rintro ⟨y, lower, upper, -, none⟩
      obtain rfl : y = 2 ^ 24 + 50 := by omega
      revert none
      decide
    · rintro ⟨read, -⟩
      cases read
  · refine .later (by decide) <| .later ?_ <| .later (by decide) <| .here (by decide)
    rintro ⟨y, lower, upper, -, none⟩
    obtain rfl : y = 2 ^ 24 + 51 := by omega
    revert none
    decide
  · have := a.1
    omega

theorem witness_RingAcceptedAndOrdered :
    arrivalOf (.read 0 (2 ^ 24 + 39) 1) = some (dataArrival (some 0) .read (2 ^ 24 + 39) 1)
      ∧ ArrivalVerdict (playing (keyed ready)) (dataArrival (some 0) .read (2 ^ 24 + 39) 1) none
      ∧ ¬ (playing (keyed ready)).drains (2 ^ 24 + 39) 1
      ∧ FirstReason ((playing (keyed ready)).classifyTable false (2 ^ 24 + 39) 1) none
      ∧ (playing (keyed ready)).RingLaw ∧ (playing (keyed ready)).KeyTableLaw
      ∧ (∀ id, (playing ready).needs (2 ^ 24 + 39) 1 id → (playing (keyed ready)).liveAs id { slot := 0, generation := 1#8 })
      ∧ (writing4 (playing ready)).accessOf (2 ^ 24 + 39) 1 1 (2 ^ 24 + 39) 39 1
      ∧ mustWait false 131072 39 1 { record := .tag 4, write := true, first := 32, count := 8, issued := true }
      ∧ (writing4 (playing (keyed ready))).RingLaw
      ∧ overwritten 131072 131090 1 job9.cursor (job9.upto - job9.cursor) := by
  refine ⟨rfl, accepted_alone rfl rfl (by decide), undrained (by decide),
    playing_ring_sector_passes false 39 (by decide), by decide, by decide, ?_, access_of_sector (by decide) (by decide),
    ⟨rfl, 39, by decide, by decide, by decide, by decide⟩, by decide, 18, by decide, by decide, by decide, by decide⟩
  rintro id ⟨y, lower, upper, h⟩
  obtain rfl : y = 2 ^ 24 + 39 := by omega
  rw [(by decide : ((playing ready).classOf (2 ^ 24 + 39)).protectedId = some 5#32)] at h
  cases h
  exact ⟨by decide, by decide, key, .keepAllowed, some 100, by decide⟩

/-! ### Completions, wires, grants and chunks -/

/-- Tag 3's read, all of it delivered and its part ended Good. -/
def done3 : Record := { turning false with part1 := .good, upCount := 8 }

theorem witness_CompletionDecided :
    (withRecords [done3] ready).completes done3 ∧ ¬ readTurn.completes (turning false) ∧ done3.limitIs 108
      ∧ Failing { done3 with part1 := .error 104 1#8, part2 := .error 102 2#8 } (some (102, 2#8))
      ∧ (∃ t y, internalStep (withRecords [done3] ready) = some t ∧ t.record? (.tag 3) = some y ∧ y.state = .due)
      ∧ (setSectorByte 510 0xA5#8 zeroSector).extractLsb' (8 * 510) 8 = 0xA5#8
      ∧ zeroSector.extractLsb' (8 * 510) 8 ≠ 0xA5#8 := by
  have limit : done3.limitIs 108 :=
    .inr ⟨.neither (by simp [done3]) (by simp [done3, turning, read3, newRecord]), by decide⟩
  refine ⟨⟨⟨.inl rfl, by decide, by decide⟩, ?_, ?_⟩, ?_, limit, .second 102 2#8 rfl ?_, ⟨_, _, rfl, rfl, rfl⟩, by decide +kernel,
    by decide +kernel⟩
  · rintro l (⟨e, f⟩ | ⟨-, rfl⟩)
    · cases f with
      | first _ _ h => cases h
      | second _ _ h => cases h
    · decide
  · rintro ⟨g, i, h, -⟩
    cases h
  · rintro ⟨⟨(h | ⟨l, e, h⟩), -⟩, -⟩ <;> cases h
  · rintro m f h
    cases h
    decide

/-- Tag 3's write, its first sector Done in buffer 0 and 8 sectors asked for. -/
def sector3 : State :=
  setBuffer 0 (buffer3 .done .hostWrite) (withDisk { outstanding3 .write 0 with asked := 8 } (turning true) ready)

theorem witness_DownstreamWire :
    (∃ t, internalStep sector3 = some t ∧ t.wires.down.length = 1)
      ∧ sector3.outstandingOn (some 3) = some { outstanding3 .write 0 with asked := 8 }
      ∧ (∃ t, internalStep (ordered [outstanding3 .read 0] ready) = some t ∧ t.drive.issueOrder = []) :=
  ⟨⟨_, rfl, rfl⟩, rfl, _, rfl, rfl⟩

theorem witness_ArbiterChoice :
    (keepGranted ready).engine.keepQ ≠ [] ∧ (readGrant ready).engine.keepQ = [] ∧ (readGrant ready).arbitrate = some .read
      ∧ (keepGranted (listed [] [] [.tag 3] [] held3 ready)).arbitrate = some .keepFirst
      ∧ (joinQueue .hostWrite 2 ready).arbitrate = some .write ∧ (joinQueue .hostWrite 2 ready).queueOf .write = 2 :: [] := by decide

/-- Slot 0 holds this. -/
def slot0 (c : SlotContent) (generation : Byte) (s : State) : State := s.withSlot 0 { content := c, generation := generation }

theorem witness_GrantStarts_verdicts :
    PairVerdict (keyed ready) { slot := 0, generation := 1#8 } (.ok key)
      ∧ PairVerdict (keyed ready) { slot := 0, generation := 2#8 } (.error .keyLost)
      ∧ PairVerdict (slot0 (.expired 5#32 .keepAllowed none) 1#8 ready) { slot := 0, generation := 1#8 } (.error .expired)
      ∧ PairVerdict ready { slot := 0, generation := 1#8 } (.error .keyLost)
      ∧ (setBuffer 0 { buffer3 .queued .hostWrite with treatment := .protect } (withRecords [captured3] ready)
          |> joinQueue .hostWrite 0).arbitrate = some .write
      ∧ ((setBuffer 1 { keepBuffer with treatment := .zeroSource } (keepGranted ready)).buffer 1).treatment = .zeroSource
      ∧ (setBuffer 1 { keepBuffer with treatment := .zeroSource } (keepGranted ready)).keep.Law
      ∧ (chunking { job9 with phase := .reading } (keepDown .read 0) ready).keep.Law :=
  ⟨.live 5#32 key .keepAllowed (some 100) (by decide) (by decide), .replaced 5#32 key .keepAllowed (some 100) (by decide) (by decide),
    .expired 5#32 .keepAllowed none (by decide), .dropped (by decide), by decide, by decide, by decide, by decide⟩

theorem witness_GrantEnds_read :
    (turning false).kind.isRead = true ∧ (buffer3 .queued .hostRead).lba < (turning false).limit
      ∧ { turning false with part1 := .error 100 1#8 }.limit ≤ (buffer3 .queued .hostRead).lba := by decide

/-- The keep query finds one answer for an id of a slot. -/
theorem key_found {s : State} {id : ProgId} {i : Nat} {c d : Capture} (v : KeyVerdict s id (.ok c))
    (only : ∀ j < Config.slotCount, (s.slot j).content.id? = some id → j = i)
    (h : d = { slot := i, generation := (s.slot i).generation }) : c = d := by
  cases v with
  | live j key d hj content =>
    obtain rfl := only j hj (by rw [content]; rfl)
    exact h.symm

/-- Job 9's buffer request is met, its key Live and its destination mapped. -/
def chunkable : State := requesting true keepable

theorem witness_KeepStarts_chunk :
    job9.destinationAt 65536 65536 20 ∧ chunkable.KeyTableLaw ∧ chunkable.lowestPartTag 28 ∧ chunkable.driveUp
      ∧ chunkable.keep.request = some { count := 1, met := true } ∧ chunkable.keep.queue = job9 :: []
      ∧ ChunkVerdict chunkable job9 1 65536 65536
          (.ok ([(10, { slot := 0, generation := 1#8 })], { slot := 0, generation := 1#8 }))
      ∧ ChunkVerdict (requesting true ready) job9 1 65536 65536 (.error .keyLost)
      ∧ ChunkVerdict (requesting true (slot0 (.expired 5#32 .keepAllowed none) 1#8 ready)) job9 1 65536 65536 (.error .expired)
      ∧ ChunkVerdict (requesting true (slot0 (.live 5#32 key .keepNever none) 1#8 ready)) job9 1 65536 65536 (.error .keepRule)
      ∧ ChunkVerdict chunkable { job9 with destination := 6#32 } 1 65536 65536 (.error .keyLost)
      ∧ ChunkVerdict chunkable job9 1 65536 65537 (.error .mismatch) := by
  have holds : job9.segmentHolds 1 0 { start := 10, id := 5#32 } :=
    ⟨rfl, 10, by decide, by decide, by decide, by simp [job9]⟩
  have one : ∀ m e, job9.segmentHolds 1 m e → m = 0 ∧ e = { start := 10, id := 5#32 } := by
    rintro (_ | m) e ⟨h, -⟩
    · exact ⟨rfl, by simpa [job9] using h.symm⟩
    · simp [job9] at h
  have found : KeyVerdict chunkable 5#32 (.ok { slot := 0, generation := 1#8 }) :=
    .live (s := chunkable) 0 key (some 100) (by decide) (by decide)
  have only : ∀ j < Config.slotCount, (chunkable.slot j).content.id? = some 5#32 → j = 0 := by decide
  have all : ∀ k f, job9.segmentHolds 1 k f → ∃ c, KeyVerdict chunkable f.id (.ok c) := by
    rintro k f h
    obtain ⟨-, rfl⟩ := one k f h
    exact ⟨_, found⟩
  have first : ∀ {s : State} (k : Nat) (f : Epoch), k < 0 → job9.segmentHolds 1 k f → ∃ c, KeyVerdict s f.id (.ok c) :=
    fun k _ h => absurd h (Nat.not_lt_zero k)
  have sector : (chunkable.classOf 65536).kind = .programme ∧ (chunkable.classOf 65536).id = some 5#32
      ∧ chunkable.writeBarred 65536 = false ∧ (chunkable.classOf 65536).disk = some 65536 := by decide
  refine ⟨⟨0, _, 0, rfl, by decide, rfl, rfl, rfl, rfl⟩, by decide, ⟨by decide, by decide, by decide, ?_⟩, .inl rfl, rfl, rfl,
    .starts _ _ (List.Sublist.refl _) (fun p => ⟨fun h => ?_, fun ⟨m, e, h, hp, v⟩ => ?_⟩) all found fun y lower upper => ?_,
    .source _ 0 _ holds (.absent (by decide)) first,
    .source _ 0 _ holds (.expired ⟨0, by decide, .keepAllowed, none, by decide⟩) first,
    .source _ 0 _ holds (.never 0 key none (by decide) (by decide)) first,
    .target _ all (.absent (by decide)), .mismatch _ all found fun h => ?_⟩
  · intro x lower upper
    exact absurd lower (by have : chunkable.line.profile.partTags = 4 := rfl; omega)
  · obtain rfl : p = (10, { slot := 0, generation := 1#8 }) := by simpa using h
    exact ⟨0, _, holds, rfl, found⟩
  · obtain ⟨-, rfl⟩ := one m e h
    have := key_found v only rfl
    simp [Prod.ext_iff, hp, this]
    decide
  · obtain rfl : y = 65536 := Nat.le_antisymm (Nat.le_of_lt_succ upper) lower
    exact ⟨sector.1, sector.2.1, sector.2.2.1, sector.2.2.2, by decide⟩
  · have := (h 65536 (by decide) (by decide)).2.2.2.1
    rw [sector.2.2.2] at this
    cases this

theorem witness_KeepUnitActs :
    (∃ t q, internalStep (withJobs [job9] keepable) = some t ∧ (withJobs [job9] keepable).keep.request = none
        ∧ t.keep.request = some q)
      ∧ ArrivalVerdict (requesting false ready)
          { tag := none, unsupported := false, kind := .flush, host := 0, count := 0, frame := [] } none
      ∧ (requesting false ready).keep.request ≠ none ∧ ((requesting false ready).buffer 0).owner = .keep
      ∧ ∃ t, internalStep (setBuffer 0 { keepBuffer with state := .done }
            { chunking { job9 with phase := .transforming } (keepDown .read 16) ready with
              keep := { ready.keep with queue := [{ job9 with phase := .transforming }], chunk := some { chunk16 with count := 1 } } }) =
          some t ∧ t.keep.queue = { job9 with phase := .writing } :: [] :=
  ⟨⟨_, _, rfl, rfl, rfl⟩, .soleAccepted rfl rfl rfl, by decide, by decide, _, rfl, by decide⟩

theorem witness_KeepCommandEnds_zeroSource :
    ((keepGranted ready).buffer 1).owner = .keep
      ∧ (∀ m < Config.bufferCount, ∀ i < m, ((keepGranted ready).buffer i).owner = .keep →
          ((keepGranted ready).buffer m).owner = .keep →
          ((keepGranted ready).buffer i).lba < ((keepGranted ready).buffer m).lba)
      ∧ (granting .place (keepGranted ready)).engine.grant.bind Grant.buffer = some 63 := by
  have owners : ∀ i < Config.bufferCount, ((keepGranted ready).buffer i).owner = .keep → i = 1 := by decide
  refine ⟨by decide, fun m hm i hi own other => ?_, rfl⟩
  have := owners m hm other
  have := owners i (by omega) own
  omega

theorem witness_RingHoldsEnd_issue :
    (accessed ready).RingLaw ∧ ((accessed ready).ring 1).live = true
      ∧ (((accessed ready).ring 1).accesses.filter fun a => decide (a.record = .tag 3)) =
          [{ record := .tag 3, write := true, first := 42, count := 8, issued := false }] := by decide

theorem witness_LinkPower_busy :
    writeTurn.waitsUpstream (turning true) = true ∧ turning true ∈ writeTurn.tracker.records
      ∧ (setLowPower (.asked .slumber) (withDisk (outstanding3 .read 0) read3 ready)).drive.outstanding ≠ []
      ∧ (links .ready .starting ready).drive.link = .starting ∧ (sending [.arrival none .notSole] ready).sys.sendOrder ≠ [] := by
  decide

/-! ### Stops, ends and drops -/

/-- Job 9 and its chunk in this phase, with a job behind it, on a Live ring. -/
def stoppable (f : Phase) (o : Option JobOutcome) : State :=
  let s := chunking { job9 with phase := f, stopOutcome := o } (keepDown .read 16) (ringed ready)
  { s with keep := { s.keep with queue := s.keep.queue ++ [{ job9 with id := 8 }] } }

/-- The states in which a stop leaves the Active job in the queue. -/
def stopping : List (Phase × Option JobOutcome) :=
  [(.reading, none), (.writing, none), (.reading, some .truncated), (.writing, some .cancelled), (.transforming, some .cancelled)]

theorem witness_stops :
    ((.transforming, none) :: stopping).all (fun (f, o) =>
        (asking (.closeRing 1) (stoppable f o)).inProgress 7#8 (.closeRing 1) ∧ (stoppable f o).keep.Law
          ∧ (asking (.cancelKeep 9) (stoppable f o)).inProgress 7#8 (.cancelKeep 9)
          ∧ (stoppable f o).keep.queue.head? = some { job9 with phase := f, stopOutcome := o } ∧ (stoppable f o).keep.chunk ≠ none
          ∧ ((stoppable f o).ring 1).live = true ∧ (stoppable f o).line.state ≠ .loading
          ∧ (stoppable f o).keys.lockdown = false) = true
      ∧ (∀ x ∈ stopping, ¬ (stoppable x.1 x.2).stopsAtOnce { job9 with phase := x.1, stopOutcome := x.2 })
      ∧ (stoppable .transforming none).stopsAtOnce { job9 with phase := .transforming }
      ∧ (stoppable .reading none).stopsAtOnce { job9 with id := 8 } ∧ (withJobs [job9] ready).stopsAtOnce job9
      ∧ (requesting false ready).keep.Law ∧ (requesting false ready).stopsAtOnce job9 := by
  unfold State.stopsAtOnce
  refine ⟨?_, ?_, ?_, ?_, ?_, ?_, ?_⟩ <;> decide

/-- A Taken buffer of the keep chunk for the first sector of its read. -/
def keepTaken : State :=
  setBuffer 1 { Buffer.takenForKeep with lba := 65536 } (chunking { job9 with phase := .reading } (keepDown .read 0) ready)

theorem witness_DiskEvents_keep :
    keepTaken.drive.link = .ready ∧ keepTaken.outstandingOn (some 28) = some (keepDown .read 0)
      ∧ (keepTaken.buffer 1).owner = .keep ∧ (keepTaken.buffer 1).state = .taken ∧ (keepTaken.buffer 1).lba = 65536
      ∧ (keepTaken.buffer 0).owner ≠ .keep
      ∧ (chunking { job9 with phase := .writing } (keepDown .write 0) ready).outstandingOn (some 28) = some (keepDown .write 0)
      ∧ (keepDown .write 0).asked + 16 ≤ (keepDown .write 0).count := by decide

theorem witness_DiskEvents_broken :
    [outstanding3 .read 0, outstanding3 .read 8, outstanding3 .write 0, outstanding3 .noData 0,
        { outstanding3 .write 0 with asked := 8 }, { outstanding3 .read 0 with broken := true },
        { outstanding3 .read 8 with broken := true }, { outstanding3 .read 0 with discarding := true }].all (fun c =>
      (withDisk c read3 ready).drive.link = .ready ∧ (withDisk c read3 ready).drive.inbox = []
        ∧ (withDisk c read3 ready).outstandingOn (some 3) = some c) = true
      ∧ { read3 with part1 := .error 107 1#8 }.limit ≤ (outstanding3 .read 7).host + (outstanding3 .read 7).passed
      ∧ (outstanding3 .read 0).passed ≠ 1 ∧ (outstanding3 .read 8).count ≤ (outstanding3 .read 8).passed
      ∧ (outstanding3 .write 0).count < (outstanding3 .write 0).asked + 9 := by decide

theorem witness_UpstreamTurns_discard :
    ((setBuffer 63 { buffer3 .taken .hostWrite with discard := true } invited).buffer 63).discard = true
      ∧ invited.engine.grant.bind Grant.buffer ≠ some 63 := by decide

theorem witness_SubmitKeep_base :
    (keepable.entry 4).active = some { kind := .ring 1, base := 2 ^ 24, order := 20, readBar := false, writeBar := false }
      ∧ ∀ m < 4, (keepable.entry m).active = none := by decide

/-- A record and the keep chunk, each with a count, a user count and a buffer, one of them in the grant. -/
def busyBridge : State :=
  granting .place (setBuffer 63 keepBuffer (setBuffer 0 (buffer3 .done .hostRead) (withRecords [{ read3 with counted := [4], rings := [1] }]
    (chunking { job9 with phase := .transforming } (keepDown .read 16) (counted none 2 (ringed ready))))))

theorem witness_LinkResets_counts :
    busyBridge.keep.Law ∧ busyBridge.sys.link ≠ .down ∧ busyBridge.keep.chunk = some chunk16
      ∧ { read3 with counted := [4], rings := [1] } ∈ busyBridge.tracker.records ∧ (busyBridge.entry 4).inFlight = 2
      ∧ (busyBridge.buffer 0).owner = .record (.tag 3) ∧ (busyBridge.buffer 63).owner = .keep
      ∧ busyBridge.engine.grant.bind Grant.buffer = some 63 := by decide

/-- What CLOSE RING leaves of a job that reads (R147, R149). -/
theorem test_close_ring_stops_a_reading_job :
    (after .closeRing (asking (.closeRing 1) (stoppable .reading none))).keep.queue =
      [{ job9 with phase := .reading, stopOutcome := some (.failed .ringStopped) }] := by decide

/-- Read data for a write fails it, and the disk's later data is discarded (R84). -/
theorem test_disk_read_data_breaks_a_write :
    (after (.diskReadData (some 3) 0 [zeroSector]) (withDisk (outstanding3 .write 0) read3 ready)).drive.outstanding =
      [{ outstanding3 .write 0 with broken := true }] := by decide

/-! ### Failed parts, the loss of the disk and first commands -/

/-- Tag 3's split command, its first part at the disk: a read whose sector 103 was key-lost, or a write that asks for sectors
102 and 103. -/
def partly (write : Bool) : Record :=
  { issued3 with
    kind := if write then .write else .read
    firstLost := if write then none else some (103, .keyLost)
    request := if write then some { first := 102, count := 2, invited := 1 } else none }

/-- Its first part's command, two of four sectors passed. -/
def half (write : Bool) : DownCmd :=
  { outstanding3 (if write then .write else .read) 2 with count := 4 }

/-- The same at the disk, with a sector Done in buffer 0 and one Done, or still to arrive, in buffer 1. -/
def halfway (write : Bool) : State :=
  setBuffer 1 { buffer3 (if write then .taken else .done) (if write then .hostWrite else .hostRead) with lba := 103 }
    (setBuffer 0 { buffer3 .done (if write then .hostWrite else .hostRead) with lba := 101 }
      (withDisk (half write) (partly write) ready))

/-- Its second part's command at the disk beside the first's. -/
def bothHalves (write : Bool) : State :=
  let second := freshCommand (some 28) (.hostSecond (.tag 3)) (if write then .write else .read) 7 4 104 []
  { withRecords [{ partly write with part2 := .outstanding }] (halfway write) with
    drive := { (halfway write).drive with outstanding := [half write, second] } }

theorem witness_DiskEvents_failed_parts :
    (∀ w, (halfway w).drive.link = .ready ∧ (halfway w).drive.inbox = [] ∧ (halfway w).outstandingOn (some 3) = some (half w)
        ∧ (half w).user = .hostFirst (.tag 3) ∧ (halfway w).record? (.tag 3) = some (partly w)
        ∧ (half w).passed < (half w).count ∧ (partly w).part2 = .notIssued ∧ (partly w).part1 = .outstanding
        ∧ (partly w).split = some { host := 104, count := 4, disk := 7, tag := some 28 }
        ∧ ((halfway w).buffer 0).owner = .record (.tag 3) ∧ ((halfway w).buffer 1).owner = .record (.tag 3)
        ∧ ((halfway w).drive.outstanding.map DownCmd.user).Nodup
        ∧ ((bothHalves w).drive.outstanding.map DownCmd.user).Nodup
        ∧ (halfway w).engine.grant.bind Grant.buffer ≠ some 1
        ∧ (granting .place (halfway w)).engine.grant.bind Grant.buffer = some 63)
      ∧ { partly false with part1 := .error 102 1#8 }.limitIs 102 ∧ ((halfway false).buffer 0).lba < 102
      ∧ 102 ≤ ((halfway false).buffer 1).lba ∧ (partly true).request = some { first := 102, count := 2, invited := 1 }
      ∧ (partly true).inPart false 102 ∧ ¬ (partly true).inPart true 103 ∧ ((halfway true).buffer 1).state = .taken
      ∧ ((halfway true).buffer 0).state ≠ .taken := by
  refine ⟨by decide, .inl ⟨1#8, .first 102 1#8 rfl ?_⟩, by decide, by decide, rfl, ?_, ?_, by decide, by decide⟩
  · intro m f h
    cases h
  · simp [Record.inPart, partly, issued3, split3, read3, newRecord]
  · simp [Record.inPart, partly, issued3, split3, read3, newRecord]

theorem witness_LinkStates_parts :
    (halfway true).partsAtDisk (.tag 3) [false] ∧ (bothHalves false).partsAtDisk (.tag 3) [false, true]
      ∧ (withRecords [read3] ready).partsAtDisk (.tag 3) []
      ∧ (bothHalves false).record? (.tag 3) = some { partly false with part2 := .outstanding }
      ∧ (∀ o ∈ (halfway true).drive.outstanding, o.user ≠ .keep ∧ o.tag = some 3)
      ∧ ((chunking { job9 with phase := .reading } (keepDown .read 0) ready).drive.outstanding.map DownCmd.user).Nodup
      ∧ keepDown .read 0 ∈ (chunking { job9 with phase := .reading } (keepDown .read 0) ready).drive.outstanding
      ∧ (chunking { job9 with phase := .reading } (keepDown .read 0) ready).keep.Law := by
  unfold State.partsAtDisk
  refine ⟨?_, ?_, ?_, ?_, ?_, ?_, ?_, ?_⟩ <;> decide

theorem witness_KeyWaitEnds_new_ids :
    [[], [1#32, 2#32, 3#32, 4#32]].all (fun l =>
        let s := setMissList l (holding waitingTwo (keyed ready))
        s.record? (.tag 3) = some waitingTwo ∧ .tag 3 ∈ s.tracker.keyWait ∧ 5#32 ∈ waitingTwo.awaited ∧ s.keys.lockdown = false
          ∧ (protectedIds waitingTwo.runs).filter (fun id => decide (s.lookup id = .miss ∧ id ∉ s.keys.missList)) = [6#32]
          ∧ s.lookup 5#32 = .captured { slot := 0, generation := 1#8 }) = true
      ∧ [6#32].length ≤ 4 - ([] : List ProgId).length ∧ 4 - [1#32, 2#32, 3#32, 4#32].length < [6#32].length := by decide

theorem witness_RegionHolds_image : ready.RingLaw ∧ read3.kind.isData = true ∧ 0 < read3.count ∧ read3.count ≤ 65536 := by decide

theorem witness_KeepUnitActs_held_frame :
    ∃ t q, internalStep (framesWait [.data (some 3) 0 [zeroSector]]
        (crowded (withDisk (outstanding3 .read 0) read3 (withJobs [job9] keepable)))) = some t
      ∧ t.keep.request = some q := ⟨_, _, rfl, rfl⟩

/-- The first command of a split goes to the first range of its image (R101). -/
theorem test_first_range_of_an_image :
    (after .tagwaitGrant (listed [] [] [] [.tag 3] { split3 none with
        state := .tagWait, downCount := 0
        image := some { first := { start := 5000, count := 4 }, second := some { start := 7, count := 4 } } } ready)).wires.down =
      [.command (some 3) .read 5000 4 []] := by decide

/-- An Identify's sector waits for the good end of the command (R78). -/
theorem test_identify_waits_for_its_end :
    let x : Record := { newRecord .sole .identify 0 1 0 [] with state := .issued, part1 := .outstanding }
    let s := setBuffer 0 { buffer3 .done .hostRead with owner := .record .sole, lba := 0 } ready
    s.readyRead x = none ∧ s.readyRead { x with part1 := .good } = some 0
      ∧ s.readyRead { x with part1 := .error 0 4#8 } = none := by decide

/-- Room that an event frees goes to the held frame before a buffer request is placed (R121). -/
theorem test_held_frame_takes_room_first :
    let s := framesWait [.data (some 3) 0 [zeroSector]] (setBuffer 5 Buffer.empty (crowded (withDisk (outstanding3 .read 0) read3
      (withJobs [job9] ready))))
    ((internalStep s).map fun t => (t.drive.inbox, t.keep.request, (t.buffer 5).owner)) =
      some ([], none, .record (.tag 3)) := by decide

end Sys2Proof.Tests
end

section
/-! SUPPORT. The views of the state: the tables of the part read place by place. The vectors of the state are lists over their
indexes, so that a search or a count over a table becomes a statement about `entry`, `slot`, `ring`, `buffer`, `tagUser` and
`record?`. -/

namespace Sys2Proof.Machine

/-! ## Ranges -/

theorem rangesMeet_iff (a b c d : Nat) : rangesMeet a b c d = true ↔ ∃ y, a ≤ y ∧ y < b ∧ c ≤ y ∧ y < d := by
  simp only [rangesMeet, decide_eq_true_eq]
  constructor
  · intro h
    exact ⟨max a c, by omega⟩
  · rintro ⟨y, h⟩
    omega

theorem rangesMeet_iff_shareSector (a n b m : Nat) : rangesMeet a (a + n) b (b + m) = true ↔ shareSector a n b m :=
  rangesMeet_iff _ _ _ _

/-- The comparison of `overwrites`, made P sectors up, is that of the ranges themselves (R49). -/
theorem overwrites_iff (span first n c d : Nat) :
    overwrites span first n c d = true ↔ ∃ v, c ≤ v ∧ v < d ∧ first ≤ v + span ∧ v + span < first + n := by
  simp only [overwrites, rangesMeet_iff]
  constructor
  · rintro ⟨y, h⟩
    exact ⟨y - span, by omega⟩
  · rintro ⟨v, h⟩
    exact ⟨v + span, by omega⟩

/-! ## Vectors as lists over their indexes -/

theorem vector_toList_eq_map_getD {α : Type} {n : Nat} (v : Vector α n) (d : α) :
    v.toList = (List.range n).map fun i => v.getD i d := by
  apply List.ext_getElem
  · simp
  · intro i h _
    have hi : i < n := by simpa using h
    simp [Vector.getD, hi]

theorem vector_zipIdx_toList_eq_map {α : Type} {n : Nat} (v : Vector α n) (d : α) :
    v.toList.zipIdx = (List.range n).map fun i => (v.getD i d, i) := by
  apply List.ext_getElem
  · simp
  · intro i h _
    have hi : i < n := by simpa using h
    simp [Vector.getD, hi]

theorem vector_getD_setIfInBounds_eq {α : Type} {n : Nat} (v : Vector α n) (i : Nat) (x : α) (j : Nat) (d : α) :
    (v.setIfInBounds i x).getD j d = if j = i ∧ i < n then x else v.getD j d := by
  by_cases hi : i < n
  · by_cases hj : j = i
    · subst hj; simp [Vector.getD, Vector.setIfInBounds, hi]
    · have : i ≠ j := fun h => hj h.symm
      simp [Vector.getD, Vector.setIfInBounds, hj, this]
  · have hn : ¬ (j = i ∧ i < n) := fun h => hi h.2
    simp [Vector.getD, Vector.setIfInBounds, Array.setIfInBounds, hi]

theorem vector_getD_map_eq {α : Type} {n : Nat} (f : α → α) (v : Vector α n) (j : Nat) (d : α) :
    (v.map f).getD j d = if j < n then f (v.getD j d) else d := by
  by_cases h : j < n <;> simp [Vector.getD, h]

theorem vector_getD_of_le {α : Type} {n : Nat} (v : Vector α n) (d : α) {j : Nat} (h : n ≤ j) : v.getD j d = d := by
  simp [Vector.getD, Nat.not_lt.mpr h]

/-- Two vectors with the same value at every index are equal. -/
theorem vector_ext_getD {α : Type} {n : Nat} {v w : Vector α n} (d : α) (h : ∀ i < n, v.getD i d = w.getD i d) : v = w := by
  apply Vector.toList_inj.mp
  rw [vector_toList_eq_map_getD v d, vector_toList_eq_map_getD w d]
  exact List.map_congr_left fun i hi => h i (List.mem_range.mp hi)

theorem entries_toList (s : State) : s.regions.entries.toList = (List.range 64).map s.entry :=
  vector_toList_eq_map_getD _ _

theorem entries_zipIdx (s : State) : s.regions.entries.toList.zipIdx = (List.range 64).map fun i => (s.entry i, i) :=
  vector_zipIdx_toList_eq_map _ _

theorem slots_toList (s : State) : s.keys.slots.toList = (List.range 16).map s.slot := vector_toList_eq_map_getD _ _

theorem slots_zipIdx (s : State) : s.keys.slots.toList.zipIdx = (List.range 16).map fun i => (s.slot i, i) :=
  vector_zipIdx_toList_eq_map _ _

theorem rings_toList (s : State) : s.rings.toList = (List.range 4).map s.ring := vector_toList_eq_map_getD _ _

theorem pool_toList (s : State) : s.engine.pool.toList = (List.range 64).map s.buffer := vector_toList_eq_map_getD _ _

theorem pool_zipIdx (s : State) : s.engine.pool.toList.zipIdx = (List.range 64).map fun i => (s.buffer i, i) :=
  vector_zipIdx_toList_eq_map _ _

/-! ## Region entries -/

theorem entry_of_le (s : State) {i : Nat} (h : 64 ≤ i) : s.entry i = RegionEntry.vacant := vector_getD_of_le _ _ h

theorem activeDefs_eq (s : State) :
    s.activeDefs = (List.range 64).filterMap fun i => (s.entry i).active.map fun d => (i, d) := by
  rw [State.activeDefs, entries_zipIdx, List.filterMap_map]
  rfl

theorem mem_activeDefs {s : State} {i : Nat} {d : Definition} :
    (i, d) ∈ s.activeDefs ↔ i < Config.regionCount ∧ (s.entry i).active = some d := by
  rw [activeDefs_eq, List.mem_filterMap]
  constructor
  · rintro ⟨j, hj, he⟩
    obtain ⟨e, ha, heq⟩ := Option.map_eq_some_iff.mp he
    cases heq
    exact ⟨List.mem_range.mp hj, ha⟩
  · rintro ⟨hi, ha⟩
    exact ⟨i, List.mem_range.mpr hi, by simp [ha]⟩

/-- The active definitions stand in the order of their indexes. -/
theorem activeDefs_pairwise (s : State) : s.activeDefs.Pairwise fun a b => a.1 < b.1 := by
  rw [activeDefs_eq, List.pairwise_filterMap]
  refine List.pairwise_lt_range.imp fun {i j} hij a ha b hb => ?_
  obtain ⟨_, _, rfl⟩ := Option.map_eq_some_iff.mp ha
  obtain ⟨_, _, rfl⟩ := Option.map_eq_some_iff.mp hb
  exact hij

theorem meetsStaged_iff (s : State) (x n : Nat) : s.meetsStaged x n = true ↔ s.drains x n := by
  rw [State.meetsStaged, entries_toList, List.any_map, List.any_eq_true]
  constructor
  · rintro ⟨i, hi, h⟩
    simp only [Function.comp_apply, Bool.and_eq_true] at h
    obtain ⟨hs, hm⟩ := h
    cases ha : (s.entry i).active with
    | none => simp [ha] at hm
    | some d =>
        rw [ha] at hm
        exact ⟨i, List.mem_range.mp hi, d, Option.isSome_iff_ne_none.mp hs, ha, (rangesMeet_iff_shareSector _ _ _ _).mp hm⟩
  · rintro ⟨i, hi, d, hs, ha, hm⟩
    refine ⟨i, List.mem_range.mpr hi, ?_⟩
    simp only [Function.comp_apply, ha, Bool.and_eq_true]
    exact ⟨Option.isSome_iff_ne_none.mpr hs, (rangesMeet_iff_shareSector _ _ _ _).mpr hm⟩

/-! ## Key slots -/

theorem slot_of_le (s : State) {i : Nat} (h : 16 ≤ i) : s.slot i = Slot.blank := vector_getD_of_le _ _ h

theorem find?_map_range_eq_some {α : Type} (f : Nat → α) (p : α → Bool) (n : Nat) {y : α}
    (h : ((List.range n).map f).find? p = some y) : ∃ i < n, f i = y ∧ p (f i) = true ∧ ∀ j < i, p (f j) = false := by
  rw [List.find?_map] at h
  obtain ⟨i, hi, rfl⟩ := Option.map_eq_some_iff.mp h
  obtain ⟨hp, hlt, hfirst⟩ := List.find?_range_eq_some.mp hi
  exact ⟨i, List.mem_range.mp hlt, rfl, hp, fun j hj => by simpa using hfirst j hj⟩

theorem slotOf_eq_none_iff (s : State) (id : ProgId) : s.slotOf id = none ↔ ¬ s.holds id := by
  simp [State.slotOf, slots_zipIdx, State.holds]

theorem slotOf_isSome_iff (s : State) (id : ProgId) : (s.slotOf id).isSome = true ↔ s.holds id := by
  rw [Option.isSome_iff_ne_none, ne_eq, slotOf_eq_none_iff, not_not]

theorem slotOf_eq_some {s : State} {id : ProgId} {i : Nat} {x : Slot} (h : s.slotOf id = some (i, x)) :
    i < Config.slotCount ∧ s.slot i = x ∧ x.content.id? = some id := by
  unfold State.slotOf at h
  obtain ⟨⟨y, j⟩, hf, he⟩ := Option.map_eq_some_iff.mp h
  rw [slots_zipIdx] at hf
  obtain ⟨k, hk, hy, hp, _⟩ := find?_map_range_eq_some _ _ _ hf
  cases hy
  cases he
  exact ⟨hk, rfl, by simpa using hp⟩

/-- Under the Key Table's law the slot of an id is the only one that holds it (R26). -/
theorem slotOf_eq_of_law {s : State} (law : s.KeyTableLaw) {id : ProgId} {i : Nat} (hi : i < Config.slotCount)
    (h : (s.slot i).content.id? = some id) : s.slotOf id = some (i, s.slot i) := by
  cases hs : s.slotOf id with
  | none => exact absurd ⟨i, hi, h⟩ ((slotOf_eq_none_iff s id).mp hs)
  | some p =>
      obtain ⟨j, x⟩ := p
      obtain ⟨hj, rfl, hx⟩ := slotOf_eq_some hs
      by_cases hij : j = i
      · rw [hij]
      · exact absurd (hx.trans h.symm) ((law i hi).2 j hj hij (by simp [h]))

/-! ## Records -/

theorem record?_key {s : State} {k : RecordKey} {r : Record} (h : s.record? k = some r) : r.key = k := by
  have := List.find?_some h
  simpa using this

theorem record?_mem {s : State} {k : RecordKey} {r : Record} (h : s.record? k = some r) : r ∈ s.tracker.records :=
  List.mem_of_find?_eq_some h

theorem record?_eq_none_iff (s : State) (k : RecordKey) : s.record? k = none ↔ ¬ s.occupied k := by
  simp [State.record?, State.occupied]

/-! ## Rings -/

theorem ring_of_le (s : State) {r : Nat} (h : 4 ≤ r) : s.ring r = Ring.unshaped := vector_getD_of_le _ _ h

theorem ring_lt_of_live {s : State} {r : Nat} (h : (s.ring r).live = true) : r < Config.ringCount := by
  by_contra hr
  rw [ring_of_le s (Nat.not_lt.mp hr)] at h
  cases h

/-! ## Buffers -/

theorem buffersWhere_eq (s : State) (p : Buffer → Bool) : s.buffersWhere p = (List.range 64).filter fun i => p (s.buffer i) := by
  rw [State.buffersWhere, pool_zipIdx, List.filterMap_map, ← List.filterMap_eq_filter]
  refine List.filterMap_congr fun i _ => ?_
  cases h : p (s.buffer i) <;> simp [h, Option.guard]

theorem mem_buffersWhere {s : State} {p : Buffer → Bool} {i : Nat} :
    i ∈ s.buffersWhere p ↔ i < Config.bufferCount ∧ p (s.buffer i) = true := by
  rw [buffersWhere_eq, List.mem_filter, List.mem_range]

theorem buffersWhere_pairwise (s : State) (p : Buffer → Bool) : (s.buffersWhere p).Pairwise (· < ·) := by
  rw [buffersWhere_eq]
  exact List.pairwise_lt_range.filter _

theorem buffersWhere_nodup (s : State) (p : Buffer → Bool) : (s.buffersWhere p).Nodup :=
  (buffersWhere_pairwise s p).imp Nat.ne_of_lt

theorem bufferCount_eq (s : State) (p : Buffer → Bool) :
    s.bufferCount p = (List.range Config.bufferCount).countP fun i => p (s.buffer i) := by
  rw [State.bufferCount, pool_toList, List.countP_map]
  rfl

theorem freeBuffer_eq_none_iff (s : State) : s.freeBuffer = none ↔ s.freeBuffers = 0 := by
  simp [State.freeBuffer, buffersWhere_eq, State.freeBuffers, bufferCount_eq, List.countP_eq_zero]

theorem bufferOf_eq_none_iff (s : State) (o : Owner) (lba : Nat) (p : Buffer → Bool) :
    s.bufferOf o lba p = none ↔
      ∀ i < Config.bufferCount, ¬ ((s.buffer i).owner = o ∧ (s.buffer i).lba = lba ∧ p (s.buffer i) = true) := by
  simp [State.bufferOf, buffersWhere_eq]

/-! ## Downstream tags -/

theorem tagUser_setTag (t : Nat) (u : Option TagUser) (s : State) (x : Nat) :
    (setTag t u s).tagUser x = if x = t ∧ t < 32 then u else s.tagUser x :=
  vector_getD_setIfInBounds_eq _ _ _ _ _

theorem freePartTag_eq_none_iff (s : State) : s.freePartTag = none ↔ ∀ t, ¬ s.lowestPartTag t := by
  constructor
  · rintro h t ⟨hlo, hhi, hfree, -⟩
    have := List.find?_eq_none.mp h t (List.mem_filter.mpr ⟨List.mem_range.mpr hhi, by simpa [State.hostTags] using hlo⟩)
    simp [hfree] at this
  · intro h
    refine List.find?_eq_none.mpr fun t ht => ?_
    obtain ⟨hr, hlo⟩ := List.mem_filter.mp ht
    intro hfree
    -- the lowest free part tag is found below a free one
    have hex : ∃ x, 32 - s.line.profile.partTags ≤ x ∧ s.tagUser x = none :=
      ⟨t, by simpa [State.hostTags] using hlo, by simpa using hfree⟩
    classical
    refine h (Nat.find hex) ⟨(Nat.find_spec hex).1, ?_, (Nat.find_spec hex).2, fun x hx hlt he => ?_⟩
    · exact Nat.lt_of_le_of_lt (Nat.find_min' hex ⟨by simpa [State.hostTags] using hlo, by simpa using hfree⟩)
        (List.mem_range.mp hr)
    · exact Nat.find_min hex hlt ⟨hx, he⟩

end Sys2Proof.Machine
end

section
/-! SUPPORT. The laws at power-on reset. -/

namespace Sys2Proof.Machine

theorem reset_entry (i : Nat) : State.reset.entry i = RegionEntry.vacant := by
  by_cases h : i < 64 <;> simp [State.entry, State.reset, Vector.getD, h]

theorem reset_slot (i : Nat) : State.reset.slot i = Slot.blank := by
  by_cases h : i < 16 <;> simp [State.slot, State.reset, Vector.getD, h, Slot.blank]

theorem reset_ring (r : Nat) : State.reset.ring r = Ring.unshaped := by
  by_cases h : r < 4 <;> simp [State.ring, State.reset, Vector.getD, h]

theorem reset_buffer (i : Nat) : State.reset.buffer i = Buffer.empty := by
  by_cases h : i < 64 <;> simp [State.buffer, State.reset, Vector.getD, h]

theorem reset_tagUser (t : Nat) : State.reset.tagUser t = none := by
  by_cases h : t < 32 <;> simp [State.tagUser, State.reset, Vector.getD, h]

theorem reset_ringLaw : State.reset.RingLaw := by
  intro r _
  rw [reset_ring]
  refine ⟨⟨fun h => absurd h (by decide), fun _ => rfl⟩, by decide, fun a ha => absurd ha (by simp [Ring.unshaped])⟩

theorem reset_poolLaw : State.reset.PoolLaw := by
  refine ⟨?_, ?_, ?_, fun i _ => ?_⟩
  iterate 3 simp [State.classBuffers, bufferCount_eq, reset_buffer, Buffer.empty]
  rw [reset_buffer]
  exact ⟨fun h => (by cases h), fun h => (by cases h)⟩

theorem reset_keepLaw : State.reset.keep.Law := by
  refine ⟨by decide, by decide, by decide, by decide, by decide, ?_, ?_, fun _ => ⟨rfl, rfl⟩, ?_⟩ <;>
    exact fun j hj => by cases hj

/-- Settles O5: each table of the reset state holds one value at every place, and the laws are laws of that value. -/
theorem resetValuesAndLaws : Obligations.ResetValuesAndLaws := by
  refine ⟨fun i _ => reset_entry i, rfl, fun i _ => reset_slot i, rfl, rfl, fun r _ => ?_, rfl, rfl, rfl, rfl, ?_, rfl, rfl,
    rfl, rfl, rfl, rfl, rfl, rfl, rfl, by decide, fun i _ => ?_, fun i _ => ?_, ⟨by decide, List.nodup_nil, rfl⟩,
    fun h => (by cases h), reset_ringLaw, fun r _ => ⟨fun i _ j _ h => ?_, fun h => ?_⟩, reset_keepLaw, reset_poolLaw⟩
  · rw [reset_ring]
    exact ⟨rfl, rfl, rfl, rfl⟩
  · simp [State.freeBuffers, bufferCount_eq, reset_buffer, Buffer.empty]
  · simp [reset_slot, Slot.blank, SlotContent.id?]
  · simp [reset_slot, Slot.blank, Slot.overdue, SlotContent.deadline?]
  · simp [reset_entry, RegionEntry.vacant, RegionEntry.names] at h
  · rw [reset_ring] at h
    cases h

end Sys2Proof.Machine
end

section
/-! SUPPORT. When no internal step is due: `Quiet s`, the condition of each internal step in turn. -/

namespace Sys2Proof.Machine

theorem cond_some_eq_none_iff {α : Type} (b : Bool) (x : α) : (bif b then some x else none) = none ↔ b = false := by
  cases b <;> simp

/-- The conditions of the internal steps, none of which holds. -/
structure Quiet (s : State) : Prop where
  applyPending    : ∀ i < 64, ((s.entry i).staged.isSome && decide ((s.entry i).inFlight = 0)) = false
  drainRelease    : ∀ k r, s.record? k = some r → (s.regions.drain.contains k && !s.meetsStaged r.host r.count) = false
  completion      : ∀ k r, s.record? k = some r → r.decided (s.grantOf k) = false
  keywaitRecheck  : ∀ k r, s.record? k = some r →
    (s.tracker.keyWait.contains k && r.awaited.any fun id => (s.slotOf id).isSome) = false
  ringorderRelease : ∀ k r, s.record? k = some r → (s.tracker.ringOrder.contains k && r.waitsFor.isEmpty) = false
  overrunRelease  : ∀ k r, s.record? k = some r → (s.tracker.overrun.contains k && (r.timer.isNone || !s.blocked k)) = false
  tagwaitGrant    : s.tracker.tagWait = [] ∨ s.freePartTag = none
  solewaitRelease : ∀ r, s.record? .sole = some r → (r.state == .soleWait && s.keep.chunk.isNone) = false
  secondPart      : ∀ k r x, s.record? k = some r → r.split = some x → r.secondDue = false
  destinationWrite : ∀ j c p, s.activeJob = some j → s.keep.chunk = some c → j.target = some p →
    (j.phase == .transforming && decide (s.bufferCount (fun b => b.owner == .keep && b.state == .done) = c.count)) = false
  requestMet      : ∀ q, s.keep.request = some q → (!q.met && decide (q.count ≤ s.setAsideBuffers)) = false
  chunkStart      : ∀ j q t, s.activeJob = some j → s.keep.request = some q → s.freePartTag = some t →
    (q.met && s.tracker.tagWait.isEmpty && s.driveUsable && s.keep.chunk.isNone) = false
  takeFrame       : s.drive.inbox = [] ∨ ∃ tag offset x xs rest c k r,
    s.drive.inbox = .data tag offset (x :: xs) :: rest ∧ s.outstandingOn tag = some c ∧ (c.broken || c.discarding) = false
      ∧ (c.op == .write || c.op == .noData || decide (c.passed ≠ offset) || decide (c.count ≤ c.passed)) = false
      ∧ c.user.record? = some k ∧ s.record? k = some r ∧ (s.freeBuffer = none ∨ s.hostRoom .hostRead = 0)
  placeRequest    : ∀ j, s.activeJob = some j → s.mayPlace j = false
  wakeDrive       : s.drive.issueOrder = [] ∨ ∀ d, s.drive.link ≠ .asleep d
  sendCommand     : ∀ c rest, s.drive.link = .ready → s.drive.issueOrder = c :: rest →
    (s.linkFree && (c.tag.isSome || s.drive.outstanding.all fun x => x.tag.isNone)) = false
  sendSector      : (s.drive.link == .ready && s.drive.inbox.isEmpty) = true → s.sendable = none
  systemPortReady : (s.sys.link == .notReady && !s.sys.loading && s.drive.link == .ready) = false
  wakeSystem      : ∀ d, s.sys.link = .asleep d → (!s.sys.sendOrder.isEmpty || s.tracker.records.any s.exchangeReady) = false

/-! ## One internal step at a time -/

theorem takeSector_eq_none_iff (c : DownCmd) (x : Sector) (s : State) :
    takeSector c x s = none ↔ ∃ k r, c.user.record? = some k ∧ s.record? k = some r
      ∧ (s.freeBuffer = none ∨ s.hostRoom .hostRead = 0) := by
  unfold takeSector
  cases c.user.record? with
  | none => simp
  | some k =>
      cases hr : s.record? k with
      | none => simp [hr]
      | some r => cases hb : s.freeBuffer <;> by_cases hroom : s.hostRoom .hostRead = 0 <;> simp [hr, hroom]

theorem takeData_eq_none_iff (tag : Option Nat) (offset : Nat) (sectors : List Sector) (rest : List DiskFrame) (s : State) :
    takeData tag offset sectors rest s = none ↔ ∃ c x xs, sectors = x :: xs ∧ s.outstandingOn tag = some c
      ∧ (c.broken || c.discarding) = false
      ∧ (c.op == .write || c.op == .noData || decide (c.passed ≠ offset) || decide (c.count ≤ c.passed)) = false
      ∧ takeSector c x s = none := by
  unfold takeData
  cases ho : s.outstandingOn tag with
  | none => simp
  | some c =>
      cases sectors with
      | nil => simp
      | cons x xs =>
          dsimp only
          cases hb : (c.broken || c.discarding)
          · cases hop : (c.op == .write || c.op == .noData || decide (c.passed ≠ offset) || decide (c.count ≤ c.passed))
            · simp only [cond_false, Option.map_eq_none_iff]
              exact ⟨fun h => ⟨c, x, xs, rfl, rfl, hb, hop, h⟩, fun ⟨_, _, _, he, hc, _, _, h⟩ => by cases he; cases hc; exact h⟩
            · simp only [cond_false, cond_true]
              exact ⟨nofun, fun ⟨_, _, _, _, hc, _, h, _⟩ => by cases hc; rw [hop] at h; cases h⟩
          · simp only [cond_true]
            exact ⟨nofun, fun ⟨_, _, _, _, hc, h, _⟩ => by cases hc; rw [hb] at h; cases h⟩

theorem takeFrame_eq_none_iff (s : State) :
    takeFrame? s = none ↔ s.drive.inbox = [] ∨ ∃ tag offset x xs rest c k r,
      s.drive.inbox = .data tag offset (x :: xs) :: rest ∧ s.outstandingOn tag = some c ∧ (c.broken || c.discarding) = false
        ∧ (c.op == .write || c.op == .noData || decide (c.passed ≠ offset) || decide (c.count ≤ c.passed)) = false
        ∧ c.user.record? = some k ∧ s.record? k = some r ∧ (s.freeBuffer = none ∨ s.hostRoom .hostRead = 0) := by
  unfold takeFrame?
  cases s.drive.inbox with
  | nil => simp
  | cons f rest =>
      cases f with
      | data tag offset sectors =>
          simp only [takeOne, takeData_eq_none_iff, takeSector_eq_none_iff]
          constructor
          · rintro ⟨c, x, xs, rfl, ho, hb, hop, k, r, hk, hr, hroom⟩
            exact .inr ⟨tag, offset, x, xs, rest, c, k, r, rfl, ho, hb, hop, hk, hr, hroom⟩
          · rintro (h | ⟨_, _, x, xs, _, c, k, r, he, ho, hb, hop, hk, hr, hroom⟩)
            · cases h
            · cases he
              exact ⟨c, x, xs, rfl, ho, hb, hop, k, r, hk, hr, hroom⟩
      | writeRequest tag n => simp [takeOne]
      | commandEnd tag good error lba => simp [takeOne]
      | failure error => simp [takeOne]

/-- A record that a table lists by its key, against every occupied record. -/
theorem forall_record_keys_iff (s : State) (p : RecordKey → Record → Prop) :
    (∀ k ∈ s.tracker.records.map Record.key, ∀ r, s.record? k = some r → p k r) ↔ ∀ k r, s.record? k = some r → p k r :=
  ⟨fun h k r hr => h k (record?_key hr ▸ List.mem_map_of_mem (record?_mem hr)) r hr, fun h k _ r hr => h k r hr⟩

theorem secondPart_eq_none_iff (k : RecordKey) (s : State) :
    secondPart? k s = none ↔ ∀ r, s.record? k = some r → ∀ x, r.split = some x → r.secondDue = false := by
  unfold secondPart?
  cases s.record? k with
  | none => simp
  | some r => cases h : r.split <;> simp [h, cond_some_eq_none_iff]

theorem tagwaitGrant_eq_none_iff (s : State) : tagwaitGrant? s = none ↔ s.tracker.tagWait = [] ∨ s.freePartTag = none := by
  unfold tagwaitGrant?
  cases s.tracker.tagWait <;> cases s.freePartTag <;> simp

theorem destinationWrite_eq_none_iff (s : State) :
    destinationWrite? s = none ↔ ∀ j c p, s.activeJob = some j → s.keep.chunk = some c → j.target = some p →
      (j.phase == .transforming && decide (s.bufferCount (fun b => b.owner == .keep && b.state == .done) = c.count)) = false := by
  unfold destinationWrite?
  cases s.activeJob with
  | none => simp
  | some j =>
      cases s.keep.chunk with
      | none => simp
      | some c =>
          cases ht : j.target with
          | none =>
              refine iff_of_true (by simp [ht]) fun _ _ _ hj _ hp => ?_
              cases hj
              rw [ht] at hp
              cases hp
          | some p =>
              obtain ⟨h, disk, n⟩ := p
              simp only [ht, cond_some_eq_none_iff]
              refine ⟨fun hd _ _ _ hj hc _ => ?_, fun hd => hd j c _ rfl rfl ht⟩
              cases hj
              cases hc
              exact hd

theorem requestMet_eq_none_iff (s : State) :
    requestMet? s = none ↔ ∀ q, s.keep.request = some q → (!q.met && decide (q.count ≤ s.setAsideBuffers)) = false := by
  unfold requestMet?
  cases s.keep.request with
  | none => simp
  | some q => simp only [cond_some_eq_none_iff]; simp

theorem chunkStart_eq_none_iff (s : State) :
    chunkStart? s = none ↔ ∀ j q t, s.activeJob = some j → s.keep.request = some q → s.freePartTag = some t →
      (q.met && s.tracker.tagWait.isEmpty && s.driveUsable && s.keep.chunk.isNone) = false := by
  unfold chunkStart?
  cases s.activeJob <;> cases s.keep.request <;> cases s.freePartTag <;> simp [cond_some_eq_none_iff]

theorem placeRequest_eq_none_iff (s : State) : placeRequest? s = none ↔ ∀ j, s.activeJob = some j → s.mayPlace j = false := by
  unfold placeRequest?
  cases s.activeJob with
  | none => simp
  | some j => simp only [cond_some_eq_none_iff]; simp

theorem wakeDrive_eq_none_iff (s : State) :
    wakeDrive? s = none ↔ s.drive.issueOrder = [] ∨ ∀ d, s.drive.link ≠ .asleep d := by
  unfold wakeDrive?
  cases s.drive.link <;> cases s.drive.issueOrder <;> simp

theorem sendCommand_eq_none_iff (s : State) :
    sendCommand? s = none ↔ ∀ c rest, s.drive.link = .ready → s.drive.issueOrder = c :: rest →
      (s.linkFree && (c.tag.isSome || s.drive.outstanding.all fun x => x.tag.isNone)) = false := by
  unfold sendCommand?
  cases s.drive.link <;> cases s.drive.issueOrder <;> simp [cond_some_eq_none_iff]

theorem sendSector_eq_none_iff (s : State) :
    sendSector? s = none ↔ ((s.drive.link == .ready && s.drive.inbox.isEmpty) = true → s.sendable = none) := by
  unfold sendSector?
  cases (s.drive.link == .ready && s.drive.inbox.isEmpty) <;> cases s.sendable <;> simp

theorem wakeSystem_eq_none_iff (s : State) :
    wakeSystem? s = none ↔ ∀ d, s.sys.link = .asleep d →
      (!s.sys.sendOrder.isEmpty || s.tracker.records.any s.exchangeReady) = false := by
  unfold wakeSystem?
  cases s.sys.link with
  | asleep d => simp only [cond_some_eq_none_iff]; simp
  | down | notReady | ready => simp

theorem decide_eq_none_iff (k : RecordKey) (s : State) :
    decide? k s = none ↔ ∀ r, s.record? k = some r → r.decided (s.grantOf k) = false := by
  unfold decide?
  cases s.record? k with
  | none => simp
  | some r => simp only [cond_some_eq_none_iff]; simp

theorem drainRelease_eq_none_iff (k : RecordKey) (s : State) :
    drainRelease? k s = none ↔ ∀ r, s.record? k = some r →
      (s.regions.drain.contains k && !s.meetsStaged r.host r.count) = false := by
  unfold drainRelease?
  cases s.record? k with
  | none => simp
  | some r => simp only [cond_some_eq_none_iff]; simp

theorem keywaitRecheck_eq_none_iff (k : RecordKey) (s : State) :
    keywaitRecheck? k s = none ↔ ∀ r, s.record? k = some r →
      (s.tracker.keyWait.contains k && r.awaited.any fun id => (s.slotOf id).isSome) = false := by
  unfold keywaitRecheck?
  cases s.record? k with
  | none => simp
  | some r => simp only [cond_some_eq_none_iff]; simp

theorem ringorderRelease_eq_none_iff (k : RecordKey) (s : State) :
    ringorderRelease? k s = none ↔ ∀ r, s.record? k = some r →
      (s.tracker.ringOrder.contains k && r.waitsFor.isEmpty) = false := by
  unfold ringorderRelease?
  cases s.record? k with
  | none => simp
  | some r => simp only [cond_some_eq_none_iff]; simp

theorem overrunRelease_eq_none_iff (k : RecordKey) (s : State) :
    overrunRelease? k s = none ↔ ∀ r, s.record? k = some r →
      (s.tracker.overrun.contains k && (r.timer.isNone || !s.blocked k)) = false := by
  unfold overrunRelease?
  cases s.record? k with
  | none => simp
  | some r => simp only [cond_some_eq_none_iff]; simp

theorem solewaitRelease_eq_none_iff (s : State) :
    solewaitRelease? s = none ↔ ∀ r, s.record? .sole = some r → (r.state == .soleWait && s.keep.chunk.isNone) = false := by
  unfold solewaitRelease?
  cases s.record? .sole with
  | none => simp
  | some r => simp only [cond_some_eq_none_iff]; simp

/-- A record that a hold's list names, against every record: the conditions of the holds ask for the list themselves. -/
theorem forall_listed_iff (l : List RecordKey) (find : RecordKey → Option Record) (b : RecordKey → Record → Bool) :
    (∀ k ∈ l, ∀ r, find k = some r → (l.contains k && b k r) = false) ↔
      ∀ k r, find k = some r → (l.contains k && b k r) = false := by
  refine ⟨fun h k r hr => ?_, fun h k _ r hr => h k r hr⟩
  by_cases hk : k ∈ l
  · exact h k hk r hr
  · simp [hk]

/-- No internal step is due exactly when the condition of none holds. -/
theorem internalStep_eq_none_iff (s : State) : internalStep s = none ↔ Quiet s := by
  unfold internalStep
  simp only [Option.orElse_eq_none, List.findSome?_eq_none_iff, List.mem_range, imp_and, forall_and, applyPending?,
    systemPortReady?, cond_some_eq_none_iff, drainRelease_eq_none_iff, decide_eq_none_iff, keywaitRecheck_eq_none_iff,
    ringorderRelease_eq_none_iff, overrunRelease_eq_none_iff, solewaitRelease_eq_none_iff, secondPart_eq_none_iff,
    tagwaitGrant_eq_none_iff, destinationWrite_eq_none_iff, requestMet_eq_none_iff, chunkStart_eq_none_iff,
    takeFrame_eq_none_iff, placeRequest_eq_none_iff, wakeDrive_eq_none_iff, sendCommand_eq_none_iff, sendSector_eq_none_iff,
    wakeSystem_eq_none_iff, forall_record_keys_iff, forall_listed_iff]
  constructor
  · rintro ⟨h1, ⟨h2, h3⟩, h4, h5, h6, h7, h8, h9, h10, h11, h12, h13, h14, h15, h16, h17, h18, h19⟩
    exact ⟨h1, h2, h3, h4, h5, h6, h7, h8, fun k r x hr => h9 k r hr x, h10, h11, h12, h13, h14, h15, h16, h17, h18, h19⟩
  · rintro ⟨h1, h2, h3, h4, h5, h6, h7, h8, h9, h10, h11, h12, h13, h14, h15, h16, h17, h18, h19⟩
    exact ⟨h1, ⟨h2, h3⟩, h4, h5, h6, h7, h8, fun k r hr x => h9 k r x hr, h10, h11, h12, h13, h14, h15, h16, h17, h18, h19⟩

end Sys2Proof.Machine
end

section
/-! SUPPORT. `settle` as a run of internal steps, and commands from a state in which none is due. -/

namespace Sys2Proof.Machine

/-! ## Runs -/

theorem settleFor_run (n : Nat) (s : State) :
    ∃ m ≤ n, InternalRun m s (settleFor n s) ∧ (internalStep (settleFor n s) = none ∨ m = n) := by
  induction n generalizing s with
  | zero => exact ⟨0, Nat.le_refl 0, .rest s, .inr rfl⟩
  | succ n ih =>
      unfold settleFor
      cases hs : internalStep s with
      | none => exact ⟨0, Nat.zero_le _, .rest s, .inl hs⟩
      | some u =>
          obtain ⟨m, hm, hrun, hend⟩ := ih u
          exact ⟨m + 1, Nat.succ_le_succ hm, .step hs hrun, hend.imp id (congrArg (· + 1))⟩

/-! ## What the conditions of the internal steps read -/

/-- The two states agree on all that the conditions of the internal steps read: of the Key Table which ids have a slot, of the
Module Line the profile. -/
structure SameDue (s t : State) : Prop where
  regions : t.regions = s.regions
  held    : ∀ id, (t.slotOf id).isSome = (s.slotOf id).isSome
  rings   : t.rings = s.rings
  tracker : t.tracker = s.tracker
  sys     : t.sys = s.sys
  drive   : t.drive = s.drive
  engine  : t.engine = s.engine
  keep    : t.keep = s.keep
  profile : t.line.profile = s.line.profile

theorem SameDue.trans {s t u : State} (h : SameDue s t) (k : SameDue t u) : SameDue s u :=
  ⟨k.regions.trans h.regions, fun id => (k.held id).trans (h.held id), k.rings.trans h.rings, k.tracker.trans h.tracker,
    k.sys.trans h.sys, k.drive.trans h.drive, k.engine.trans h.engine, k.keep.trans h.keep, k.profile.trans h.profile⟩

theorem SameDue.freePartTag_eq {s t : State} (e : SameDue s t) : t.freePartTag = s.freePartTag := by
  unfold State.freePartTag State.hostTags State.tagUser
  rw [e.profile, e.drive]

theorem SameDue.mayPlace_eq {s t : State} (e : SameDue s t) (j : Job) : t.mayPlace j = s.mayPlace j := by
  simp only [State.mayPlace, State.gateFor, e.freePartTag_eq, e.profile, e.keep, e.tracker, State.soleStanding,
    State.driveUsable, e.drive, State.blocks, State.ring, e.rings]

/-- The conditions of the internal steps read no more than `SameDue` keeps. -/
theorem Quiet.of_sameDue {s t : State} (h : Quiet s) (e : SameDue s t) : Quiet t := by
  have hp := e.freePartTag_eq
  have hm := e.mayPlace_eq
  have hs := e.held
  obtain ⟨regions, keys, rings, tracker, sys, drive, engine, keep, clock, line, resetAsserted, wires, fresh, pending⟩ := t
  obtain ⟨rfl, -, rfl, rfl, rfl, rfl, rfl, rfl, -⟩ := e
  refine ⟨h.applyPending, h.drainRelease, h.completion, fun k r hr => ?_, h.ringorderRelease, h.overrunRelease, ?_,
    h.solewaitRelease, h.secondPart, h.destinationWrite, h.requestMet, fun j q t hj hq ht => ?_, h.takeFrame,
    fun j hj => ?_, h.wakeDrive, h.sendCommand, h.sendSector, h.systemPortReady, h.wakeSystem⟩
  · simp only [hs]
    exact h.keywaitRecheck k r hr
  · rw [hp]
    exact h.tagwaitGrant
  · exact h.chunkStart j q t hj hq (hp ▸ ht)
  · rw [hm]
    exact h.placeRequest j hj

theorem internalStep_none_of_sameDue {s t : State} (h : internalStep s = none) (e : SameDue s t) : internalStep t = none :=
  (internalStep_eq_none_iff t).mpr (((internalStep_eq_none_iff s).mp h).of_sameDue e)

/-- Changing slots in a way that keeps the ids they hold. -/
theorem holds_mapSlots (f : Slot → Slot) (hf : ∀ x, (f x).content.id? = x.content.id?) (s : State) (id : ProgId) :
    { s with keys := { s.keys with slots := mapVector f s.keys.slots } : State }.holds id ↔ s.holds id := by
  have hslot : ∀ i < 16, State.slot { s with keys := { s.keys with slots := mapVector f s.keys.slots } } i = f (s.slot i) := by
    intro i hi
    simp only [State.slot, mapVector_eq_map, vector_getD_map_eq, hi, if_true]
  exact exists_congr fun i => and_congr_right fun hi => by rw [hslot i hi, hf]

theorem expire_id? (x : Slot) : x.expire.content.id? = x.content.id? := by
  unfold Slot.expire
  split
  · rename_i h; rw [h]; rfl
  · rfl

theorem sameDue_expireSlots (minute : Nat) (s : State) : SameDue s (expireSlots minute s) := by
  have held : ∀ id, ((expireSlots minute s).slotOf id).isSome = (s.slotOf id).isSome := by
    intro id
    rw [Bool.eq_iff_iff, slotOf_isSome_iff, slotOf_isSome_iff]
    have := holds_mapSlots (fun x => bif x.overdue minute then x.expire else x)
      (fun x => by cases x.overdue minute <;> simp [expire_id?]) s id
    unfold expireSlots latchIf
    cases decide (s.overdueCount minute ≠ 0) <;> exact this
  refine ⟨?_, held, ?_, ?_, ?_, ?_, ?_, ?_, ?_⟩ <;>
    (unfold expireSlots latchIf; cases decide (s.overdueCount minute ≠ 0) <;> rfl)

theorem sameDue_setClock (c : Clock) (s : State) : SameDue s (setClock c s) :=
  ⟨rfl, fun _ => rfl, rfl, rfl, rfl, rfl, rfl, rfl, rfl⟩

theorem sameDue_countSecond (s : State) : SameDue s (countSecond s) := by
  unfold countSecond
  dsimp only
  split
  · exact sameDue_setClock _ s
  · split
    · exact (sameDue_setClock _ s).trans (sameDue_expireSlots _ _)
    · exact sameDue_setClock _ s

theorem sameDue_countCycle (s : State) : SameDue s (countCycle s) := by
  unfold countCycle
  dsimp only
  cases s.clock.carries
  · exact sameDue_setClock _ s
  · exact (sameDue_setClock _ s).trans (sameDue_countSecond _)

/-! ## Where a command ends -/

/-- The state a command ends in: nothing is due there, or as many internal steps as the bound were taken, after which at most
the Module Line changed. -/
def Rested (t : State) : Prop :=
  internalStep t = none ∨ ∃ u v l, t = { v with line := l } ∧ InternalRun (settleBound u) u v

theorem rested_of_line_change (u : State) (l : Line) (hl : l.profile = (settle u).line.profile) :
    Rested { settle u with line := l } := by
  obtain ⟨m, _, hrun, hend⟩ := settleFor_run (settleBound u) u
  rcases hend with hnone | rfl
  · exact .inl (internalStep_none_of_sameDue hnone ⟨rfl, fun _ => rfl, rfl, rfl, rfl, rfl, rfl, rfl, hl⟩)
  · exact .inr ⟨u, settle u, l, rfl, hrun⟩

theorem rested_settle (u : State) : Rested (settle u) := rested_of_line_change u _ rfl

theorem rested_placeReply (f : List Byte) (a : Answer) (u : State) : Rested (placeReply f a (settle u)) :=
  rested_of_line_change u _ rfl

theorem Rested.cond {b : Bool} {x y : State} (hx : Rested x) (hy : Rested y) : Rested (bif b then x else y) := by
  cases b <;> assumption

section
variable {s : State} (quiet : internalStep s = none)
include quiet

theorem rested_same {t : State} (e : SameDue s t) : Rested t := .inl (internalStep_none_of_sameDue quiet e)

theorem rested_takeRequest (row : RequestRow) (serve : Request → State → State × Answer) : Rested (takeRequest row serve s) := by
  unfold takeRequest
  split
  · exact .cond (rested_placeReply _ _ _) (.inl quiet)
  · exact .inl quiet

theorem rested_arrive (tag : Option Nat) (unsupported : Bool) (kind : HostKind) (host count : Nat) (frame : List Byte) :
    Rested (arrive tag unsupported kind host count frame s) := by
  unfold arrive
  split
  · exact rested_settle _
  · exact rested_same quiet ⟨rfl, fun _ => rfl, rfl, rfl, rfl, rfl, rfl, rfl, rfl⟩
  · exact .inl quiet
  · exact .inl quiet

theorem rested_diskFrame (f : DiskFrame) : Rested (diskFrame f s) := .cond (rested_settle _) (.inl quiet)

theorem rested_keepEnd (op : DownOp) (good : Bool) (error : Byte) (lba : Nat) : Rested (keepEnd op good error lba s) := by
  unfold keepEnd
  split
  · exact rested_diskFrame quiet _
  · exact .inl quiet

theorem rested_endLoad (r : ProfileRead) : Rested (endLoad r s) := .cond (rested_settle _) (.inl quiet)

theorem rested_sendFrame (f : List Byte) : Rested (sendFrame f s) := by
  unfold sendFrame
  split <;> exact rested_same quiet ⟨rfl, fun _ => rfl, rfl, rfl, rfl, rfl, rfl, rfl, rfl⟩

theorem rested_lockdownFound : Rested (lockdownFound s) :=
  .cond (rested_same quiet ⟨rfl, fun _ => rfl, rfl, rfl, rfl, rfl, rfl, rfl, rfl⟩) (.cond (.inl quiet) (rested_settle _))

end

theorem internalStep_reset : internalStep State.reset = none := by decide

/-- Every command from a state in which nothing is due ends in one, or takes the bound. -/
theorem rested_exec (c : Instr) {s t : State} (quiet : internalStep s = none) (h : exec c s = .next t) : Rested t := by
  have here : Rested s := .inl quiet
  have cycle : Rested (countCycle s) := rested_same quiet (sameDue_countCycle s)
  cases c <;> injection h with h <;> subst h
  case powerOnReset =>
    exact .inl (internalStep_none_of_sameDue internalStep_reset ⟨rfl, fun _ => rfl, rfl, rfl, rfl, rfl, rfl, rfl, rfl⟩)
  case resetDeasserted | fetch => exact rested_same quiet ⟨rfl, fun _ => rfl, rfl, rfl, rfl, rfl, rfl, rfl, rfl⟩
  case diskLowPowerRequest => exact .cond (rested_same quiet ⟨rfl, fun _ => rfl, rfl, rfl, rfl, rfl, rfl, rfl, rfl⟩) here
  case profileLoadEnd | profileLoadTimeout => exact rested_endLoad quiet _
  case lockdown => exact rested_lockdownFound quiet
  case send => exact rested_sendFrame quiet _
  case oscillatorCycle | secondCounted | minuteTick => exact .cond cycle here
  case resetAsserted | linkReset | upstreamLinkLost | downstreamLinkLost => exact .cond here (rested_settle _)
  case upstreamLinkEstablished | downstreamLinkUp | diskReadySignature | diskSelfReset =>
    exact .cond (rested_settle _) here
  case grantEnd | hostWake | diskWake =>
    split
    · exact rested_settle _
    · exact here
  case read | write | soleRead | soleWrite | flush | identify | passNoData | unknownCommand =>
    exact rested_arrive quiet _ _ _ _ _ _
  case requestForWriteData | diskReadData | downstreamCommandEnd | diskFailure => exact rested_diskFrame quiet _
  case keepReadEnd | keepWriteEnd => exact rested_keepEnd quiet _ _ _ _
  case systemPortReady | drainRelease | pendingDefinitionApplied | keywaitRecheck | keywaitTimerExpiry | ringorderRelease
      | overrunRelease | overrunTimerExpiry | tagwaitGrant | solewaitRelease | secondPartIssue | hostWriteData
      | writeDataRequest | readDataBurst | completion | grantStart | idleGateOpen | bufferRequestMet | keepChunkStart
      | lowPowerRequest | downstreamLowPower | diskLowPowerAnswer => exact rested_settle _
  all_goals exact rested_takeRequest quiet _ _

/-- Settles O3: `settle` is a run by induction on its bound; a command ends in such a run, or changes nothing that the
conditions of the internal steps read. -/
theorem settleTakesDueSteps : Obligations.SettleTakesDueSteps := by
  refine ⟨fun s => ⟨settle_of_quiet s, settleFor_run (settleBound s) s⟩, fun s t quiet h => ?_⟩
  unfold step at h
  cases hp : s.pending with
  | nil =>
      rw [hp] at h
      injection h with h
      exact .inl (h ▸ quiet)
  | cons c rest =>
      rw [hp] at h
      have taken : internalStep { s with pending := rest } = none :=
        internalStep_none_of_sameDue quiet ⟨rfl, fun _ => rfl, rfl, rfl, rfl, rfl, rfl, rfl, rfl⟩
      exact rested_exec c taken h

end Sys2Proof.Machine
end

section
/-! SUPPORT. What the conditions of the internal steps say in the manual's terms. -/

namespace Sys2Proof.Machine

/-! ## Parts and completions -/

theorem partStatus_ended_iff (p : PartStatus) : p.ended = true ↔ p.over := by
  cases p <;> simp [PartStatus.ended, PartStatus.over]

theorem record_partsEnded_iff (x : Record) : x.partsEnded = true ↔ x.allOver := by
  simp only [Record.partsEnded, Record.allOver, Bool.and_eq_true, partStatus_ended_iff, Bool.not_eq_true', beq_eq_false_iff_ne,
    ne_eq, Bool.and_eq_false_iff, Option.isSome_eq_false_iff, Option.isNone_iff_eq_none, not_and_or, not_not, and_assoc,
    or_assoc]

theorem failing_failure (x : Record) : Failing x x.failure := by
  unfold Record.failure
  cases h1 : x.part1 with
  | error a e =>
      cases h2 : x.part2 with
      | error b f =>
          dsimp only
          split
          · exact .second _ _ h2 fun m g h => by rw [h1] at h; cases h; assumption
          · exact .first _ _ h1 fun m g h => by rw [h2] at h; cases h; omega
      | notIssued | outstanding | good => exact .first _ _ h1 fun m g h => by rw [h2] at h; cases h
  | notIssued | outstanding | good =>
      cases h2 : x.part2 with
      | error b f => exact .second _ _ h2 fun m g h => by rw [h1] at h; cases h
      | notIssued | outstanding | good =>
          exact .neither (fun l e h => by rw [h1] at h; cases h) (fun l e h => by rw [h2] at h; cases h)

theorem limitIs_limit (x : Record) : x.limitIs x.limit := by
  have := failing_failure x
  unfold Record.limit Record.limitIs
  cases h : x.failure with
  | none => exact .inr ⟨h ▸ this, rfl⟩
  | some p => exact .inl ⟨p.2, h ▸ this⟩

theorem inGrantOf_of_grantOf {s : State} {k : RecordKey} (h : s.grantOf k = true) : s.inGrantOf k := by
  unfold State.grantOf at h
  split at h
  · rename_i i hi
    obtain ⟨g, hg, hb⟩ := Option.bind_eq_some_iff.mp hi
    exact ⟨g, i, hg, hb, by simpa using h⟩
  · cases h

/-- An issued record whose completion the model does not decide does not complete by R107. -/
theorem not_completes_of_not_decided {s : State} {x : Record} (issued : x.state = .issued)
    (h : x.decided (s.grantOf x.key) = false) : ¬ s.completes x := by
  intro hc
  have free : ¬ s.inGrantOf x.key → s.grantOf x.key = false := fun hn =>
    Bool.eq_false_iff.mpr fun hg => hn (inGrantOf_of_grantOf hg)
  unfold State.completes at hc
  unfold Record.decided at h
  cases hk : x.kind with
  | read | soleRead =>
      obtain ⟨hover, hlimit, hgrant⟩ : _ ∧ _ ∧ _ := by simpa [hk] using hc
      simp [hk, issued, (record_partsEnded_iff x).mpr hover, hlimit _ (limitIs_limit x), free hgrant] at h
  | write | soleWrite =>
      obtain ⟨hover, hreq, hcount, hgrant⟩ : _ ∧ _ ∧ _ ∧ _ := by simpa [hk] using hc
      simp [hk, issued, (record_partsEnded_iff x).mpr hover, hreq, hcount, free hgrant] at h
  | identify =>
      have he : (∃ l e, x.part1 = .error l e) ∨ (x.part1 = .good ∧ 1 ≤ x.upCount) := by simpa [hk] using hc
      rcases he with ⟨l, e, he⟩ | ⟨he, hup⟩
      · simp [hk, issued, he, PartStatus.failing?] at h
      · simp [hk, issued, he, PartStatus.failing?] at h
        omega
  | flush | passNoData =>
      have he : x.part1.over := by simpa [hk] using hc
      simp [hk, issued, (partStatus_ended_iff _).mpr he] at h

/-- A second part that the model does not find due may not be issued by R105. -/
theorem secondPart_waits {x : Record} {p : Split} (hs : x.split = some p) (issued : x.state = .issued)
    (h2 : x.part2 = .notIssued) (h : x.secondDue = false) :
    ¬ (x.key = .sole ∧ x.part1 = .good)
      ∧ ¬ (x.key ≠ .sole ∧ (x.part1 = .outstanding ∨ x.part1 = .good) ∧ p.host - x.host ≤ x.downCount) := by
  simp only [Record.secondDue, hs, issued, h2, beq_self_eq_true, Bool.true_and] at h
  refine ⟨fun ⟨hk, hg⟩ => ?_, fun ⟨hk, hp, hd⟩ => ?_⟩
  · simp [hk, hg] at h
  · rw [beq_false_of_ne hk, cond_false, decide_eq_true hd] at h
    rcases hp with hp | hp <;> simp [hp, PartStatus.failing?] at h

/-! ## The Keep Unit -/

/-- The extent that holds a place is found by the lengths of those before it. -/
theorem extentAt_eq {es : List Extent} {i : Nat} {e : Extent} {p : Nat} (he : es[i]? = some e) (hp : p < e.count) :
    extentAt es (((es.take i).map Extent.count).sum + p) = some (e, p) := by
  induction es generalizing i with
  | nil => cases he
  | cons f es ih =>
      unfold extentAt
      cases i with
      | zero =>
          cases he
          simp [hp]
      | succ i =>
          have hle : ¬ (((f :: es).take (i + 1)).map Extent.count).sum + p < f.count := by simp; omega
          rw [if_neg hle, ← ih (i := i) (by simpa using he)]
          congr 1
          simp; omega

theorem target_of_destinationAt {j : Job} {h disk left : Nat} (d : j.destinationAt h disk left) :
    j.target = some (h, disk, left) := by
  obtain ⟨i, e, p, he, hp, hsum, rfl, rfl, rfl⟩ := d
  rw [Job.target, ← hsum, extentAt_eq he hp]
  rfl

theorem doneKeepBuffers_eq (s : State) :
    s.doneKeepBuffers = s.bufferCount fun b => b.owner == .keep && b.state == .done := (bufferCount_eq s fun b => b.owner == .keep && b.state == .done).symm

theorem driveUsable_iff (s : State) : s.driveUsable = true ↔ s.driveUp := by
  unfold State.driveUsable State.driveUp
  cases s.drive.link <;> simp

theorem blocks_iff (s : State) (k : RecordKey) (j : Job) : s.blocks k j = true ↔ s.heldByJob k j := by
  simp only [State.blocks, List.any_eq_true, Bool.and_eq_true, beq_iff_eq, overwrites_iff, State.heldByJob, and_assoc]

theorem blocked_iff (s : State) (k : RecordKey) : s.blocked k = true ↔ ∃ j ∈ s.keep.queue, s.heldByJob k j := by
  simp only [State.blocked, List.any_eq_true, blocks_iff]

theorem gateFor_iff (s : State) (j : Job) : s.gateFor j = true ↔ s.gateLets j := by
  simp only [State.gateFor, State.gateLets, Bool.or_eq_true, decide_eq_true_eq, List.any_eq_true, blocks_iff, or_assoc]

theorem exists_lowestPartTag_iff (s : State) : (∃ t, s.lowestPartTag t) ↔ s.freePartTag.isSome = true := by
  rw [Option.isSome_iff_ne_none, ne_eq, freePartTag_eq_none_iff, not_forall_not]

theorem mayPlace_iff (s : State) (j : Job) : s.mayPlace j = true ↔ s.placesRequest j := by
  simp only [State.mayPlace, State.placesRequest, Bool.and_eq_true, Option.isNone_iff_eq_none, decide_eq_true_eq,
    Bool.not_eq_true', gateFor_iff, exists_lowestPartTag_iff, List.isEmpty_iff, driveUsable_iff, and_assoc,
    State.soleStanding, List.any_eq_false, Bool.not_eq_true]

/-! ## At rest -/

section
variable {s : State} (q : Quiet s)
include q

theorem Quiet.noPending {i : Nat} (hi : i < Config.regionCount) (h0 : (s.entry i).inFlight = 0) : (s.entry i).staged = none := by
  have := q.applyPending i hi
  simpa [h0] using this

theorem Quiet.drained {k : RecordKey} {x : Record} (hx : s.record? k = some x) (hk : k ∈ s.regions.drain) :
    s.drains x.host x.count := by
  have := q.drainRelease k x hx
  rw [← meetsStaged_iff]
  simpa [hk] using this

theorem Quiet.awaiting {k : RecordKey} {x : Record} (hx : s.record? k = some x) (hk : k ∈ s.tracker.keyWait) :
    ∀ id ∈ x.awaited, ¬ s.holds id := by
  intro id hid hh
  have := q.keywaitRecheck k x hx
  simp only [List.contains_iff_mem.mpr hk, Bool.true_and, List.any_eq_false] at this
  exact this id hid ((slotOf_isSome_iff s id).mpr hh)

theorem Quiet.ordered {k : RecordKey} {x : Record} (hx : s.record? k = some x) (hk : k ∈ s.tracker.ringOrder) :
    x.waitsFor ≠ [] := by
  have := q.ringorderRelease k x hx
  simpa [hk] using this

theorem Quiet.overrunning {k : RecordKey} {x : Record} (hx : s.record? k = some x) (hk : k ∈ s.tracker.overrun) :
    x.timer ≠ none ∧ ∃ j ∈ s.keep.queue, s.heldByJob k j := by
  have := q.overrunRelease k x hx
  simp only [List.contains_iff_mem.mpr hk, Bool.true_and, Bool.or_eq_false_iff, Bool.not_eq_false'] at this
  exact ⟨fun ht => by simp [ht] at this, (blocked_iff s k).mp this.2⟩

theorem Quiet.recordWaits {k : RecordKey} {x : Record} (hx : s.record? k = some x) :
    (k = .sole → x.state = .soleWait → s.keep.chunk ≠ none)
      ∧ (∀ p, x.split = some p → x.state = .issued → x.part2 = .notIssued →
          ¬ (k = .sole ∧ x.part1 = .good)
            ∧ ¬ (k ≠ .sole ∧ (x.part1 = .outstanding ∨ x.part1 = .good) ∧ p.host - x.host ≤ x.downCount))
      ∧ (x.state = .issued → ¬ s.completes x) := by
  have key := record?_key hx
  subst key
  refine ⟨fun hk hstate hc => ?_, fun p hp hi h2 => secondPart_waits hp hi h2 (q.secondPart _ x p hx hp),
    fun hi => not_completes_of_not_decided hi (q.completion _ x hx)⟩
  have := q.solewaitRelease x (hk ▸ hx)
  simp [hstate, hc] at this

theorem Quiet.jobWaits {j : Job} {rest : List Job} (hq : s.keep.queue = j :: rest) :
    (∀ r t, s.keep.request = some r → r.met = true → s.keep.chunk = none → s.tracker.tagWait = [] → s.driveUp →
        ¬ s.lowestPartTag t)
      ∧ ¬ s.placesRequest j
      ∧ ∀ c h disk left, s.keep.chunk = some c → j.phase = .transforming → j.destinationAt h disk left →
          s.doneKeepBuffers ≠ c.count := by
  have active : s.activeJob = some j := by simp [State.activeJob, hq]
  refine ⟨fun r t hr hmet hchunk htags hup ht => ?_, fun hp => ?_, fun c h disk left hc hphase hdest hcount => ?_⟩
  · obtain ⟨x, hx⟩ := Option.isSome_iff_exists.mp ((exists_lowestPartTag_iff s).mp ⟨t, ht⟩)
    have := q.chunkStart j r x active hr hx
    simp [hmet, hchunk, htags, (driveUsable_iff s).mpr hup] at this
  · have := q.placeRequest j active
    rw [(mayPlace_iff s j).mpr hp] at this
    cases this
  · have := q.destinationWrite j c _ active hc (target_of_destinationAt hdest)
    rw [← doneKeepBuffers_eq] at this
    simp [hphase, hcount] at this

theorem Quiet.inboxHeld (h : s.drive.inbox ≠ []) : s.freeBuffers = 0 ∨ Config.hostClassLimit ≤ s.classBuffers .hostRead := by
  rcases q.takeFrame with h0 | ⟨_, _, _, _, _, _, _, _, _, _, _, _, _, _, hfull | hroom⟩
  · exact absurd h0 h
  · exact .inl ((freeBuffer_eq_none_iff s).mp hfull)
  · simp only [State.hostRoom] at hroom
    omega

theorem Quiet.issueWaits {c : DownCmd} {rest : List DownCmd} (h : s.drive.issueOrder = c :: rest) :
    (∀ d, s.drive.link ≠ .asleep d)
      ∧ (s.drive.link = .ready → s.drive.inbox = [] → s.drive.sending = none →
          c.tag = none ∧ ∃ x ∈ s.drive.outstanding, x.tag ≠ none) := by
  refine ⟨?_, fun hl hi hs => ?_⟩
  · rcases q.wakeDrive with h0 | hd
    · rw [h] at h0; cases h0
    · exact hd
  · have := q.sendCommand c rest hl h
    simpa [State.linkFree, hi, hs, Option.ne_none_iff_exists'] using this

theorem Quiet.noSector {c : DownCmd} (hc : c ∈ s.drive.outstanding) {i : Nat} (hi : i < Config.bufferCount)
    (hl : s.drive.link = .ready) (hin : s.drive.inbox = []) (hs : s.drive.sending = none) (hop : c.op = .write)
    (hb : c.broken = false) (hasked : c.passed < c.asked) :
    ¬ ((s.buffer i).state = .done ∧ (s.buffer i).owner = c.owner ∧ (s.buffer i).lba = c.host + c.passed) := by
  rintro ⟨hdone, howner, hlba⟩
  have := q.sendSector (by simp [hl, hin])
  simp only [State.sendable, hs, List.findSome?_eq_none_iff, Option.map_eq_none_iff] at this
  have := this c hc
  simp only [State.nextSector, hop, hb, hasked, beq_self_eq_true, Bool.not_false, decide_true, Bool.and_true, cond_true,
    bufferOf_eq_none_iff] at this
  exact this i hi ⟨howner, hlba, by simp [hdone]⟩

theorem Quiet.portWaits (h : s.sys.link = .notReady) : s.sys.loading = true ∨ s.drive.link ≠ .ready := by
  have := q.systemPortReady
  by_cases hl : s.sys.loading = true <;> simp_all

theorem Quiet.asleepIdle {d : Depth} (h : s.sys.link = .asleep d) :
    s.sys.sendOrder = [] ∧ ∀ r ∈ s.tracker.records, s.exchangeReady r = false := by
  have := q.wakeSystem d h
  simpa using this

end

/-- Settles O4: each clause is the condition of one internal step, read in the manual's terms. -/
theorem atRestNothingDue : Obligations.AtRestNothingDue := by
  intro s h
  have q : Quiet s := (internalStep_eq_none_iff s).mp h
  refine ⟨fun i hi => q.noPending hi, fun k x hx => ⟨q.drained hx, q.awaiting hx, q.ordered hx, q.overrunning hx,
      q.recordWaits hx⟩, fun ht t => ?_, fun r hr hm => ?_, fun j rest => q.jobWaits, q.inboxHeld, fun c rest => q.issueWaits,
    fun c hc i hi => q.noSector hc hi, q.portWaits, fun d => q.asleepIdle⟩
  · exact (freePartTag_eq_none_iff s).mp (q.tagwaitGrant.resolve_left ht) t
  · have := q.requestMet r hr
    simpa [hm] using this

end Sys2Proof.Machine
end

section
/-! SUPPORT. What every command leaves of the region definitions, the rings' shapes and the slots' generations. -/

namespace Sys2Proof.Machine

/-! ## The three frames -/

/-- Every entry keeps its definitions, or has its pending definition applied. -/
def EntriesKept (s t : State) : Prop := ∀ i, EntrySettled (s.entry i) (t.entry i)

/-- Every ring keeps its base, span and trail. -/
def ShapesKept (s t : State) : Prop :=
  ∀ r, (t.ring r).base = (s.ring r).base ∧ (t.ring r).span = (s.ring r).span ∧ (t.ring r).trail = (s.ring r).trail

/-- Every slot keeps its generation. -/
def GenerationsKept (s t : State) : Prop := ∀ i, (t.slot i).generation = (s.slot i).generation

/-- All three frames. -/
def MapFrame (s t : State) : Prop := EntriesKept s t ∧ ShapesKept s t ∧ GenerationsKept s t

theorem EntriesKept.trans {s t u : State} (h : EntriesKept s t) (k : EntriesKept t u) : EntriesKept s u :=
  fun i => (h i).trans (k i)

theorem ShapesKept.trans {s t u : State} (h : ShapesKept s t) (k : ShapesKept t u) : ShapesKept s u := fun r =>
  ⟨(k r).1.trans (h r).1, (k r).2.1.trans (h r).2.1, (k r).2.2.trans (h r).2.2⟩

theorem GenerationsKept.trans {s t u : State} (h : GenerationsKept s t) (k : GenerationsKept t u) : GenerationsKept s u :=
  fun i => (k i).trans (h i)

theorem MapFrame.trans {s t u : State} (h : MapFrame s t) (k : MapFrame t u) : MapFrame s u :=
  ⟨h.1.trans k.1, h.2.1.trans k.2.1, h.2.2.trans k.2.2⟩

theorem EntriesKept.of_eq {s t : State} (h : t.regions.entries = s.regions.entries) : EntriesKept s t := fun i => by
  have : t.entry i = s.entry i := by simp only [State.entry, h]
  rw [this]
  exact .refl _

theorem ShapesKept.of_eq {s t : State} (h : t.rings = s.rings) : ShapesKept s t := fun r => by
  simp only [State.ring, h, and_self]

theorem GenerationsKept.of_eq {s t : State} (h : t.keys.slots = s.keys.slots) : GenerationsKept s t := fun i => by
  simp only [State.slot, h]

/-- A change of none of the three tables. -/
theorem MapFrame.of_eq {s t : State} (he : t.regions.entries = s.regions.entries) (hr : t.rings = s.rings)
    (hk : t.keys.slots = s.keys.slots) : MapFrame s t := ⟨.of_eq he, .of_eq hr, .of_eq hk⟩

theorem MapFrame.refl (s : State) : MapFrame s s := .of_eq rfl rfl rfl

theorem MapFrame.of_settled {s t : State} (h : Settled s t) : MapFrame s t :=
  ⟨h.entries, fun r => ⟨(h.rings r).base, (h.rings r).span, (h.rings r).trail⟩, fun i => by simp only [State.slot, h.slots]⟩

theorem MapFrame.settle {s u : State} (h : MapFrame s u) : MapFrame s (settle u) := h.trans (.of_settled (settle_settled u))

theorem MapFrame.cond {s x y : State} (b : Bool) (hx : MapFrame s x) (hy : MapFrame s y) :
    MapFrame s (bif b then x else y) := by
  cases b <;> assumption

/-- A command that takes a step where it is due, and settles. -/
theorem MapFrame.settle_getD {s : State} {o : Option State} (h : ∀ t, o = some t → MapFrame s t) :
    MapFrame s (Sys2Proof.Machine.settle (o.getD s)) := by
  cases o with
  | none => exact (MapFrame.refl s).settle
  | some t => exact (h t rfl).settle

theorem MapFrame.foldl {α : Type} (f : State → α → State) (hf : ∀ s a, MapFrame s (f s a)) (l : List α) (s : State) :
    MapFrame s (l.foldl f s) := by
  induction l generalizing s with
  | nil => exact .refl s
  | cons a l ih => exact (hf s a).trans (ih (f s a))

/-! ## Changes of one table -/

/-- A change of the ring table that keeps every shape. -/
theorem ShapesKept.of_map {s t : State} (f : Ring → Ring) (h : t.rings = mapVector f s.rings)
    (hf : ∀ q, (f q).base = q.base ∧ (f q).span = q.span ∧ (f q).trail = q.trail) : ShapesKept s t := by
  intro r
  have : t.ring r = if r < 4 then f (s.ring r) else Ring.unshaped := by
    rw [State.ring, h, mapVector_eq_map, vector_getD_map_eq]
    rfl
  by_cases hr : r < 4
  · rw [this, if_pos hr]; exact hf _
  · rw [this, if_neg hr, ring_of_le s (Nat.not_lt.mp hr)]; exact ⟨rfl, rfl, rfl⟩

/-- A change of one ring that keeps its shape. -/
theorem mapFrame_mapRing (r : Nat) (f : Ring → Ring) (s : State)
    (hf : (f (s.ring r)).base = (s.ring r).base ∧ (f (s.ring r)).span = (s.ring r).span
      ∧ (f (s.ring r)).trail = (s.ring r).trail) : MapFrame s (mapRing r f s) := by
  refine ⟨.of_eq rfl, fun q => ?_, .of_eq rfl⟩
  rw [ring_mapRing]
  split
  · rename_i h; rw [h.1]; exact hf
  · exact ⟨rfl, rfl, rfl⟩

/-- A change of the slot table that keeps every generation. -/
theorem GenerationsKept.of_map {s t : State} (f : Slot → Slot) (h : t.keys.slots = mapVector f s.keys.slots)
    (hf : ∀ x, (f x).generation = x.generation) : GenerationsKept s t := by
  intro i
  have : t.slot i = if i < 16 then f (s.slot i) else Slot.blank := by
    rw [State.slot, h, mapVector_eq_map, vector_getD_map_eq]
    rfl
  by_cases hi : i < 16
  · rw [this, if_pos hi]; exact hf _
  · rw [this, if_neg hi, slot_of_le s (Nat.not_lt.mp hi)]

/-- A change of one slot that keeps its generation. -/
theorem mapFrame_setSlot (i : Nat) (x : Slot) (s : State) (hx : x.generation = (s.slot i).generation) :
    MapFrame s (setSlot i x s) := by
  refine ⟨.of_eq rfl, .of_eq rfl, fun j => ?_⟩
  rw [slot_setSlot]
  split
  · rename_i h; rw [h.1]; exact hx
  · rfl

theorem expire_generation (x : Slot) : x.expire.generation = x.generation := by
  unfold Slot.expire
  split <;> rfl

theorem mapFrame_expireSlots (minute : Nat) (s : State) : MapFrame s (expireSlots minute s) := by
  refine MapFrame.trans ?_ (.of_settled (settled_latchIf _ _ _))
  exact ⟨.of_eq rfl, .of_eq rfl, .of_map _ rfl fun x => by cases x.overdue minute <;> simp [expire_generation]⟩

theorem mapFrame_setClock (c : Clock) (s : State) : MapFrame s (setClock c s) := .of_eq rfl rfl rfl

theorem mapFrame_countSecond (s : State) : MapFrame s (countSecond s) := by
  unfold countSecond
  dsimp only
  split
  · exact mapFrame_setClock _ s
  · split
    · exact (mapFrame_setClock _ s).trans (mapFrame_expireSlots _ _)
    · exact mapFrame_setClock _ s

theorem mapFrame_countCycle (s : State) : MapFrame s (countCycle s) := by
  unfold countCycle
  dsimp only
  cases s.clock.carries
  · exact mapFrame_setClock _ s
  · exact (mapFrame_setClock _ s).trans (mapFrame_countSecond _)

/-! ## Resets, links and Lockdown -/

theorem mapFrame_abandonWork (s : State) : MapFrame s (abandonWork s) := by
  have h1 : MapFrame s (clearDisk s) := .of_settled (settled_drive _ s rfl)
  have h2 : ∀ u : State, MapFrame u (u.tracker.records.foldl giveUp u) := fun u => MapFrame.foldl _ (fun v r =>
    .of_settled (Settled.after (settled_releaseOwner _ _) (Settled.after (settled_usersDown _ _) (settled_countDown _ v)))) _ u
  have h3 : ∀ u : State, MapFrame u (mapRings (fun q => { q with accesses := [] }) u) := fun u =>
    ⟨.of_eq rfl, .of_map _ rfl fun _ => ⟨rfl, rfl, rfl⟩, .of_eq rfl⟩
  have h4 : ∀ u : State, MapFrame u (clearTables (freeHostUsers (removeDown (fun c => c.user.isHost) u))) := fun u =>
    .of_eq rfl rfl rfl
  exact (h1.trans ((h2 _).trans ((h3 _).trans (h4 _)))).trans (.of_settled (settled_dropChunk _))

theorem mapFrame_resetDownstream (s : State) : MapFrame s (resetDownstream s) :=
  .cond _ (.refl s) (.of_eq rfl rfl rfl)

/-- Steps 1, 2 and 4 of R88, with the System Port's link. -/
theorem mapFrame_linkGone (l : SysLink) (s : State) : MapFrame s (setSysLink l (resetDownstream (abandonWork s))) :=
  ((mapFrame_abandonWork s).trans (mapFrame_resetDownstream _)).trans (.of_eq rfl rfl rfl)

theorem mapFrame_lineResetBlocks (s : State) : MapFrame s (lineResetBlocks s) := by
  refine ⟨fun i => ?_, .of_map _ rfl fun _ => ⟨rfl, rfl, rfl⟩, .of_eq rfl⟩
  have : (lineResetBlocks s).entry i = if i < 64 then { s.entry i with inFlight := 0 } else RegionEntry.vacant := by
    simp only [State.entry, lineResetBlocks, clearTables, setMissList_regions, setDrain_regions_entries, mapVector_eq_map,
      vector_getD_map_eq]
  by_cases hi : i < 64
  · rw [this, if_pos hi]; exact .inl ⟨rfl, rfl⟩
  · rw [this, if_neg hi, entry_of_le s (Nat.not_lt.mp hi)]; exact .refl _

theorem mapFrame_loseDisk (l : DriveLink) (s : State) : MapFrame s (loseDisk l s) := by
  have h1 : MapFrame s (clearDisk s) := .of_settled (settled_drive _ s rfl)
  have h2 : ∀ u : State, MapFrame u (failLost u) := fun u => MapFrame.foldl _ (fun v c =>
    MapFrame.trans (t := { v with fresh := v.fresh + 1 }) (.of_eq rfl rfl rfl) (.of_settled (settled_endDown _ _ _))) _ u
  exact ((h1.trans (h2 _)).trans (MapFrame.of_eq (t := setDriveLink l _) rfl rfl rfl)).settle

theorem mapFrame_enterLockdown (s : State) : MapFrame s (enterLockdown s) := by
  have h1 : MapFrame s { s with keys := s.keys.locked } := ⟨.of_eq rfl, .of_eq rfl, .of_map _ rfl fun _ => rfl⟩
  have h2 : ∀ (l : List RecordKey) (u : State), MapFrame u (l.foldl (fun s k => refuse k .locked s) u) := fun l u =>
    .of_settled (Settled.foldl _ (fun _ _ => settled_refuse _ _ _) l u)
  have h3 : ∀ u : State, MapFrame u (mapRings Ring.closed u) := fun u =>
    ⟨.of_eq rfl, .of_map _ rfl fun q => by unfold Ring.closed; cases q.live <;> exact ⟨rfl, rfl, rfl⟩, .of_eq rfl⟩
  exact (h1.trans ((h2 _ _).trans (h3 _))).trans (.of_settled (Settled.after (settled_latch _ _) (settled_stopJobs _ _ _)))

theorem mapFrame_lockdownFound (s : State) : MapFrame s (lockdownFound s) :=
  .cond _ (.of_eq rfl rfl rfl) (.cond _ (.refl s) (mapFrame_enterLockdown s).settle)

theorem mapFrame_endLoad (r : ProfileRead) (s : State) : MapFrame s (endLoad r s) := by
  refine .cond _ (MapFrame.settle ?_) (.refl s)
  have h : MapFrame s (latchIf ((profileOf r).result != .good) .profileFault (takeProfile (profileOf r) s)) :=
    MapFrame.trans (t := takeProfile (profileOf r) s) (.of_eq rfl rfl rfl) (.of_settled (settled_latchIf _ _ _))
  exact .cond _ (h.trans (mapFrame_enterLockdown _)) h

/-! ## Host commands, disk frames and data -/

theorem mapFrame_arrive (tag : Option Nat) (unsupported : Bool) (kind : HostKind) (host count : Nat) (frame : List Byte)
    (s : State) : MapFrame s (arrive tag unsupported kind host count frame s) := by
  unfold arrive
  split
  · refine MapFrame.settle (MapFrame.trans (t := closeGate s) (.of_eq rfl rfl rfl) ?_)
    unfold takeArrival
    split
    · exact .of_settled (settled_sendOrder _ _)
    · exact MapFrame.trans (t := addRecord _ _ _ _ _ (closeGate s)) (.of_eq rfl rfl rfl) (.of_settled (settled_startSteps _ _))
  · exact .of_eq rfl rfl rfl
  · exact .refl s
  · exact .refl s

theorem settled_takeOne (f : DiskFrame) (rest : List DiskFrame) (s t : State) (h : takeOne f rest s = some t) :
    Settled s t := by
  unfold takeOne at h
  split at h
  · exact settled_takeData _ _ _ _ _ _ h
  · cases h; exact Settled.after (settled_takeWriteRequest _ _ _) (settled_setInbox _ _)
  · cases h; exact Settled.after (settled_takeEnd _ _ _ _ _) (settled_setInbox _ _)
  · cases h; exact Settled.after (settled_failAll _ _) (settled_setInbox _ _)

theorem settled_frameArrives (f : DiskFrame) (s : State) : Settled s (frameArrives f s) := by
  unfold frameArrives
  split
  · cases h : takeOne f [] s with
    | none => exact settled_setInbox _ s
    | some t => exact settled_takeOne f [] s t h
  · exact settled_setInbox _ s

theorem mapFrame_diskFrame (f : DiskFrame) (s : State) : MapFrame s (diskFrame f s) :=
  .cond _ (MapFrame.of_settled (settled_frameArrives f s)).settle (.refl s)

theorem mapFrame_keepEnd (op : DownOp) (good : Bool) (error : Byte) (lba : Nat) (s : State) :
    MapFrame s (keepEnd op good error lba s) := by
  unfold keepEnd
  split
  · exact mapFrame_diskFrame _ s
  · exact .refl s

theorem settled_fillInvited (i : Nat) (data : Sector) (s : State) : Settled s (fillInvited i data s) := by
  unfold fillInvited
  refine Settled.cond _ (settled_releaseBuffer i s) ?_
  split
  · exact Settled.after (settled_joinQueue _ _ _) (settled_setBuffer _ _ _)
  · exact settled_setBuffer _ _ _

theorem mapFrame_takeWriteData {k : RecordKey} {data : Sector} {s t : State} (h : takeWriteData? k data s = some t) :
    MapFrame s t := by
  unfold takeWriteData? at h
  split at h
  · cases h
    exact .of_settled (Settled.after (settled_fillInvited _ _ _) (settled_record _ _ _ fun _ => rfl))
  · cases h

theorem settled_placeInvited (r : Record) (l : List Nat) (lba : Nat) (s : State) : Settled s (placeInvited r lba l s) := by
  induction l generalizing lba s with
  | nil => exact .refl s
  | cons i rest ih => exact Settled.after (ih _ _) (settled_setBuffer _ _ _)

theorem MapFrame.setLastServed {s u : State} (n : Nat) (h : MapFrame s u) :
    MapFrame s (Sys2Proof.Machine.setLastServed n u) := h.trans (.of_eq rfl rfl rfl)

theorem mapFrame_invite (r : Record) (q : WriteRequest) (s : State) : MapFrame s (invite r q s) :=
  .setLastServed _ (.of_settled (Settled.after (settled_emitUp _ _) (Settled.after (settled_record _ _ _ fun _ => rfl)
    (settled_placeInvited r _ _ s))))

theorem mapFrame_writeRequest {s t : State} (h : writeRequest? s = some t) : MapFrame s t := by
  unfold writeRequest? at h
  split at h
  · split at h
    · dsimp only [cond] at h
      split at h <;> cases h
      exact mapFrame_invite _ _ s
    · cases h
  · cases h

theorem mapFrame_deliver (r : Record) (s : State) : MapFrame s (deliver r s) :=
  .setLastServed _ (.of_settled (Settled.after (Settled.foldl _ (fun _ _ => settled_releaseBuffer _ _) _ _)
    (Settled.after (settled_record _ _ _ fun _ => rfl) (settled_emitUp _ s))))

theorem mapFrame_readBurst {s t : State} (h : readBurst? s = some t) : MapFrame s t := by
  unfold readBurst? at h
  split at h
  · dsimp only [cond] at h
    split at h <;> cases h
    exact mapFrame_deliver _ s
  · cases h

theorem mapFrame_retire (r : Record) (s : State) : MapFrame s (retire r s) := by
  have h1 : MapFrame s (usersDown r.rings (countDown r.counted s)) :=
    .of_settled (Settled.after (settled_usersDown _ _) (settled_countDown _ s))
  exact h1.trans ⟨.of_eq rfl, .of_map _ rfl fun _ => ⟨rfl, rfl, rfl⟩, .of_eq rfl⟩

theorem mapFrame_completion {s t : State} (h : completion? s = some t) : MapFrame s t := by
  have sent : ∀ (x : UpItem) (l : List DueItem), MapFrame s (emitUp x { s with sys := { s.sys with sendOrder := l } }) :=
    fun _ _ => .of_eq rfl rfl rfl
  unfold completion? at h
  dsimp only [cond] at h
  split at h
  · cases h
  · split at h
    · cases h
    · cases h; exact sent _ _
    · split at h
      · cases h
      · split at h
        · cases h
        · cases h; exact (sent _ _).trans (mapFrame_retire _ _)

theorem mapFrame_grantSector (c : Choice) (i : Nat) (s : State) : MapFrame s (grantSector c i s) := by
  have h : MapFrame s (withdrawFromQueues i (countGrant c s)) := .of_eq rfl rfl rfl
  unfold grantSector
  dsimp only
  split
  · exact h.trans (.of_eq rfl rfl rfl)
  · exact h.trans (.of_eq rfl rfl rfl)
  · split
    · exact h.trans (.of_eq rfl rfl rfl)
    · exact h.trans (.of_settled (settled_stopActive _ _))

theorem mapFrame_grantStart {s t : State} (h : grantStart? s = some t) : MapFrame s t := by
  unfold grantStart? at h
  split at h
  · split at h <;> cases h
    exact mapFrame_grantSector _ _ s
  · cases h

theorem settled_noteLost (b : Buffer) (lost : Option LostReason) (s : State) : Settled s (noteLost b lost s) := by
  unfold noteLost
  split
  · refine settled_record _ _ _ fun r => ?_
    unfold Record.noteLost
    dsimp only [cond]
    split
    · rfl
    · split
      · split <;> rfl
      · rfl
  · exact .refl s

theorem mapFrame_endGrant (g : Grant) (s : State) : MapFrame s (endGrant g s) := by
  have h : MapFrame s { s with engine := { s.engine with grant := none } } := .of_eq rfl rfl rfl
  unfold endGrant
  dsimp only
  split
  · exact h
  · split
    · exact h.trans (.of_settled (Settled.after (settled_noteLost _ _ _) (settled_mapBuffer _ _ _)))
    · exact h.trans (.of_settled (settled_releaseNow _ _))
    · exact h.trans (.of_settled (settled_joinQueue _ _ _))

theorem settledBy_keywaitExpired (k : RecordKey) : SettledBy (keywaitExpired? k) := by
  intro s t h
  unfold keywaitExpired? at h
  dsimp only [cond] at h
  split at h <;> cases h
  exact settled_refuseKey _ _ _

theorem settledBy_overrunExpired (k : RecordKey) : SettledBy (overrunExpired? k) := by
  intro s t h
  unfold overrunExpired? at h
  split at h
  · cases h
  · dsimp only [cond] at h
    split at h <;> cases h
    exact Settled.after (settled_record _ _ _ fun _ => rfl) (Settled.foldl _ (fun _ _ => settled_truncateJob _ _) _ _)

/-! ## Link power -/

theorem mapFrame_lowPowerAsked (d : Depth) (s : State) : MapFrame s (lowPowerAsked d s) := by
  unfold lowPowerAsked
  split
  · exact .refl s
  · exact .refl s
  · exact .cond _ (.of_eq rfl rfl rfl) (.of_eq rfl rfl rfl)

theorem mapFrame_carryLowPower (s : State) : MapFrame s (carryLowPower s) := by
  unfold carryLowPower
  split
  · exact .cond _ (.of_eq rfl rfl rfl) (.refl s)
  · exact .refl s

theorem mapFrame_lowPowerAnswered (accepted : Bool) (s : State) : MapFrame s (lowPowerAnswered accepted s) := by
  unfold lowPowerAnswered
  split
  · exact .cond _ (.of_eq rfl rfl rfl) (.of_eq rfl rfl rfl)
  · exact .refl s

/-! ## Requests -/

/-- A request row either leaves the state, or places a reply over what its owner made of the state. -/
theorem takeRequest_cases (row : RequestRow) (serve : Request → State → State × Answer) (s : State) :
    takeRequest row serve s = s ∨ ∃ f a u, takeRequest row serve s = placeReply f a (settle u)
      ∧ (u = s ∨ ∃ r, u = (serve r s).1) := by
  unfold takeRequest
  split
  · rename_i f _ _
    cases rowOf f == row
    · exact .inl rfl
    · refine .inr ⟨f, _, _, rfl, ?_⟩
      unfold answerFrame
      split
      · exact .inl rfl
      · exact .inl rfl
      · exact .inl rfl
      · exact .inr ⟨_, rfl⟩
  · exact .inl rfl

/-- A relation that settling and the reply keep holds over a request row when it holds over what its owner makes. -/
theorem takeRequest_keeps (p : State → Prop) {row : RequestRow} {serve : Request → State → State × Answer} {s : State}
    (here : p s) (closed : ∀ f a u, p u → p (placeReply f a (settle u))) (h : ∀ r, p (serve r s).1) :
    p (takeRequest row serve s) := by
  rcases takeRequest_cases row serve s with he | ⟨f, a, u, he, hu⟩
  · rwa [he]
  · rw [he]
    refine closed f a u ?_
    rcases hu with rfl | ⟨r, rfl⟩
    · exact here
    · exact h r

theorem mapFrame_reply (f : List Byte) (a : Answer) (u : State) : MapFrame u (placeReply f a (settle u)) :=
  (MapFrame.refl u).settle.trans (.of_eq rfl rfl rfl)

theorem mapFrame_takeRequest {row : RequestRow} {serve : Request → State → State × Answer} {s : State}
    (h : ∀ r, MapFrame s (serve r s).1) : MapFrame s (takeRequest row serve s) :=
  takeRequest_keeps (MapFrame s) (.refl s) (fun f a u hu => hu.trans (mapFrame_reply f a u)) h

theorem mapFrame_serveSetClock (r : Request) (s : State) : MapFrame s (serveSetClock r s).1 := by
  unfold serveSetClock
  split
  · unfold setClockTo
    dsimp only [cond]
    split
    · exact mapFrame_setClock _ _
    · split
      · exact .refl s
      · split
        · exact .refl s
        · exact (mapFrame_setClock _ _).trans (mapFrame_expireSlots _ _)
  · exact .refl s

theorem mapFrame_serveTrimClock (r : Request) (s : State) : MapFrame s (serveTrimClock r s).1 := by
  unfold serveTrimClock
  split
  · exact mapFrame_setClock _ s
  · exact .refl s

theorem mapFrame_serveDropKey (r : Request) (s : State) : MapFrame s (serveDropKey r s).1 := by
  unfold serveDropKey
  split
  · unfold dropKeyOf
    split
    · exact .refl s
    · split
      · exact .refl s
      · rename_i h
        exact mapFrame_setSlot _ _ s (by rw [(slotOf_eq_some h).2.1]; rfl)
  · exact .refl s

theorem withDeadline_generation (d : Option Nat) (x : Slot) : (x.withDeadline d).generation = x.generation := by
  unfold Slot.withDeadline
  split <;> rfl

theorem mapFrame_giveDeadline (i : Nat) (d : Option Nat) (s : State) : MapFrame s (giveDeadline i (s.slot i) d s).1 := by
  unfold giveDeadline
  dsimp only [cond]
  split
  · refine MapFrame.trans (mapFrame_setSlot i _ s ?_) (.of_settled (settled_latch _ _))
    rw [expire_generation, withDeadline_generation]
  · exact mapFrame_setSlot i _ s (withDeadline_generation _ _)

theorem mapFrame_serveSetDeadline (r : Request) (s : State) : MapFrame s (serveSetDeadline r s).1 := by
  unfold serveSetDeadline
  split
  · unfold setDeadlineOf
    split
    · exact .refl s
    · split
      · exact .refl s
      · rename_i h
        obtain ⟨-, hx, -⟩ := slotOf_eq_some h
        subst hx
        split
        · dsimp only [cond]
          split
          · exact .refl s
          · exact mapFrame_giveDeadline _ _ s
        · exact .refl s
  · exact .refl s

theorem mapFrame_serveOpenRing (r : Request) (s : State) : MapFrame s (serveOpenRing r s).1 := by
  unfold serveOpenRing
  split
  · unfold openRingAt
    dsimp only [cond]
    repeat' split
    all_goals first | exact .refl s | exact mapFrame_mapRing _ _ s ⟨rfl, rfl, rfl⟩
  · exact .refl s

theorem mapFrame_switchLive (r : Nat) (id : ProgId) (s : State) : MapFrame s (switchLive r id s).1 := by
  unfold switchLive switched
  dsimp only [cond]
  split
  · exact mapFrame_mapRing _ _ s ⟨rfl, rfl, rfl⟩
  · split
    · exact mapFrame_mapRing _ _ s ⟨rfl, rfl, rfl⟩
    · split
      · split
        · exact .refl s
        · exact MapFrame.trans (.of_settled (settled_latch _ s)) (mapFrame_mapRing _ _ _ ⟨rfl, rfl, rfl⟩)
      · exact .refl s

theorem mapFrame_serveSwitchRing (r : Request) (s : State) : MapFrame s (serveSwitchRing r s).1 := by
  unfold serveSwitchRing
  split
  · unfold switchRingTo
    dsimp only [cond]
    split
    · exact .refl s
    · split
      · exact .refl s
      · exact mapFrame_switchLive _ _ s
  · exact .refl s

theorem mapFrame_serveCloseRing (r : Request) (s : State) : MapFrame s (serveCloseRing r s).1 := by
  unfold serveCloseRing
  split
  · unfold closeRingOf
    dsimp only [cond]
    split
    · exact .refl s
    · split
      · exact .refl s
      · refine MapFrame.trans (mapFrame_mapRing _ _ s ?_) (.of_settled (settled_stopJobs _ _ _))
        unfold Ring.closed
        cases (s.ring _).live <;> exact ⟨rfl, rfl, rfl⟩
  · exact .refl s

theorem mapFrame_serveSubmitKeep (r : Request) (s : State) : MapFrame s (serveSubmitKeep r s).1 := by
  unfold serveSubmitKeep
  split
  · unfold submitKeepOf
    split
    · exact .refl s
    · split
      · exact .refl s
      · split
        · exact .refl s
        · exact .of_eq rfl rfl rfl
  · exact .refl s

theorem mapFrame_serveCancelKeep (r : Request) (s : State) : MapFrame s (serveCancelKeep r s).1 := by
  unfold serveCancelKeep
  split
  · unfold cancelKeepOf
    dsimp only [cond]
    split
    · exact .refl s
    · split
      · exact .refl s
      · exact .of_settled (settled_stopJob _ s _)
  · exact .refl s

theorem mapFrame_serveClearAlerts (r : Request) (s : State) : MapFrame s (serveClearAlerts r s).1 := by
  unfold serveClearAlerts
  split
  · unfold clearAlertsOf
    cases AlertSet.beyond _ <;> exact .of_eq rfl rfl rfl
  · exact .refl s

theorem mapFrame_serveMaskAlerts (r : Request) (s : State) : MapFrame s (serveMaskAlerts r s).1 := by
  unfold serveMaskAlerts
  split
  · unfold maskAlertsTo
    cases AlertSet.beyond _ <;> exact .of_eq rfl rfl rfl
  · exact .refl s

/-- What READ STATUS serves, row by row. -/
def statusServers : List (Request → State → State × Answer) :=
  [serveStatusAlerts, serveStatusClock, serveStatusKeyTable, serveStatusRegion, serveStatusRing, serveStatusKeepQueue,
    serveStatusOutcomes, serveStatusMissList, serveStatusProfile]

/-- No report changes the part (R169). -/
theorem statusServers_unchanged (r : Request) (s : State) : ∀ serve ∈ statusServers, (serve r s).1 = s := by
  have choice : ∀ (p : Prop) [Decidable p] (x y : Answer), (if p then (s, x) else (s, y)).1 = s := fun p _ x y => by
    split <;> rfl
  cases r
  case readStatus selector index =>
    cases selector <;> simp [statusServers, serveStatusAlerts, serveStatusClock, serveStatusKeyTable, serveStatusRegion,
      serveStatusRing, serveStatusKeepQueue, serveStatusOutcomes, serveStatusMissList, serveStatusProfile, done, refused, choice]
  all_goals
    simp [statusServers, serveStatusAlerts, serveStatusClock, serveStatusKeyTable, serveStatusRegion, serveStatusRing,
      serveStatusKeepQueue, serveStatusOutcomes, serveStatusMissList, serveStatusProfile, refused]

theorem mapFrame_status {row : RequestRow} {serve : Request → State → State × Answer} (s : State)
    (h : serve ∈ statusServers) : MapFrame s (takeRequest row serve s) :=
  mapFrame_takeRequest fun r => by rw [statusServers_unchanged r s serve h]; exact .refl s

/-! ## The requests that change a definition, a shape or a generation -/

/-- Both tables that PUT REGION and FREE REGION leave alone. -/
theorem rings_and_slots_takeRequest {row : RequestRow} {serve : Request → State → State × Answer} {s : State}
    (hr : ∀ r, (serve r s).1.rings = s.rings) (hk : ∀ r, (serve r s).1.keys = s.keys) :
    ShapesKept s (takeRequest row serve s) ∧ GenerationsKept s (takeRequest row serve s) :=
  takeRequest_keeps (fun t => ShapesKept s t ∧ GenerationsKept s t) (And.intro (.of_eq rfl) (.of_eq rfl))
    (fun f a u hu => And.intro (hu.1.trans (mapFrame_reply f a u).2.1) (hu.2.trans (mapFrame_reply f a u).2.2))
    fun r => And.intro (.of_eq (hr r)) (.of_eq (by rw [hk]))

theorem putNow_rings_keys (i : Nat) (d : RawDefinition) (s : State) :
    (putNow i d s).1.rings = s.rings ∧ (putNow i d s).1.keys = s.keys := by
  unfold putNow
  split <;> exact ⟨rfl, rfl⟩

theorem putBoundary_rings_keys (i : Nat) (d : RawDefinition) (s : State) :
    (putBoundary i d s).1.rings = s.rings ∧ (putBoundary i d s).1.keys = s.keys := by
  unfold putBoundary
  split
  · exact ⟨rfl, rfl⟩
  · split <;> exact ⟨rfl, rfl⟩

theorem freeNow_rings_keys (i : Nat) (s : State) :
    (freeNow i s).1.rings = s.rings ∧ (freeNow i s).1.keys = s.keys := by
  unfold freeNow
  split <;> exact ⟨rfl, rfl⟩

theorem freeBoundary_rings_keys (i : Nat) (s : State) :
    (freeBoundary i s).1.rings = s.rings ∧ (freeBoundary i s).1.keys = s.keys := by
  unfold freeBoundary
  split
  · exact ⟨rfl, rfl⟩
  · dsimp only [cond]
    split
    · exact ⟨rfl, rfl⟩
    · split <;> exact ⟨rfl, rfl⟩

theorem servePutNow_rings_keys (r : Request) (s : State) :
    (servePutNow r s).1.rings = s.rings ∧ (servePutNow r s).1.keys = s.keys := by
  unfold servePutNow
  split
  · exact putNow_rings_keys _ _ s
  · exact ⟨rfl, rfl⟩

theorem servePutBoundary_rings_keys (r : Request) (s : State) :
    (servePutBoundary r s).1.rings = s.rings ∧ (servePutBoundary r s).1.keys = s.keys := by
  unfold servePutBoundary
  split
  · exact putBoundary_rings_keys _ _ s
  · exact ⟨rfl, rfl⟩

theorem serveFreeNow_rings_keys (r : Request) (s : State) :
    (serveFreeNow r s).1.rings = s.rings ∧ (serveFreeNow r s).1.keys = s.keys := by
  unfold serveFreeNow
  split
  · exact freeNow_rings_keys _ s
  · exact ⟨rfl, rfl⟩

theorem serveFreeBoundary_rings_keys (r : Request) (s : State) :
    (serveFreeBoundary r s).1.rings = s.rings ∧ (serveFreeBoundary r s).1.keys = s.keys := by
  unfold serveFreeBoundary
  split
  · exact freeBoundary_rings_keys _ s
  · exact ⟨rfl, rfl⟩

theorem shapeRingTo_regions_keys (r pb p w : Nat) (s : State) :
    (shapeRingTo r pb p w s).1.regions = s.regions ∧ (shapeRingTo r pb p w s).1.keys = s.keys := by
  unfold shapeRingTo
  dsimp only [cond]
  repeat' split
  all_goals exact ⟨rfl, rfl⟩

theorem entries_and_slots_shapeRing (s : State) :
    EntriesKept s (takeRequest .shapeRing serveShapeRing s) ∧ GenerationsKept s (takeRequest .shapeRing serveShapeRing s) := by
  refine takeRequest_keeps (fun t => EntriesKept s t ∧ GenerationsKept s t) (And.intro (.of_eq rfl) (.of_eq rfl))
    (fun f a u hu => And.intro (hu.1.trans (mapFrame_reply f a u).1) (hu.2.trans (mapFrame_reply f a u).2.2)) fun r => ?_
  unfold serveShapeRing
  split
  · obtain ⟨hr, hk⟩ := shapeRingTo_regions_keys _ _ _ _ s
    exact And.intro (.of_eq (congrArg RegionMap.entries hr)) (.of_eq (congrArg KeyTable.slots hk))
  · exact And.intro (.of_eq rfl) (.of_eq rfl)

/-- Every slot keeps its generation, but one that was Empty holds a key now, under the next generation (R27). -/
def GenerationsLoaded (s t : State) : Prop :=
  ∀ i, (t.slot i).generation = (s.slot i).generation
    ∨ (s.slot i).content = .empty ∧ (∃ id key cls d, (t.slot i).content = .live id key cls d)
      ∧ (t.slot i).generation = (s.slot i).generation + 1#8

theorem emptySlot_eq_some {s : State} {i : Nat} (h : s.emptySlot = some i) :
    i < Config.slotCount ∧ (s.slot i).content = .empty := by
  unfold State.emptySlot at h
  obtain ⟨⟨x, j⟩, hf, rfl⟩ := Option.map_eq_some_iff.mp h
  rw [slots_zipIdx] at hf
  obtain ⟨k, hk, hy, hp, _⟩ := find?_map_range_eq_some _ _ _ hf
  cases hy
  exact ⟨hk, by simpa using hp⟩

theorem generationsLoaded_setSlot {s : State} {i : Nat} (hi : (s.slot i).content = .empty) (id : ProgId) (key : Key)
    (cls : KeepClass) (d : Option Nat) : GenerationsLoaded s (setSlot i ((s.slot i).loaded id key cls d) s) := by
  intro j
  rw [slot_setSlot]
  split
  · rename_i hj
    rw [hj.1]
    exact .inr ⟨hi, ⟨_, _, _, _, rfl⟩, rfl⟩
  · exact .inl rfl

theorem generationsLoaded_loadKeyInto (id : ProgId) (key : Key) (cls : Byte) (d : Option Nat) (s : State) :
    GenerationsLoaded s (loadKeyInto id key cls d s).1 := by
  have same : GenerationsLoaded s s := fun _ => .inl rfl
  unfold loadKeyInto
  dsimp only [cond]
  split
  · exact same
  · split
    · exact same
    · split
      · exact same
      · split
        · exact same
        · split
          · exact same
          · rename_i i hi
            split
            · exact same
            · exact generationsLoaded_setSlot (emptySlot_eq_some hi).2 _ _ _ _

theorem loadKeyInto_regions_rings (id : ProgId) (key : Key) (cls : Byte) (d : Option Nat) (s : State) :
    (loadKeyInto id key cls d s).1.regions = s.regions ∧ (loadKeyInto id key cls d s).1.rings = s.rings := by
  unfold loadKeyInto
  dsimp only [cond]
  repeat' split
  all_goals exact ⟨rfl, rfl⟩

theorem frames_loadKey (s : State) :
    EntriesKept s (takeRequest .loadKey serveLoadKey s) ∧ ShapesKept s (takeRequest .loadKey serveLoadKey s)
      ∧ GenerationsLoaded s (takeRequest .loadKey serveLoadKey s) := by
  refine takeRequest_keeps (fun t => EntriesKept s t ∧ ShapesKept s t ∧ GenerationsLoaded s t)
    ⟨.of_eq rfl, .of_eq rfl, fun _ => .inl rfl⟩ (fun f a u ⟨he, hr, hg⟩ => ?_) fun r => ?_
  · obtain ⟨ke, kr, -⟩ := mapFrame_reply f a u
    have hs : ∀ i, (placeReply f a (settle u)).slot i = u.slot i := fun i => by
      show (settle u).keys.slots.getD i Slot.blank = _
      rw [(settle_settled u).slots]
      rfl
    exact ⟨he.trans ke, hr.trans kr, fun i => by rw [hs]; exact hg i⟩
  · unfold serveLoadKey
    split
    · obtain ⟨hr, hk⟩ := loadKeyInto_regions_rings _ _ _ _ s
      exact ⟨.of_eq (congrArg RegionMap.entries hr), .of_eq hk, generationsLoaded_loadKeyInto _ _ _ _ s⟩
    · exact ⟨.of_eq rfl, .of_eq rfl, fun _ => .inl rfl⟩

/-! ## Every command -/

/-- What every command but POWER_ON_RESET leaves of the three tables. -/
theorem exec_frames (c : Instr) {s t : State} (h : exec c s = .next t) (hc : c ≠ .powerOnReset) :
    (c ∉ [Instr.putRegionNow, .putRegionBoundary, .freeRegionNow, .freeRegionBoundary] → EntriesKept s t)
      ∧ (c ≠ .shapeRing → ShapesKept s t) ∧ (GenerationsKept s t ∨ c = .loadKey ∧ GenerationsLoaded s t) := by
  have all : MapFrame s t → (c ∉ [Instr.putRegionNow, .putRegionBoundary, .freeRegionNow, .freeRegionBoundary] →
      EntriesKept s t) ∧ (c ≠ .shapeRing → ShapesKept s t) ∧ (GenerationsKept s t ∨ c = .loadKey ∧ GenerationsLoaded s t) :=
    fun ⟨he, hr, hk⟩ => ⟨fun _ => he, fun _ => hr, .inl hk⟩
  cases c <;> injection h with h <;> subst h
  case powerOnReset => exact absurd rfl hc
  case putRegionNow =>
    have h := rings_and_slots_takeRequest (row := .putRegionNow) (s := s) (fun r => (servePutNow_rings_keys r s).1)
      fun r => (servePutNow_rings_keys r s).2
    exact ⟨fun hn => absurd (by simp) hn, fun _ => h.1, .inl h.2⟩
  case putRegionBoundary =>
    have h := rings_and_slots_takeRequest (row := .putRegionBoundary) (s := s) (fun r => (servePutBoundary_rings_keys r s).1)
      fun r => (servePutBoundary_rings_keys r s).2
    exact ⟨fun hn => absurd (by simp) hn, fun _ => h.1, .inl h.2⟩
  case freeRegionNow =>
    have h := rings_and_slots_takeRequest (row := .freeRegionNow) (s := s) (fun r => (serveFreeNow_rings_keys r s).1)
      fun r => (serveFreeNow_rings_keys r s).2
    exact ⟨fun hn => absurd (by simp) hn, fun _ => h.1, .inl h.2⟩
  case freeRegionBoundary =>
    have h := rings_and_slots_takeRequest (row := .freeRegionBoundary) (s := s) (fun r => (serveFreeBoundary_rings_keys r s).1)
      fun r => (serveFreeBoundary_rings_keys r s).2
    exact ⟨fun hn => absurd (by simp) hn, fun _ => h.1, .inl h.2⟩
  case shapeRing =>
    obtain ⟨he, hk⟩ := entries_and_slots_shapeRing s
    exact ⟨fun _ => he, fun hn => absurd rfl hn, .inl hk⟩
  case loadKey =>
    obtain ⟨he, hr, hk⟩ := frames_loadKey s
    exact ⟨fun _ => he, fun _ => hr, .inr ⟨rfl, hk⟩⟩
  all_goals apply all
  case profileLoadEnd | profileLoadTimeout => exact mapFrame_endLoad _ s
  case resetAsserted => exact .cond _ (.refl s) (mapFrame_lineResetBlocks s).settle
  case linkReset | upstreamLinkLost => exact .cond _ (.refl s) (mapFrame_linkGone _ s).settle
  case lockdown => exact mapFrame_lockdownFound s
  case upstreamLinkEstablished | downstreamLinkUp | diskReadySignature =>
    exact .cond _ (MapFrame.of_eq rfl rfl rfl).settle (.refl s)
  case downstreamLinkLost => exact .cond _ (.refl s) (mapFrame_loseDisk _ s)
  case diskSelfReset => exact .cond _ (mapFrame_loseDisk _ s) (.refl s)
  case read | write | soleRead | soleWrite | flush | identify | passNoData | unknownCommand =>
    exact mapFrame_arrive _ _ _ _ _ _ s
  case requestForWriteData | diskReadData | downstreamCommandEnd | diskFailure => exact mapFrame_diskFrame _ s
  case keepReadEnd | keepWriteEnd => exact mapFrame_keepEnd _ _ _ _ s
  case systemPortReady => exact .settle_getD fun t h => .of_settled (settledBy_systemPortReady s t h)
  case drainRelease k => exact .settle_getD fun t h => .of_settled (settledBy_drainRelease k s t h)
  case pendingDefinitionApplied i => exact .settle_getD fun t h => .of_settled (settledBy_applyPending i s t h)
  case keywaitRecheck k => exact .settle_getD fun t h => .of_settled (settledBy_keywaitRecheck k s t h)
  case keywaitTimerExpiry k => exact .settle_getD fun t h => .of_settled (settledBy_keywaitExpired k s t h)
  case ringorderRelease k => exact .settle_getD fun t h => .of_settled (settledBy_ringorderRelease k s t h)
  case overrunRelease k => exact .settle_getD fun t h => .of_settled (settledBy_overrunRelease k s t h)
  case overrunTimerExpiry k => exact .settle_getD fun t h => .of_settled (settledBy_overrunExpired k s t h)
  case tagwaitGrant => exact .settle_getD fun t h => .of_settled (settledBy_tagwaitGrant s t h)
  case solewaitRelease => exact .settle_getD fun t h => .of_settled (settledBy_solewaitRelease s t h)
  case secondPartIssue k => exact .settle_getD fun t h => .of_settled (settledBy_secondPart k s t h)
  case bufferRequestMet => exact .settle_getD fun t h => .of_settled (settledBy_requestMet s t h)
  case keepChunkStart => exact .settle_getD fun t h => .of_settled (settledBy_chunkStart s t h)
  case hostWriteData => exact .settle_getD fun _ => mapFrame_takeWriteData
  case writeDataRequest => exact .settle_getD fun _ => mapFrame_writeRequest
  case readDataBurst => exact .settle_getD fun _ => mapFrame_readBurst
  case completion => exact .settle_getD fun _ => mapFrame_completion
  case grantStart => exact .settle_getD fun _ => mapFrame_grantStart
  case grantEnd =>
    split
    · exact (mapFrame_endGrant _ s).settle
    · exact .refl s
  case idleGateOpen => exact (MapFrame.of_eq rfl rfl rfl).settle
  case lowPowerRequest => exact (mapFrame_lowPowerAsked _ s).settle
  case downstreamLowPower => exact (mapFrame_carryLowPower s).settle
  case diskLowPowerAnswer => exact (mapFrame_lowPowerAnswered _ s).settle
  case resetDeasserted | fetch => exact .of_eq rfl rfl rfl
  case diskLowPowerRequest => exact .cond _ (.of_eq rfl rfl rfl) (.refl s)
  case hostWake | diskWake =>
    split
    · exact (MapFrame.of_eq rfl rfl rfl).settle
    · exact .refl s
  case secondCounted | minuteTick | oscillatorCycle => exact .cond _ (mapFrame_countCycle s) (.refl s)
  case send =>
    unfold sendFrame
    split <;> exact .of_eq rfl rfl rfl
  case malformedFrame | unknownRequest => exact mapFrame_takeRequest fun _ => .refl s
  case setClock => exact mapFrame_takeRequest fun r => mapFrame_serveSetClock r s
  case trimClock => exact mapFrame_takeRequest fun r => mapFrame_serveTrimClock r s
  case dropKey => exact mapFrame_takeRequest fun r => mapFrame_serveDropKey r s
  case setDeadline => exact mapFrame_takeRequest fun r => mapFrame_serveSetDeadline r s
  case openRing => exact mapFrame_takeRequest fun r => mapFrame_serveOpenRing r s
  case switchRing => exact mapFrame_takeRequest fun r => mapFrame_serveSwitchRing r s
  case closeRing => exact mapFrame_takeRequest fun r => mapFrame_serveCloseRing r s
  case submitKeep => exact mapFrame_takeRequest fun r => mapFrame_serveSubmitKeep r s
  case cancelKeep => exact mapFrame_takeRequest fun r => mapFrame_serveCancelKeep r s
  case clearAlerts => exact mapFrame_takeRequest fun r => mapFrame_serveClearAlerts r s
  case maskAlerts => exact mapFrame_takeRequest fun r => mapFrame_serveMaskAlerts r s
  case readStatusAlerts | readStatusClock | readStatusKeyTable | readStatusRegion | readStatusRing | readStatusKeepQueue
      | readStatusOutcomeList | readStatusMissList | readStatusProfileInUse =>
    exact mapFrame_status s (by simp [statusServers])

/-- Settles O12, from what each command leaves of the three tables. -/
theorem mapShapeAndGenerationFrames : Obligations.MapShapeAndGenerationFrames := by
  intro c s t h hc
  obtain ⟨he, hr, hg⟩ := exec_frames c h hc
  refine ⟨fun hn i => ?_, hr, fun i => ?_⟩
  · rcases he hn i with hk | ⟨hs, ha⟩
    · exact .inl hk
    · exact .inr ⟨Option.isSome_iff_ne_none.mp hs, ha⟩
  · rcases hg with hg | ⟨hk, hg⟩
    · exact .inl (hg i)
    · exact (hg i).imp id fun hl => ⟨hk, hl⟩

end Sys2Proof.Machine
end

section
/-! SUPPORT. Request frames read back, field by field, and the step that takes a well-formed request in progress; PUT REGION
and FREE REGION. -/

namespace Sys2Proof.Machine

/-! ## Little-endian fields -/

@[simp] theorem leBytes_length (n v : Nat) : (leBytes n v).length = n := by
  induction n generalizing v with
  | zero => rfl
  | succ n ih => simp [leBytes, ih]

theorem leNat_leBytes (n v : Nat) : leNat (leBytes n v) = v % 256 ^ n := by
  induction n generalizing v with
  | zero => simp [leBytes, leNat, Nat.mod_one]
  | succ n ih =>
      calc leNat (leBytes (n + 1) v) = v % 256 + 256 * (v / 256 % 256 ^ n) := by rw [leBytes, leNat, ih]; rfl
        _ = v % 256 ^ (n + 1) := by rw [Nat.pow_succ', Nat.mod_mul]

/-- The field that stands behind the first bytes of a body. -/
theorem fieldAt_of_prefix {body pre post : List Byte} {n v off : Nat} (h : body = pre ++ (leBytes n v ++ post))
    (hoff : pre.length = off) : fieldAt body off n = v % 256 ^ n := by
  subst h hoff
  rw [fieldAt, bytesAt, List.drop_left, List.take_left' (leBytes_length n v), leNat_leBytes]

/-! ## A request in progress -/

/-- A row whose request is in progress carries it out, settles and answers (R165). -/
theorem takeRequest_of_inProgress {s : State} {sequence : Byte} {r : Request} {row : RequestRow}
    (h : s.inProgress sequence r) (hrow : rowOf (r.frame sequence) = row) (hdec : decodeFrame (r.frame sequence) = .request r)
    (serve : Request → State → State × Answer) :
    takeRequest row serve s = (settle (serve r s).1).answered sequence (serve r s).2.status (serve r s).2.body := by
  obtain ⟨hstate, hreq, -⟩ := h
  unfold takeRequest
  rw [hstate, hreq]
  simp only [hrow, beq_self_eq_true, cond_true, answerFrame, hdec]
  rfl

/-- A frame whose length byte is the length of its body is not malformed (R176). -/
theorem frame_not_malformed (r : Request) (sequence : Byte) (h : r.body.length ≤ 48) :
    frameMalformed (r.frame sequence) = false := by
  have hlen : (BitVec.ofNat 8 r.body.length).toNat = r.body.length := by
    rw [BitVec.toNat_ofNat]; omega
  unfold frameMalformed Request.frame byteAt
  simp only [List.cons_append, List.nil_append, List.length_cons, List.getD_cons_succ, List.getD_cons_zero, hlen]
  have h1 : ¬ r.body.length + 1 + 1 + 1 < 3 := by omega
  have h2 : r.body.length + 1 + 1 + 1 = 3 + r.body.length := Nat.add_comm _ 3
  rw [decide_eq_false h1, decide_eq_false (Nat.not_lt.2 h), decide_eq_false (not_not.2 h2)]
  rfl

theorem frameBody_frame (r : Request) (sequence : Byte) : frameBody (r.frame sequence) = r.body := rfl

/-- A frame of a known type whose body fits is the request that its body decodes to. -/
theorem decodeFrame_frame (r : Request) (sequence : Byte) (hlen : r.body.length ≤ 48) (hknown : knownType r.type.toNat = true)
    (hfits : bodyFits r.type.toNat r.body = true) : decodeFrame (r.frame sequence) = .request (decodeBody r.type.toNat r.body) := by
  unfold decodeFrame
  rw [frame_not_malformed r sequence hlen, frameBody_frame, show frameType (r.frame sequence) = r.type.toNat from rfl, hknown,
    hfits]
  rfl

theorem rowOf_frame (r : Request) (sequence : Byte) (hlen : r.body.length ≤ 48) :
    rowOf (r.frame sequence) = rowOfType r.type.toNat r.body := by
  unfold rowOf
  rw [frame_not_malformed r sequence hlen, frameBody_frame]
  rfl

/-! ## The frames of PUT REGION and FREE REGION -/

theorem flagByte_onlyBits (b : Bool) : onlyBits (flagByte b) 0x01#8 = true := by cases b <;> decide

theorem flagByte_bit (b : Bool) : (flagByte b).getLsbD 0 = b := by cases b <;> decide

theorem definitionFlags_onlyBits (a b c : Bool) : onlyBits (definitionFlags a b c) 0x07#8 = true := by
  cases a <;> cases b <;> cases c <;> decide

theorem definitionFlags_bits (a b c : Bool) : (definitionFlags a b c).getLsbD 0 = a ∧ (definitionFlags a b c).getLsbD 1 = b
    ∧ (definitionFlags a b c).getLsbD 2 = c := by
  cases a <;> cases b <;> cases c <;> decide

/-- A definition in the 24 bytes behind two others reads back, where its fields fit (section 10.2). -/
theorem rawDefinitionAt_encode (x y : Byte) (d : RawDefinition) (ho : d.order < 256) (hr : d.ring < 256) (hb : d.base < 2 ^ 64)
    (ht : d.target < 2 ^ 64) : rawDefinitionAt ([x, y] ++ d.encode) 2 = d := by
  have hbase : fieldAt ([x, y] ++ d.encode) 6 8 = d.base := by
    rw [fieldAt_of_prefix (body := [x, y] ++ d.encode) (pre := [x, y, d.kind, BitVec.ofNat 8 d.order, definitionFlags d.readBar d.writeBar d.hasTarget,
      BitVec.ofNat 8 d.ring]) (n := 8) (v := d.base) (post := leBytes 8 d.target ++ leBytes 4 d.id.toNat)
      (off := 6) (by simp [RawDefinition.encode]) rfl]
    omega
  have htarget : fieldAt ([x, y] ++ d.encode) 14 8 = d.target := by
    rw [fieldAt_of_prefix (body := [x, y] ++ d.encode) (pre := [x, y, d.kind, BitVec.ofNat 8 d.order, definitionFlags d.readBar d.writeBar d.hasTarget,
      BitVec.ofNat 8 d.ring] ++ leBytes 8 d.base) (n := 8) (v := d.target) (post := leBytes 4 d.id.toNat)
      (by simp [RawDefinition.encode]) (by simp)]
    omega
  have hid : fieldAt ([x, y] ++ d.encode) 22 4 = d.id.toNat := by
    rw [fieldAt_of_prefix (body := [x, y] ++ d.encode) (pre := [x, y, d.kind, BitVec.ofNat 8 d.order, definitionFlags d.readBar d.writeBar d.hasTarget,
      BitVec.ofNat 8 d.ring] ++ leBytes 8 d.base ++ leBytes 8 d.target) (n := 4) (v := d.id.toNat) (post := [])
      (by simp [RawDefinition.encode]) (by simp)]
    omega
  obtain ⟨f0, f1, f2⟩ := definitionFlags_bits d.readBar d.writeBar d.hasTarget
  have horder : (BitVec.ofNat 8 d.order).toNat = d.order := by rw [BitVec.toNat_ofNat]; omega
  have hring : (BitVec.ofNat 8 d.ring).toNat = d.ring := by rw [BitVec.toNat_ofNat]; omega
  have hidval : idAt ([x, y] ++ d.encode) 22 = d.id := by rw [idAt, hid, BitVec.ofNat_toNat, BitVec.setWidth_eq]
  unfold rawDefinitionAt
  rw [hbase, htarget, hidval]
  show RawDefinition.mk _ (BitVec.ofNat 8 d.order).toNat ((definitionFlags _ _ _).getLsbD 0) ((definitionFlags _ _ _).getLsbD 1)
    ((definitionFlags _ _ _).getLsbD 2) (BitVec.ofNat 8 d.ring).toNat _ _ _ = d
  rw [f0, f1, f2, horder, hring]
  rfl

theorem body_length_putRegion (i : Nat) (b : Bool) (d : RawDefinition) : (Request.putRegion i b d).body.length = 26 := by
  simp [Request.body, RawDefinition.encode]

theorem decodeFrame_putRegion {i : Nat} {b : Bool} {d : RawDefinition} (sequence : Byte)
    (h : (Request.putRegion i b d).fits = true) :
    decodeFrame ((Request.putRegion i b d).frame sequence) = .request (.putRegion i b d) := by
  simp only [Request.fits, Bool.and_eq_true, decide_eq_true_eq, and_assoc] at h
  obtain ⟨hi, ho, hr, hb, ht⟩ := h
  have hlen := body_length_putRegion i b d
  have hi' : (BitVec.ofNat 8 i).toNat = i := by rw [BitVec.toNat_ofNat]; omega
  have hfits : bodyFits 6 (Request.putRegion i b d).body = true := by
    rw [bodyFits, hlen]
    show (true && (onlyBits (flagByte b) _ && onlyBits (definitionFlags _ _ _) _)) = true
    rw [flagByte_onlyBits, definitionFlags_onlyBits]
    rfl
  rw [decodeFrame_frame _ sequence (by rw [hlen]; decide) rfl hfits]
  show Taken.request (.putRegion (BitVec.ofNat 8 i).toNat ((flagByte b).getLsbD 0) (rawDefinitionAt ([_, _] ++ d.encode) 2)) = _
  rw [hi', flagByte_bit, rawDefinitionAt_encode _ _ d ho hr hb ht]

theorem rowOf_putRegion (i : Nat) (b : Bool) (d : RawDefinition) (sequence : Byte) :
    rowOf ((Request.putRegion i b d).frame sequence) = if b then .putRegionBoundary else .putRegionNow := by
  rw [rowOf_frame _ sequence (by rw [body_length_putRegion]; decide)]
  show (bif (flagByte b).getLsbD 0 then _ else _) = _
  rw [flagByte_bit]
  cases b <;> rfl

theorem decodeFrame_freeRegion {i : Nat} {b : Bool} (sequence : Byte) (h : (Request.freeRegion i b).fits = true) :
    decodeFrame ((Request.freeRegion i b).frame sequence) = .request (.freeRegion i b) := by
  have hi : i < 256 := by simpa [Request.fits] using h
  have hi' : (BitVec.ofNat 8 i).toNat = i := by rw [BitVec.toNat_ofNat]; omega
  have hfits : bodyFits 7 (Request.freeRegion i b).body = true := flagByte_onlyBits b
  rw [decodeFrame_frame (.freeRegion i b) sequence (show 2 ≤ 48 by decide) rfl hfits]
  show Taken.request (.freeRegion (BitVec.ofNat 8 i).toNat ((flagByte b).getLsbD 0)) = _
  rw [hi', flagByte_bit]

theorem rowOf_freeRegion (i : Nat) (b : Bool) (sequence : Byte) :
    rowOf ((Request.freeRegion i b).frame sequence) = if b then .freeRegionBoundary else .freeRegionNow := by
  rw [rowOf_frame (.freeRegion i b) sequence (show 2 ≤ 48 by decide)]
  show (bif (flagByte b).getLsbD 0 then _ else _) = _
  rw [flagByte_bit]
  cases b <;> rfl

/-! ## The checks of PUT REGION and FREE REGION -/

theorem blockFits_iff (d : RawDefinition) : d.blockFits = true ↔
    11 ≤ d.order ∧ d.order ≤ 40 ∧ d.base % 2 ^ d.order = 0 ∧ d.base + 2 ^ d.order ≤ 2 ^ 48 := by
  simp only [RawDefinition.blockFits, Bool.and_eq_true, decide_eq_true_eq, and_assoc]

theorem targetFits_iff (d : RawDefinition) : d.targetFits = true ↔ (d.hasTarget = true → d.target + 2 ^ d.order ≤ 2 ^ 48) := by
  cases h : d.hasTarget <;> simp [RawDefinition.targetFits, h, Config.lbaSpace]

theorem target?_eq (d : RawDefinition) : d.target? = if d.hasTarget = true then some d.target else none := by
  cases h : d.hasTarget <;> simp [RawDefinition.target?, h]

/-- The kind byte of PUT REGION and the fields it brings decide what is stored (R2, R18). -/
theorem kind?_of_fits (d : RawDefinition)
    (h : (d.kind = 0#8 ∧ d.targetFits = true) ∨ (d.kind = 1#8 ∧ d.targetFits = true ∧ d.id ≠ 0#32)
      ∨ (d.kind = 2#8 ∧ d.ring < 4) ∨ d.kind = 3#8 ∨ d.kind = 4#8) : d.kind? = some d.stored.kind := by
  simp only [RawDefinition.stored, ← target?_eq]
  obtain ⟨k, ht⟩ | ⟨k, ht, hid⟩ | ⟨k, hr⟩ | k | k := h
  · simp [RawDefinition.kind?, k, ht]
  · simp [RawDefinition.kind?, k, ht, bne_iff_ne.2 hid]
  · simp [RawDefinition.kind?, k, hr]
  · simp [RawDefinition.kind?, k]
  · simp [RawDefinition.kind?, k]

theorem fits_of_kind? {d : RawDefinition} {k : DefKind} (h : d.kind? = some k) :
    (d.kind = 0#8 ∧ d.targetFits = true) ∨ (d.kind = 1#8 ∧ d.targetFits = true ∧ d.id ≠ 0#32)
      ∨ (d.kind = 2#8 ∧ d.ring < 4) ∨ d.kind = 3#8 ∨ d.kind = 4#8 := by
  have byte (n : Nat) (hn : n < 256) (e : d.kind.toNat = n) : d.kind = BitVec.ofNat 8 n :=
    BitVec.eq_of_toNat_eq (by rw [e, BitVec.toNat_ofNat, Nat.mod_eq_of_lt hn])
  unfold RawDefinition.kind? at h
  split at h
  next e =>
    cases ht : d.targetFits
    · simp [ht] at h
    · exact .inl ⟨byte 0 (by decide) e, rfl⟩
  next e =>
    cases ht : d.targetFits && d.id != 0#32
    · simp [ht] at h
    · rw [Bool.and_eq_true, bne_iff_ne] at ht
      exact .inr (.inl ⟨byte 1 (by decide) e, ht⟩)
  next e =>
    split at h
    next hr => exact .inr (.inr (.inl ⟨byte 2 (by decide) e, hr⟩))
    next => cases h
  next e => exact .inr (.inr (.inr (.inl (byte 3 (by decide) e))))
  next e => exact .inr (.inr (.inr (.inr (byte 4 (by decide) e))))
  next => cases h

theorem allowed_iff (d : RawDefinition) : d.allowed ↔ d.blockFits = true ∧
    ((d.kind = 0#8 ∧ d.targetFits = true) ∨ (d.kind = 1#8 ∧ d.targetFits = true ∧ d.id ≠ 0#32)
      ∨ (d.kind = 2#8 ∧ d.ring < 4) ∨ d.kind = 3#8 ∨ d.kind = 4#8) := by
  simp only [RawDefinition.allowed, blockFits_iff, targetFits_iff, and_assoc]

theorem definition?_of_allowed {d : RawDefinition} (h : d.allowed) : d.definition? = some d.stored := by
  obtain ⟨hblock, hkind⟩ := (allowed_iff d).1 h
  rw [RawDefinition.definition?, hblock, kind?_of_fits d hkind]
  rfl

theorem definition?_of_not_allowed {d : RawDefinition} (h : ¬ d.allowed) : d.definition? = none := by
  rw [allowed_iff, not_and] at h
  unfold RawDefinition.definition?
  cases hblock : d.blockFits
  · rfl
  · cases hk : d.kind? with
    | none => rfl
    | some k => exact absurd (fits_of_kind? hk) (h hblock)

theorem ring?_eq_some {k : DefKind} {r : Nat} : k.ring? = some r ↔ k = .ring r := by
  cases k <;> simp [DefKind.ring?]

theorem entryLive_iff (s : State) (i : Nat) : s.entryLive i = true ↔ s.ringLiveAt i := by
  unfold State.entryLive State.ringLiveAt
  cases ha : (s.entry i).active with
  | none => simp
  | some d => cases hk : d.kind <;> simp [DefKind.ring?, hk]

theorem names_iff (r : Nat) (e : RegionEntry) : e.names r = true ↔
    ∃ d : Definition, d.kind = .ring r ∧ (e.active = some d ∨ e.staged = some (.define d)) := by
  simp only [RegionEntry.names, Bool.or_eq_true, beq_iff_eq, Option.bind_eq_some_iff, ring?_eq_some]
  constructor
  · rintro (⟨d, ha, hd⟩ | ⟨x, hx, hd⟩)
    · exact ⟨d, hd, .inl ha⟩
    · cases x with
      | define d => exact ⟨d, ring?_eq_some.1 hd, .inr hx⟩
      | vacate => cases hd
  · rintro ⟨d, hd, ha | hx⟩
    · exact .inl ⟨d, ha, hd⟩
    · exact .inr ⟨_, hx, ring?_eq_some.2 hd⟩

theorem ringTaken_iff (s : State) (i : Nat) (d : Definition) (r : Nat) (hr : d.kind = .ring r) :
    s.ringTaken i d = true ↔ s.namedElsewhere i r := by
  unfold State.ringTaken State.namedElsewhere
  rw [ring?_eq_some.2 hr]
  simp only [entries_zipIdx, List.any_map, List.any_eq_true, List.mem_range, Function.comp, Bool.and_eq_true,
    decide_eq_true_eq, names_iff]

theorem stored_ring {d : RawDefinition} (h : d.kind = 2#8) : d.stored.kind = .ring d.ring := by
  simp [RawDefinition.stored, h]

theorem ringTaken_of_not_ring (s : State) (i : Nat) {d : RawDefinition} (h : d.kind ≠ 2#8) : s.ringTaken i d.stored = false := by
  have hkind : d.stored.kind.ring? = none := by
    simp only [RawDefinition.stored, if_neg h]
    split
    · rfl
    · split
      · rfl
      · split <;> rfl
  simp [State.ringTaken, hkind]

/-- The checks of PUT REGION by their verdict (R18, R19). -/
theorem putCheck_of_verdict {s : State} {i : Nat} {d : RawDefinition} {v : Option LineReason} (h : PutVerdict s i d v) :
    s.putCheck i d = match v with | some why => .error why | none => .ok d.stored := by
  unfold State.putCheck
  cases h with
  | badArgument h =>
      obtain hi | ha := h
      · rw [if_pos hi]
      · rw [definition?_of_not_allowed ha]
        split <;> rfl
  | ringLive hi ha hl =>
      rw [if_neg (Nat.not_le.2 hi), definition?_of_allowed ha, (entryLive_iff s i).2 hl]
      rfl
  | ringTaken hi ha hl hk ht =>
      rw [if_neg (Nat.not_le.2 hi), definition?_of_allowed ha, Bool.eq_false_iff.2 (mt (entryLive_iff s i).1 hl)]
      simp [(ringTaken_iff s i _ _ (stored_ring hk)).2 ht]
  | accepted hi ha hl ht =>
      have taken : s.ringTaken i d.stored = false := by
        by_cases hk : d.kind = 2#8
        · exact Bool.eq_false_iff.2 (mt (ringTaken_iff s i _ _ (stored_ring hk)).1 (ht hk))
        · exact ringTaken_of_not_ring s i hk
      rw [if_neg (Nat.not_le.2 hi), definition?_of_allowed ha, Bool.eq_false_iff.2 (mt (entryLive_iff s i).1 hl)]
      simp [taken]

/-! ## Their effects -/

theorem defineEntry_eq (i : Nat) (d : Definition) (s : State) : defineEntry i d s = s.withEntry i (some d) none := rfl

theorem stageEntry_eq (i : Nat) (x : Staged) (s : State) :
    stageEntry i x s = s.withEntry i (s.entry i).active (some x) := rfl

theorem vacateEntry_eq (i : Nat) (s : State) : vacateEntry i s = s.withEntry i none none := rfl

theorem exec_putRegion (boundary : Bool) (s : State) :
    exec (if boundary then .putRegionBoundary else .putRegionNow) s =
      .next (takeRequest (if boundary then .putRegionBoundary else .putRegionNow) (if boundary then servePutBoundary else servePutNow) s) := by
  cases boundary <;> rfl

theorem exec_freeRegion (boundary : Bool) (s : State) :
    exec (if boundary then .freeRegionBoundary else .freeRegionNow) s =
      .next (takeRequest (if boundary then .freeRegionBoundary else .freeRegionNow)
        (if boundary then serveFreeBoundary else serveFreeNow) s) := by
  cases boundary <;> rfl

theorem putRegion_effect {sequence : Byte} {i : Nat} {boundary : Bool} {d : RawDefinition} {s : State} {v : Option LineReason}
    (h : s.inProgress sequence (.putRegion i boundary d)) :
    PutVerdict s i d v →
    exec (if boundary then .putRegionBoundary else .putRegionNow) s = .next
        (match v with
        | some why => (settle s).turnedAway sequence why
        | none =>
            if boundary = false ∨ (s.entry i).inFlight = 0 then
              (settle (s.withEntry i (some d.stored) none)).answered sequence .finished []
            else (settle (s.withEntry i (s.entry i).active (some (.define d.stored)))).answered sequence .staged []) := by
  intro hv
  rw [exec_putRegion, takeRequest_of_inProgress h (rowOf_putRegion i boundary d sequence)
    (decodeFrame_putRegion sequence h.2.2)]
  have check := putCheck_of_verdict hv
  cases boundary with
  | false =>
      show Host.Outcome.next ((settle (putNow i d s).1).answered sequence (putNow i d s).2.status (putNow i d s).2.body) = _
      rw [putNow, check]
      cases v <;> rfl
  | true =>
      show Host.Outcome.next ((settle (putBoundary i d s).1).answered sequence (putBoundary i d s).2.status
        (putBoundary i d s).2.body) = _
      rw [putBoundary, check]
      cases v with
      | some why => rfl
      | none => by_cases h0 : (s.entry i).inFlight = 0 <;> simp [h0] <;> rfl

/-- What FREE REGION leaves and answers, given the reason it is refused, if any (R24). -/
theorem freeRegion_effect {sequence : Byte} {i : Nat} {boundary : Bool} {s : State}
    (h : s.inProgress sequence (.freeRegion i boundary)) :
    exec (if boundary then .freeRegionBoundary else .freeRegionNow) s = .next
      ((settle (if boundary then freeBoundary i s else freeNow i s).1).answered sequence
        (if boundary then freeBoundary i s else freeNow i s).2.status (if boundary then freeBoundary i s else freeNow i s).2.body) := by
  rw [exec_freeRegion, takeRequest_of_inProgress h (rowOf_freeRegion i boundary sequence) (decodeFrame_freeRegion sequence h.2.2)]
  cases boundary <;> rfl

theorem freeCheck_of_outside {i : Nat} (s : State) (h : 64 ≤ i) : s.freeCheck i = some .badArgument := if_pos h

theorem freeCheck_of_live {s : State} {i : Nat} (h : i < 64) (l : s.ringLiveAt i) : s.freeCheck i = some .ringLive := by
  rw [State.freeCheck, if_neg (Nat.not_le.2 h), (entryLive_iff s i).2 l]
  rfl

theorem freeCheck_of_not_live {s : State} {i : Nat} (h : i < 64) (l : ¬ s.ringLiveAt i) : s.freeCheck i = none := by
  rw [State.freeCheck, if_neg (Nat.not_le.2 h), Bool.eq_false_iff.2 (mt (entryLive_iff s i).1 l)]
  rfl

theorem freeRegion_refused {i : Nat} {boundary : Bool} {s : State} {why : LineReason} (h : s.freeCheck i = some why) :
    (if boundary then freeBoundary i s else freeNow i s) = refused why s := by
  cases boundary <;> simp [freeBoundary, freeNow, h]

/-- Settles O24. -/
theorem putAndFreeRegion : Obligations.PutAndFreeRegion := by
  refine ⟨fun sequence i boundary d s v h => putRegion_effect h, fun sequence i boundary s h => ⟨_, freeRegion_effect h, ?_, ?_, ?_, ?_, ?_⟩⟩
  · intro hi
    rw [freeRegion_refused (freeCheck_of_outside s hi)]
    rfl
  · intro hi hl
    rw [freeRegion_refused (freeCheck_of_live hi hl)]
    rfl
  · rintro hi hl rfl
    have check := freeCheck_of_not_live hi hl
    simp [freeNow, check, done, vacateEntry_eq]
  · rintro hi hl rfl hactive hstaged
    have check := freeCheck_of_not_live hi hl
    simp [freeBoundary, check, done, hactive, hstaged]
  · rintro hi hl rfl hsome
    have check := freeCheck_of_not_live hi hl
    have busy : ((s.entry i).active.isNone && (s.entry i).staged.isNone) = false := by
      obtain h1 | h1 := hsome
      · rw [Option.isNone_eq_false_iff.2 (Option.isSome_iff_ne_none.2 h1), Bool.false_and]
      · rw [Option.isNone_eq_false_iff.2 (Option.isSome_iff_ne_none.2 h1), Bool.and_false]
    by_cases h0 : (s.entry i).inFlight = 0
    · simp [freeBoundary, check, done, busy, h0, vacateEntry_eq]
    · simp [freeBoundary, check, stagedReply, busy, h0, stageEntry_eq]

end Sys2Proof.Machine
end

section
/-! SUPPORT. The walk of R9. The cut points of a range are its only places where the entries that match, the binding and the
epoch can change; between two of them the sectors classify alike, and joined stretches are the maximal runs. -/

namespace Sys2Proof.Machine

/-! ## One sector -/

theorem covers_iff (d : Definition) (x : Nat) : d.covers x = true ↔ d.base ≤ x ∧ x < d.base + 2 ^ d.order := by
  unfold Definition.covers
  rw [Bool.and_eq_true, decide_eq_true_eq, decide_eq_true_eq]
  rfl

theorem mem_matching {s : State} {x i : Nat} {d : Definition} :
    (i, d) ∈ s.matching x ↔ i < Config.regionCount ∧ (s.entry i).active = some d ∧ d.base ≤ x ∧ x < d.base + 2 ^ d.order := by
  rw [State.matching, List.mem_filter, mem_activeDefs, covers_iff, and_assoc]

theorem matching_pairwise (s : State) (x : Nat) : (s.matching x).Pairwise fun a b => a.1 < b.1 :=
  (activeDefs_pairwise s).filter _

theorem isOverlay_iff (k : DefKind) : k.isOverlay = true ↔ k = .overlay := by cases k <;> simp [DefKind.isOverlay]

theorem not_isOverlay_iff (k : DefKind) : k.isOverlay = false ↔ k ≠ .overlay := by cases k <;> simp [DefKind.isOverlay]

theorem isBarred_iff (k : DefKind) : k.isBarred = true ↔ k = .barred := by cases k <;> simp [DefKind.isBarred]

/-- In a list that rises in a measure, `find?` answers the element that is lowest in it. -/
theorem find?_eq_some_of_rising {α : Type} {m : α → Nat} {p : α → Bool} {l : List α} {a : α}
    (h : l.Pairwise fun a b => m a < m b) (ha : a ∈ l) (hp : p a = true) (hmin : ∀ b ∈ l, m b < m a → p b = false) :
    l.find? p = some a := by
  induction l with
  | nil => cases ha
  | cons b l ih =>
      obtain ⟨hb, hl⟩ := List.pairwise_cons.1 h
      obtain rfl | ha := List.mem_cons.1 ha
      · exact List.find?_cons_of_pos hp
      · rw [List.find?_cons_of_neg (by simp [hmin b List.mem_cons_self (hb a ha)])]
        exact ih hl ha fun c hc => hmin c (List.mem_cons_of_mem _ hc)

theorem rising_find?_min {α : Type} {m : α → Nat} {p : α → Bool} {l : List α} {a : α}
    (h : l.Pairwise fun a b => m a < m b) (hf : l.find? p = some a) : ∀ b ∈ l, m b < m a → p b = false := by
  intro b hb hlt
  obtain ⟨-, before, after, rfl, hbefore⟩ := List.find?_eq_some_iff_append.1 hf
  obtain ⟨-, hafter, hcross⟩ := List.pairwise_append.1 h
  obtain hb | hb := List.mem_append.1 hb
  · simpa using hbefore b hb
  · obtain rfl | hb := List.mem_cons.1 hb
    · omega
    · have := (List.pairwise_cons.1 hafter).1 b hb
      omega

/-- The binding entry of a sector (R4). -/
theorem binding_eq_some_iff (s : State) (x i : Nat) (d : Definition) : s.binding x = some (i, d) ↔
    (i < Config.regionCount ∧ (s.entry i).active = some d ∧ d.base ≤ x ∧ x < d.base + 2 ^ d.order ∧ d.kind ≠ .overlay
      ∧ ∀ j < i, ∀ e, (s.entry j).active = some e → e.base ≤ x → x < e.base + 2 ^ e.order → e.kind = .overlay) := by
  constructor
  · intro h
    obtain ⟨hi, ha, hlo, hhi⟩ := mem_matching.1 (List.mem_of_find?_eq_some h)
    have hk : d.kind ≠ .overlay := by simpa [not_isOverlay_iff] using List.find?_some h
    refine ⟨hi, ha, hlo, hhi, hk, fun j hj e he hle hlt => ?_⟩
    have := rising_find?_min (matching_pairwise s x) h (j, e) (mem_matching.2 ⟨Nat.lt_trans hj hi, he, hle, hlt⟩) hj
    simpa [isOverlay_iff] using this
  · rintro ⟨hi, ha, hlo, hhi, hk, hmin⟩
    refine find?_eq_some_of_rising (matching_pairwise s x) (mem_matching.2 ⟨hi, ha, hlo, hhi⟩) (by simpa [not_isOverlay_iff] using hk) ?_
    rintro ⟨j, e⟩ he hj
    obtain ⟨-, hea, hle, hlt⟩ := mem_matching.1 he
    simpa [isOverlay_iff] using hmin j hj e hea hle hlt

theorem barredSector_iff (s : State) (y : Nat) : s.barredSector y = true ↔
    (∃ i d, s.binding y = some (i, d) ∧ d.kind = .barred) ∨ (s.binding y = none ∧ s.line.profile.unmapped = .bar) := by
  unfold State.barredSector
  cases s.binding y with
  | none => simp
  | some e => obtain ⟨i, d⟩ := e; simp [isBarred_iff]

/-- The bar of a sector for a direction (R5, R7). -/
theorem sectorBarred_iff (s : State) (write : Bool) (y : Nat) :
    (bif write then s.writeBarred y else s.readBarred y) = true ↔ s.sectorBarred write y := by
  have bars (f : Definition → Bool) : ((s.matching y).any fun e => f e.2) = true ↔
      ∃ i < Config.regionCount, ∃ d, (s.entry i).active = some d ∧ d.base ≤ y ∧ y < d.base + 2 ^ d.order ∧ f d = true := by
    rw [List.any_eq_true]
    constructor
    · rintro ⟨⟨i, d⟩, hm, hf⟩
      obtain ⟨hi, ha, hlo, hhi⟩ := mem_matching.1 hm
      exact ⟨i, hi, d, ha, hlo, hhi, hf⟩
    · rintro ⟨i, hi, d, ha, hlo, hhi, hf⟩
      exact ⟨(i, d), mem_matching.2 ⟨hi, ha, hlo, hhi⟩, hf⟩
  cases write
  · simp only [cond_false, State.readBarred, Bool.or_eq_true, barredSector_iff, bars, State.sectorBarred]
    exact or_comm
  · simp only [cond_true, State.writeBarred, Bool.or_eq_true, barredSector_iff, bars, State.sectorBarred]
    exact or_comm

/-! ## Tilings -/

/-- The ranges of a list, given by first place and length, follow one another without a gap from `x` to `stop`. -/
def Tiles {α : Type} (first count : α → Nat) : Nat → Nat → List α → Prop
  | x, stop, [] => x = stop
  | x, stop, p :: rest => first p = x ∧ 0 < count p ∧ Tiles first count (x + count p) stop rest

section Tilings
variable {α : Type} {first count : α → Nat} {x stop : Nat} {l : List α}

theorem Tiles.le (h : Tiles first count x stop l) : x ≤ stop := by
  induction l generalizing x with
  | nil => exact Nat.le_of_eq h
  | cons p l ih =>
      have := ih h.2.2
      omega

theorem Tiles.of_mem (h : Tiles first count x stop l) {p : α} (hp : p ∈ l) :
    0 < count p ∧ x ≤ first p ∧ first p + count p ≤ stop := by
  induction l generalizing x with
  | nil => cases hp
  | cons q l ih =>
      obtain ⟨hf, hc, hrest⟩ := h
      obtain rfl | hp := List.mem_cons.1 hp
      · exact ⟨hc, Nat.le_of_eq hf.symm, by rw [hf]; exact hrest.le⟩
      · obtain ⟨h1, h2, h3⟩ := ih hrest hp
        exact ⟨h1, by omega, h3⟩

theorem Tiles.covers (h : Tiles first count x stop l) {y : Nat} (hx : x ≤ y) (hy : y < stop) :
    ∃ p ∈ l, first p ≤ y ∧ y < first p + count p := by
  induction l generalizing x with
  | nil =>
      have : x = stop := h
      omega
  | cons q l ih =>
      obtain ⟨hf, hc, hrest⟩ := h
      by_cases hlt : y < x + count q
      · exact ⟨q, List.mem_cons_self, by omega⟩
      · obtain ⟨p, hp, h1⟩ := ih hrest (by omega)
        exact ⟨p, List.mem_cons_of_mem _ hp, h1⟩

theorem Tiles.ne_nil (h : Tiles first count x stop l) (hlt : x < stop) : l ≠ [] := by
  rintro rfl
  have : x = stop := h
  omega

theorem Tiles.head? (h : Tiles first count x stop l) (hlt : x < stop) : l.head?.map first = some x := by
  cases l with
  | nil => exact absurd rfl (h.ne_nil hlt)
  | cons p l => simp [h.1]

theorem Tiles.getLast? (h : Tiles first count x stop l) (hlt : x < stop) :
    (l.getLast?.map fun p => first p + count p) = some stop := by
  induction l generalizing x with
  | nil => exact absurd rfl (h.ne_nil hlt)
  | cons p l ih =>
      obtain ⟨hf, -, hrest⟩ := h
      cases l with
      | nil =>
          have : x + count p = stop := hrest
          simp [hf, this]
      | cons q l =>
          have hq : x + count p < stop := by
            have := (hrest.of_mem (List.mem_cons_self (a := q) (l := l)))
            omega
          rw [List.getLast?_cons_cons]
          exact ih hrest hq

theorem Tiles.next (h : Tiles first count x stop l) {i : Nat} {p q : α} (hp : l[i]? = some p) (hq : l[i + 1]? = some q) :
    first q = first p + count p := by
  induction l generalizing x i with
  | nil => cases hp
  | cons r l ih =>
      obtain ⟨hf, -, hrest⟩ := h
      cases i with
      | zero =>
          cases hp
          cases l with
          | nil => cases hq
          | cons t l =>
              cases hq
              rw [hrest.1, hf]
      | succ i => exact ih hrest hp hq

theorem Tiles.map {β : Type} (f : α → β) {first' count' : β → Nat} (hf : ∀ a, first' (f a) = first a)
    (hc : ∀ a, count' (f a) = count a) (h : Tiles first count x stop l) : Tiles first' count' x stop (l.map f) := by
  induction l generalizing x with
  | nil => exact h
  | cons p l ih =>
      obtain ⟨h1, h2, h3⟩ := h
      exact ⟨by rw [hf, h1], by rw [hc]; exact h2, by rw [hc]; exact ih h3⟩

end Tilings

/-! ## Cut points and pieces -/

theorem mem_insertCut (c y : Nat) (l : List Nat) : y ∈ insertCut c l ↔ y = c ∨ y ∈ l := by
  induction l with
  | nil => simp [insertCut]
  | cons d l ih =>
      unfold insertCut
      split
      next => simp
      next =>
        split
        next h => subst h; simp
        next => simp only [List.mem_cons, ih]; tauto

theorem insertCut_rising (c : Nat) {l : List Nat} (h : l.Pairwise (· < ·)) : (insertCut c l).Pairwise (· < ·) := by
  induction l with
  | nil => simp [insertCut]
  | cons d l ih =>
      obtain ⟨hd, hl⟩ := List.pairwise_cons.1 h
      unfold insertCut
      split
      next hcd =>
        refine List.pairwise_cons.2 ⟨fun y hy => ?_, h⟩
        obtain rfl | hy := List.mem_cons.1 hy
        · exact hcd
        · exact Nat.lt_trans hcd (hd y hy)
      next hcd =>
        split
        next => exact h
        next hne =>
          refine List.pairwise_cons.2 ⟨fun y hy => ?_, ih hl⟩
          obtain rfl | hy := (mem_insertCut c y l).1 hy
          · omega
          · exact hd y hy

theorem mem_foldr_insertCut (y : Nat) (l : List Nat) : y ∈ l.foldr insertCut [] ↔ y ∈ l := by
  induction l with
  | nil => simp
  | cons c l ih => rw [List.foldr_cons, mem_insertCut, ih, List.mem_cons]

theorem foldr_insertCut_rising (l : List Nat) : (l.foldr insertCut []).Pairwise (· < ·) := by
  induction l with
  | nil => exact List.Pairwise.nil
  | cons c l ih => exact insertCut_rising c ih

/-- A place where the classification can change: a cut point of an active definition. -/
def State.isCut (s : State) (c : Nat) : Prop := ∃ e ∈ s.activeDefs, c ∈ s.cutsOf e.2

theorem mem_cutPoints (s : State) (x n c : Nat) : c ∈ s.cutPoints x n ↔ s.isCut c ∧ x < c ∧ c < x + n := by
  simp only [State.cutPoints, mem_foldr_insertCut, List.mem_filter, List.mem_flatMap, Bool.and_eq_true, decide_eq_true_eq,
    State.isCut]

theorem tiles_piecesFrom {x stop : Nat} {cuts : List Nat} (hrise : cuts.Pairwise (· < ·)) (hx : x < stop)
    (hin : ∀ c ∈ cuts, x < c ∧ c < stop) : Tiles Prod.fst Prod.snd x stop (piecesFrom x stop cuts) := by
  induction cuts generalizing x with
  | nil =>
      refine ⟨rfl, ?_, ?_⟩
      · show 0 < stop - x
        omega
      · show x + (stop - x) = stop
        omega
  | cons c cuts ih =>
      obtain ⟨hlt, hrest⟩ := List.pairwise_cons.1 hrise
      obtain ⟨hxc, hcs⟩ := hin c List.mem_cons_self
      refine ⟨rfl, show 0 < c - x by omega, ?_⟩
      show Tiles _ _ (x + (c - x)) stop _
      rw [show x + (c - x) = c by omega]
      exact ih hrest hcs fun y hy => ⟨hlt y hy, (hin y (List.mem_cons_of_mem _ hy)).2⟩

theorem piecesFrom_le {x stop : Nat} {cuts : List Nat} (hrise : cuts.Pairwise (· < ·)) (hin : ∀ c ∈ cuts, x < c)
    {p : Nat × Nat} (hp : p ∈ piecesFrom x stop cuts) : x ≤ p.1 := by
  induction cuts generalizing x with
  | nil =>
      obtain rfl := List.mem_singleton.1 hp
      exact Nat.le_refl _
  | cons c cuts ih =>
      obtain ⟨hlt, hrest⟩ := List.pairwise_cons.1 hrise
      obtain rfl | hp := List.mem_cons.1 hp
      · exact Nat.le_refl _
      · exact Nat.le_trans (Nat.le_of_lt (hin c List.mem_cons_self)) (ih hrest hlt hp)

/-- No piece has a cut point inside. -/
theorem piecesFrom_uncut {x stop : Nat} {cuts : List Nat} (hrise : cuts.Pairwise (· < ·)) (hin : ∀ c ∈ cuts, x < c)
    {p : Nat × Nat} (hp : p ∈ piecesFrom x stop cuts) : ∀ c ∈ cuts, ¬ (p.1 < c ∧ c < p.1 + p.2) := by
  induction cuts generalizing x with
  | nil => intro c hc; cases hc
  | cons d cuts ih =>
      obtain ⟨hlt, hrest⟩ := List.pairwise_cons.1 hrise
      have hxd := hin d List.mem_cons_self
      have hbelow (c) (hc : c ∈ d :: cuts) : d ≤ c := by
        obtain rfl | hc := List.mem_cons.1 hc
        · exact Nat.le_refl _
        · exact Nat.le_of_lt (hlt c hc)
      obtain rfl | hp := List.mem_cons.1 hp
      · intro c hc
        have := hbelow c hc
        show ¬ (x < c ∧ c < x + (d - x))
        omega
      · intro c hc
        obtain rfl | hc := List.mem_cons.1 hc
        · have := piecesFrom_le hrest hlt hp
          omega
        · exact ih hrest hlt hp c hc

theorem tiles_pieces (s : State) (x : Nat) {n : Nat} (hn : 0 < n) :
    Tiles Prod.fst Prod.snd x (x + n) (s.pieces x n) :=
  tiles_piecesFrom (foldr_insertCut_rising _) (by omega) fun c hc => ((mem_cutPoints s x n c).1 hc).2

/-- No cut point lies above the one sector and up to the other. -/
def State.Uncut (s : State) (y z : Nat) : Prop := y ≤ z ∧ ∀ c, s.isCut c → ¬ (y < c ∧ c ≤ z)

theorem uncut_of_piece {s : State} {x n : Nat} (hn : 0 < n) {p : Nat × Nat} (hp : p ∈ s.pieces x n) {y : Nat} (hlo : p.1 ≤ y)
    (hhi : y < p.1 + p.2) : s.Uncut p.1 y := by
  obtain ⟨-, hx, hstop⟩ := (tiles_pieces s x hn).of_mem hp
  refine ⟨hlo, fun c hc hin => ?_⟩
  refine piecesFrom_uncut (foldr_insertCut_rising _) (fun c hc => ((mem_cutPoints s x n c).1 hc).2.1) hp c
    ((mem_cutPoints s x n c).2 ⟨hc, ?_⟩) ?_ <;> omega

/-! ## Sectors with no cut point between them -/

theorem isCut_base {s : State} {i : Nat} {d : Definition} (h : (i, d) ∈ s.activeDefs) : s.isCut d.base :=
  ⟨_, h, by unfold State.cutsOf; split <;> simp⟩

theorem isCut_end {s : State} {i : Nat} {d : Definition} (h : (i, d) ∈ s.activeDefs) : s.isCut (d.base + 2 ^ d.order) :=
  ⟨_, h, by unfold State.cutsOf; split <;> simp [Definition.size]⟩

theorem isCut_floor {s : State} {i r : Nat} {d : Definition} (h : (i, d) ∈ s.activeDefs) (hr : d.kind = .ring r) :
    s.isCut (d.base + (s.ring r).floor) :=
  ⟨_, h, by simp [State.cutsOf, hr, DefKind.ring?]⟩

theorem isCut_epoch {s : State} {i r : Nat} {d : Definition} (h : (i, d) ∈ s.activeDefs) (hr : d.kind = .ring r) {e : Epoch}
    (he : e ∈ (s.ring r).epochs) : s.isCut (d.base + e.start) :=
  ⟨_, h, by simp only [State.cutsOf, hr, DefKind.ring?, List.mem_cons, List.mem_map]; exact .inr (.inr (.inr ⟨e, he, rfl⟩))⟩

section Uncut
variable {s : State} {y z : Nat}

theorem matching_uncut (h : s.Uncut y z) : s.matching z = s.matching y := by
  refine List.filter_congr fun e he => ?_
  obtain ⟨hle, hcut⟩ := h
  have hb := hcut _ (isCut_base he)
  have he := hcut _ (isCut_end he)
  rw [Bool.eq_iff_iff, covers_iff, covers_iff]
  omega

theorem binding_uncut (h : s.Uncut y z) : s.binding z = s.binding y := by
  unfold State.binding
  rw [matching_uncut h]

theorem barred_uncut (h : s.Uncut y z) (write : Bool) :
    (bif write then s.writeBarred z else s.readBarred z) = (bif write then s.writeBarred y else s.readBarred y) := by
  simp only [State.writeBarred, State.readBarred, State.barredSector, binding_uncut h, matching_uncut h]

/-- A command is barred exactly when one of its sectors is (R5, R12). -/
theorem barredRange_iff (s : State) (write : Bool) (x : Nat) {n : Nat} (hn : 0 < n) :
    s.barredRange write x n = true ↔ ∃ y, x ≤ y ∧ y < x + n ∧ s.sectorBarred write y := by
  rw [State.barredRange, List.any_eq_true]
  constructor
  · rintro ⟨p, hp, hbar⟩
    obtain ⟨hcount, hx, hstop⟩ := (tiles_pieces s x hn).of_mem hp
    exact ⟨p.1, hx, by omega, (sectorBarred_iff s write p.1).1 hbar⟩
  · rintro ⟨y, hx, hstop, hbar⟩
    obtain ⟨p, hp, hlo, hhi⟩ := (tiles_pieces s x hn).covers hx hstop
    refine ⟨p, hp, ?_⟩
    rw [← barred_uncut (uncut_of_piece hn hp hlo hhi) write]
    exact (sectorBarred_iff s write y).2 hbar

end Uncut

/-- Settles O25. -/
theorem bindingAndBars : Obligations.BindingAndBars :=
  ⟨binding_eq_some_iff, fun s write x _ hn => barredRange_iff s write x hn⟩

end Sys2Proof.Machine
end

section
/-! SUPPORT. The class of a sector by its binding, and the runs of R9 with their split points (R10). -/

namespace Sys2Proof.Machine

/-! ## Epochs -/

theorem epochAt_eq_some_iff (r : Ring) (v : Nat) (e : Epoch) : r.epochAt v = some e ↔
    ∃ earlier later, r.epochs = earlier ++ e :: later ∧ e.start ≤ v ∧ ∀ f ∈ later, v < f.start := by
  unfold Ring.epochAt
  generalize r.epochs = l
  induction l with
  | nil => simp
  | cons a l ih =>
      constructor
      · intro h
        cases hlast : (l.filter fun e => decide (e.start ≤ v)).getLast? with
        | some f =>
            have hf : f = e := by
              rw [List.filter_cons] at h
              split at h
              · rw [List.getLast?_cons, hlast] at h
                simpa using h
              · rw [hlast] at h
                exact Option.some.inj h
            subst hf
            obtain ⟨earlier, later, rfl, hle, hlater⟩ := ih.1 hlast
            exact ⟨a :: earlier, later, rfl, hle, hlater⟩
        | none =>
            have hnil := List.getLast?_eq_none_iff.1 hlast
            rw [List.filter_cons, hnil] at h
            split at h
            next hle =>
              cases h
              refine ⟨[], l, rfl, by simpa using hle, fun f hf => ?_⟩
              have := List.filter_eq_nil_iff.1 hnil f hf
              simpa using this
            next => cases h
      · rintro ⟨earlier, later, heq, hle, hlater⟩
        rw [heq]
        have hnil : (later.filter fun e => decide (e.start ≤ v)) = [] :=
          List.filter_eq_nil_iff.2 fun f hf => by simpa using hlater f hf
        rw [List.filter_append, List.filter_cons_of_pos (by simpa using hle), hnil, List.getLast?_append]
        simp

/-- Two offsets whose epochs start alike lie in the same epoch. -/
theorem epochAt_eq_of_start {r : Ring} {v w : Nat} {e f : Epoch} (hv : r.epochAt v = some e) (hw : r.epochAt w = some f)
    (h : e.start = f.start) : e = f := by
  have below {v w : Nat} {e f : Epoch} (hv : r.epochAt v = some e) (hw : r.epochAt w = some f) (h : e.start = f.start)
      (hle : v ≤ w) : e = f := by
    obtain ⟨_, _, _, hev, _⟩ := (epochAt_eq_some_iff r v e).1 hv
    obtain ⟨earlier, later, hsplit, _, hlater⟩ := (epochAt_eq_some_iff r w f).1 hw
    have : r.epochAt v = some f :=
      (epochAt_eq_some_iff r v f).2 ⟨earlier, later, hsplit, by omega, fun g hg => Nat.lt_of_le_of_lt hle (hlater g hg)⟩
    exact Option.some.inj (hv.symm.trans this)
  obtain hle | hle := Nat.le_total v w
  · exact below hv hw h hle
  · exact (below hw hv h.symm hle).symm

/-! ## The class of a sector -/

section ClassOf
variable {s : State} {y i : Nat} {d : Definition}

theorem classOf_unmapped (h : s.binding y = none) : s.classOf y =
    { binding := none
      kind := if s.line.profile.unmapped = .bar then .barred else .clear
      id := none
      disk := if s.line.profile.unmapped = .bar then none else some y
      ring := none, epochStart := none, virt := none } := by
  rw [State.classOf, h]

theorem classOf_clear {t : Option Nat} (h : s.binding y = some (i, d)) (hk : d.kind = .clear t) : s.classOf y =
    { binding := some i, kind := .clear, id := none, disk := some (t.getD d.base + (y - d.base)), ring := none,
      epochStart := none, virt := none } := by
  simp only [State.classOf, h, hk]

theorem classOf_programme {t : Option Nat} {id : ProgId} (h : s.binding y = some (i, d)) (hk : d.kind = .programme t id) :
    s.classOf y =
    { binding := some i, kind := .programme, id := some id, disk := some (t.getD d.base + (y - d.base)), ring := none,
      epochStart := none, virt := none } := by
  simp only [State.classOf, h, hk]

theorem classOf_barred (h : s.binding y = some (i, d)) (hk : d.kind = .barred) : s.classOf y =
    { binding := some i, kind := .barred, id := none, disk := none, ring := none, epochStart := none, virt := none } := by
  simp only [State.classOf, h, hk]

theorem classOf_ring {r : Nat} (h : s.binding y = some (i, d)) (hk : d.kind = .ring r) :
    s.classOf y = s.ringSector i r d.base y := by
  simp only [State.classOf, h, hk]

theorem ringSector_idle {r base : Nat} (h : (s.ring r).live = false) : s.ringSector i r base y =
    { binding := some i, kind := .ring, id := none, disk := none, ring := some r, epochStart := none, virt := some (y - base) } := by
  simp [State.ringSector, h]

/-- The epoch of a Live ring at an offset at or above its floor (R10, R48). -/
def Ring.epochAbove (r : Ring) (v : Nat) : Option Epoch := if v < r.floor then none else r.epochAt v

theorem ringSector_live {r base : Nat} (h : (s.ring r).live = true) : s.ringSector i r base y =
    { binding := some i, kind := .ring, id := ((s.ring r).epochAbove (y - base)).map Epoch.id,
      disk := some ((s.ring r).base + (y - base) % (s.ring r).span), ring := some r,
      epochStart := ((s.ring r).epochAbove (y - base)).map Epoch.start, virt := some (y - base) } := by
  by_cases hf : y - base < (s.ring r).floor <;> simp [State.ringSector, Ring.epochAbove, h, hf, Ring.fold]

theorem binding_not_overlay (h : s.binding y = some (i, d)) : d.kind ≠ .overlay :=
  ((binding_eq_some_iff s y i d).1 h).2.2.2.2.1

theorem classOf_binding (s : State) (y : Nat) : (s.classOf y).binding = (s.binding y).map Prod.fst := by
  cases h : s.binding y with
  | none => simp [classOf_unmapped h]
  | some e =>
      obtain ⟨i, d⟩ := e
      cases hk : d.kind with
      | clear t => simp [classOf_clear h hk]
      | programme t id => simp [classOf_programme h hk]
      | ring r => cases hl : (s.ring r).live <;> simp [classOf_ring h hk, ringSector_idle, ringSector_live, hl]
      | barred => simp [classOf_barred h hk]
      | overlay => exact absurd hk (binding_not_overlay h)

theorem binding_eq_of_classOf {z : Nat} (h : (s.classOf y).binding = (s.classOf z).binding) : s.binding y = s.binding z := by
  rw [classOf_binding, classOf_binding] at h
  cases hy : s.binding y with
  | none =>
      rw [hy] at h
      exact (Option.map_eq_none_iff.1 h.symm).symm
  | some e =>
      obtain ⟨i, d⟩ := e
      rw [hy] at h
      obtain ⟨⟨j, d'⟩, hz, hj⟩ := Option.map_eq_some_iff.1 h.symm
      obtain rfl : j = i := hj
      have ha := ((binding_eq_some_iff s y j d).1 hy).2.1
      have ha' := ((binding_eq_some_iff s z j d').1 hz).2.1
      rw [hz, Option.some.inj (ha.symm.trans ha')]

end ClassOf

/-! ## Sectors of one run -/

theorem sameRun_iff (a b : SectorClass) :
    a.sameRun b = true ↔ a.binding = b.binding ∧ a.kind = b.kind ∧ a.epochStart = b.epochStart := by
  simp only [SectorClass.sameRun, Bool.and_eq_true, beq_iff_eq, and_assoc]

theorem sameRun_trans {a b c : SectorClass} (h : a.sameRun b = true) (h' : b.sameRun c = true) : a.sameRun c = true := by
  obtain ⟨h1, h2, h3⟩ := (sameRun_iff a b).1 h
  obtain ⟨g1, g2, g3⟩ := (sameRun_iff b c).1 h'
  exact (sameRun_iff a c).2 ⟨h1.trans g1, h2.trans g2, h3.trans g3⟩

/-- Binding entry, kind and epoch decide the programme id. -/
theorem id_of_sameRun {s : State} {y z : Nat} (h : (s.classOf y).sameRun (s.classOf z) = true) :
    (s.classOf z).id = (s.classOf y).id := by
  obtain ⟨hb, -, he⟩ := (sameRun_iff _ _).1 h
  have hbind := binding_eq_of_classOf hb
  cases hy : s.binding y with
  | none => rw [classOf_unmapped hy, classOf_unmapped (hbind.symm.trans hy)]
  | some e =>
      obtain ⟨i, d⟩ := e
      have hz := hbind.symm.trans hy
      cases hk : d.kind with
      | clear t => rw [classOf_clear hy hk, classOf_clear hz hk]
      | programme t id => rw [classOf_programme hy hk, classOf_programme hz hk]
      | barred => rw [classOf_barred hy hk, classOf_barred hz hk]
      | overlay => exact absurd hk (binding_not_overlay hy)
      | ring r =>
          cases hl : (s.ring r).live
          · rw [classOf_ring hy hk, classOf_ring hz hk, ringSector_idle hl, ringSector_idle hl]
          · rw [classOf_ring hy hk, classOf_ring hz hk, ringSector_live hl, ringSector_live hl] at he ⊢
            cases hey : (s.ring r).epochAbove (y - d.base) with
            | none =>
                rw [hey] at he
                rw [Option.map_eq_none_iff.1 he.symm]
            | some e =>
                rw [hey] at he
                obtain ⟨f, hez, hstart⟩ := Option.map_eq_some_iff.1 he.symm
                have above {v : Nat} {g : Epoch} (hg : (s.ring r).epochAbove v = some g) : (s.ring r).epochAt v = some g := by
                  unfold Ring.epochAbove at hg
                  split at hg
                  · cases hg
                  · exact hg
                rw [hez, epochAt_eq_of_start (above hez) (above hey) hstart]

/-- Sectors with no cut point between them belong to one run. -/
theorem sameRun_of_uncut {s : State} {y z : Nat} (h : s.Uncut y z) : (s.classOf y).sameRun (s.classOf z) = true := by
  have hz := binding_uncut h
  rw [sameRun_iff]
  cases hy : s.binding y with
  | none => simp [classOf_unmapped hy, classOf_unmapped (hz.trans hy)]
  | some e =>
      obtain ⟨i, d⟩ := e
      rw [hy] at hz
      cases hk : d.kind with
      | clear t => simp [classOf_clear hy hk, classOf_clear hz hk]
      | programme t id => simp [classOf_programme hy hk, classOf_programme hz hk]
      | barred => simp [classOf_barred hy hk, classOf_barred hz hk]
      | overlay => exact absurd hk (binding_not_overlay hy)
      | ring r =>
          cases hl : (s.ring r).live
          · simp [classOf_ring hy hk, classOf_ring hz hk, ringSector_idle hl]
          · obtain ⟨hi, ha, hlo, -⟩ := (binding_eq_some_iff s y i d).1 hy
            obtain ⟨hle, hcut⟩ := h
            have hmem : (i, d) ∈ s.activeDefs := mem_activeDefs.2 ⟨hi, ha⟩
            have hfloor := hcut _ (isCut_floor hmem hk)
            have hepoch : (s.ring r).epochAt (z - d.base) = (s.ring r).epochAt (y - d.base) := by
              unfold Ring.epochAt
              refine congrArg List.getLast? (List.filter_congr fun e he => ?_)
              have := hcut _ (isCut_epoch hmem hk he)
              rw [decide_eq_decide]
              omega
            have habove : (s.ring r).epochAbove (z - d.base) = (s.ring r).epochAbove (y - d.base) := by
              unfold Ring.epochAbove
              rw [hepoch]
              refine if_congr ?_ rfl rfl
              omega
            simp [classOf_ring hy hk, classOf_ring hz hk, ringSector_live hl, habove]

/-! ## Stretches -/

/-- Every sector of the stretch belongs to the run of the first. -/
def State.Uniform (s : State) (t : Stretch) : Prop :=
  t.cls = s.classOf t.first ∧ ∀ y, t.first ≤ y → y < t.first + t.count → (s.classOf t.first).sameRun (s.classOf y) = true

theorem joinStretches_cons_nil {p : Stretch} {rest : List Stretch} (h : joinStretches rest = []) :
    joinStretches (p :: rest) = [p] := by
  rw [joinStretches, h]

theorem joinStretches_cons_apart {p q : Stretch} {rest qs : List Stretch} (h : joinStretches rest = q :: qs)
    (hne : p.cls.sameRun q.cls = false) : joinStretches (p :: rest) = p :: q :: qs := by
  simp only [joinStretches, h, hne, cond_false]

theorem joinStretches_cons_same {p q : Stretch} {rest qs : List Stretch} (h : joinStretches rest = q :: qs)
    (heq : p.cls.sameRun q.cls = true) : joinStretches (p :: rest) = { p with count := p.count + q.count } :: qs := by
  simp only [joinStretches, h, heq, cond_true]

/-- Joined stretches tile the same range, each of one run, and no two neighbours of the same (R9). -/
theorem joinStretches_spec {s : State} {x stop : Nat} {l : List Stretch} (h : Tiles Stretch.first Stretch.count x stop l)
    (hu : ∀ t ∈ l, s.Uniform t) :
    Tiles Stretch.first Stretch.count x stop (joinStretches l) ∧ (∀ t ∈ joinStretches l, s.Uniform t)
      ∧ (joinStretches l).IsChain fun a b => a.cls.sameRun b.cls = false := by
  induction l generalizing x with
  | nil => exact ⟨h, hu, List.IsChain.nil⟩
  | cons p rest ih =>
      obtain ⟨hfirst, hcount, hrest⟩ := h
      obtain ⟨htiles, huni, hchain⟩ := ih hrest fun t ht => hu t (List.mem_cons_of_mem _ ht)
      have hp := hu p List.mem_cons_self
      cases hj : joinStretches rest with
      | nil =>
          rw [hj] at htiles
          rw [joinStretches_cons_nil hj]
          exact ⟨⟨hfirst, hcount, htiles⟩, by simpa using hp, List.IsChain.singleton _⟩
      | cons q qs =>
          rw [hj] at htiles huni hchain
          have hq := huni q List.mem_cons_self
          cases hsame : p.cls.sameRun q.cls
          · rw [joinStretches_cons_apart hj hsame]
            refine ⟨⟨hfirst, hcount, htiles⟩, fun t ht => ?_, hchain.cons_cons hsame⟩
            obtain rfl | ht := List.mem_cons.1 ht
            · exact hp
            · exact huni t ht
          · rw [joinStretches_cons_same hj hsame]
            obtain ⟨hqf, hqc, hqs⟩ := htiles
            refine ⟨⟨hfirst, Nat.add_pos_left hcount _, ?_⟩, fun t ht => ?_, ?_⟩
            · show Tiles _ _ (x + (p.count + q.count)) stop qs
              rw [← Nat.add_assoc]
              exact hqs
            · obtain rfl | ht := List.mem_cons.1 ht
              · refine ⟨hp.1, fun y hlo hhi => ?_⟩
                have hlo : p.first ≤ y := hlo
                have hhi : y < p.first + (p.count + q.count) := hhi
                by_cases hy : y < p.first + p.count
                · exact hp.2 y hlo hy
                · refine sameRun_trans ?_ (hq.2 y (by omega) (by omega))
                  rw [← hp.1, ← hq.1]
                  exact hsame
              · exact huni t (List.mem_cons_of_mem _ ht)
            · cases qs with
              | nil => exact List.IsChain.singleton _
              | cons r rs =>
                  obtain ⟨hqr, hrs⟩ := List.isChain_cons_cons.1 hchain
                  refine List.isChain_cons_cons.2 ⟨?_, hrs⟩
                  show p.cls.sameRun r.cls = false
                  refine Bool.eq_false_iff.2 fun hpr => ?_
                  obtain ⟨h1, h2, h3⟩ := (sameRun_iff _ _).1 hsame
                  obtain ⟨g1, g2, g3⟩ := (sameRun_iff _ _).1 hpr
                  rw [(sameRun_iff q.cls r.cls).2 ⟨h1.symm.trans g1, h2.symm.trans g2, h3.symm.trans g3⟩] at hqr
                  cases hqr

/-- The stretches of a command tile its range, are each of one run, and no two neighbours of the same (R9). -/
theorem stretches_spec (s : State) (x : Nat) {n : Nat} (hn : 0 < n) :
    Tiles Stretch.first Stretch.count x (x + n) (s.stretches x n) ∧ (∀ t ∈ s.stretches x n, s.Uniform t)
      ∧ (s.stretches x n).IsChain fun a b => a.cls.sameRun b.cls = false := by
  refine joinStretches_spec ((tiles_pieces s x hn).map _ (fun _ => rfl) fun _ => rfl) fun t ht => ?_
  obtain ⟨p, hp, rfl⟩ := List.mem_map.1 ht
  exact ⟨rfl, fun y hlo hhi => sameRun_of_uncut (uncut_of_piece hn hp hlo hhi)⟩

/-! ## Runs -/

theorem tiles_runsOf {s : State} {b : Option Nat} {x stop : Nat} {l : List Stretch}
    (h : Tiles Stretch.first Stretch.count x stop l) : Tiles Run.first Run.count x stop (s.runsOf b l) := by
  induction l generalizing x b with
  | nil => exact h
  | cons t l ih => exact ⟨h.1, h.2.1, ih h.2.2⟩

/-- The run at a place is that of the stretch there, which knows the ring of the run before it. -/
theorem runsOf_getElem? (s : State) (b : Option Nat) (l : List Stretch) (i : Nat) :
    (s.runsOf b l)[i]? = l[i]?.map (s.runOf (if i = 0 then b else (s.runsOf b l)[i - 1]?.bind Run.ring)) := by
  induction l generalizing b i with
  | nil => rfl
  | cons t l ih =>
      cases i with
      | zero => rfl
      | succ i =>
          show (s.runsOf t.cls.ring l)[i]? = _
          rw [ih, List.getElem?_cons_succ]
          cases i with
          | zero => rfl
          | succ i => rfl

theorem tiles_classify (s : State) (x : Nat) {n : Nat} (hn : 0 < n) :
    Tiles Run.first Run.count x (x + n) (s.classify x n) := tiles_runsOf (stretches_spec s x hn).1

theorem classify_getElem? {s : State} {x n i : Nat} {r : Run} (h : (s.classify x n)[i]? = some r) :
    ∃ t ∈ s.stretches x n, (s.stretches x n)[i]? = some t
      ∧ r = s.runOf (if i = 0 then none else (s.classify x n)[i - 1]?.bind Run.ring) t := by
  unfold State.classify at h ⊢
  rw [runsOf_getElem?] at h
  obtain ⟨t, ht, rfl⟩ := Option.map_eq_some_iff.1 h
  exact ⟨t, List.mem_of_getElem? ht, ht, rfl⟩

/-- What the run of a stretch says of its sectors (R9): they have its binding entry, kind, programme id and epoch, and it takes
disk LBA and ring place from its first. -/
theorem classify_mem {s : State} {x n : Nat} (hn : 0 < n) {r : Run} (h : r ∈ s.classify x n) :
    r.capture = none ∧ r.disk = (s.classOf r.first).disk ∧ r.ring = (s.classOf r.first).ring
      ∧ r.virt = (s.classOf r.first).virt
      ∧ ∀ y, r.first ≤ y → y < r.first + r.count → (s.classOf y).binding = r.binding ∧ (s.classOf y).kind = r.kind
        ∧ (s.classOf y).id = r.id ∧ (s.classOf y).epochStart = r.epochStart := by
  obtain ⟨i, hi⟩ := List.mem_iff_getElem?.1 h
  obtain ⟨t, ht, -, rfl⟩ := classify_getElem? hi
  obtain ⟨hcls, huni⟩ := (stretches_spec s x hn).2.1 t ht
  refine ⟨rfl, congrArg SectorClass.disk hcls, congrArg SectorClass.ring hcls, congrArg SectorClass.virt hcls, fun y hlo hhi => ?_⟩
  have hsame := huni y hlo hhi
  obtain ⟨h1, h2, h3⟩ := (sameRun_iff _ _).1 hsame
  have hid := id_of_sameRun hsame
  show _ = t.cls.binding ∧ _ = t.cls.kind ∧ _ = t.cls.id ∧ _ = t.cls.epochStart
  rw [hcls]
  exact ⟨h1.symm, h2.symm, hid, h3.symm⟩

theorem classify_maximal {s : State} {x n : Nat} (hn : 0 < n) {i : Nat} {r q : Run} (hr : (s.classify x n)[i]? = some r)
    (hq : (s.classify x n)[i + 1]? = some q) : q.binding ≠ r.binding ∨ q.kind ≠ r.kind ∨ q.epochStart ≠ r.epochStart := by
  obtain ⟨t, -, hti, rfl⟩ := classify_getElem? hr
  obtain ⟨u, -, hui, rfl⟩ := classify_getElem? hq
  have hchain := (stretches_spec s x hn).2.2
  obtain ⟨hi1, hu⟩ := List.getElem?_eq_some_iff.1 hui
  obtain ⟨hi0, ht⟩ := List.getElem?_eq_some_iff.1 hti
  have hne := List.isChain_iff_getElem.1 hchain i hi1
  rw [ht, hu] at hne
  show u.cls.binding ≠ t.cls.binding ∨ u.cls.kind ≠ t.cls.kind ∨ u.cls.epochStart ≠ t.cls.epochStart
  by_contra hall
  push Not at hall
  obtain ⟨h1, h2, h3⟩ := hall
  rw [(sameRun_iff t.cls u.cls).2 ⟨h1.symm, h2.symm, h3.symm⟩] at hne
  cases hne

/-! ## Split points (R10) -/

section Split
variable (s : State) (b : Option Nat) (t : Stretch)

theorem runOf_split_none (h : t.cls.ring = none ∨ t.cls.disk = none) : (s.runOf b t).split = none := by
  show s.splitPoint b t = none
  unfold State.splitPoint
  obtain h | h := h
  · rw [h]
  · rw [h]
    split
    next heq => cases heq
    next => rfl

theorem runOf_split {q v : Nat} (hq : t.cls.ring = some q) (hv : t.cls.virt = some v) (hd : t.cls.disk ≠ none) :
    (s.runOf b t).split =
      if (s.ring q).span < v % (s.ring q).span + t.count then some ((s.ring q).span - v % (s.ring q).span)
      else if v % (s.ring q).span = 0 ∧ b = some q then some 0 else none := by
  obtain ⟨d, hd⟩ := Option.ne_none_iff_exists'.1 hd
  show s.splitPoint b t = _
  unfold State.splitPoint
  rw [hq, hv, hd]

end Split

/-! ## The obligation -/

/-- The class of a sector by its binding (R7, R8, R10, R48). -/
theorem classOf_spec (s : State) (y : Nat) (c : SectorClass) (hc : c = s.classOf y) :
    (s.binding y = none → c.binding = none ∧ c.ring = none ∧ c.id = none ∧ c.epochStart = none
          ∧ (s.line.profile.unmapped = .pass → c.kind = .clear ∧ c.disk = some y)
          ∧ (s.line.profile.unmapped = .bar → c.kind = .barred ∧ c.disk = none))
        ∧ ∀ i d, s.binding y = some (i, d) → c.binding = some i
          ∧ (∀ t, d.kind = .clear t → c.kind = .clear ∧ c.id = none ∧ c.ring = none ∧ c.epochStart = none
              ∧ c.disk = some (t.getD d.base + (y - d.base)))
          ∧ (∀ t id, d.kind = .programme t id → c.kind = .programme ∧ c.id = some id ∧ c.ring = none ∧ c.epochStart = none
              ∧ c.disk = some (t.getD d.base + (y - d.base)))
          ∧ (d.kind = .barred → c.kind = .barred ∧ c.id = none ∧ c.ring = none ∧ c.epochStart = none ∧ c.disk = none)
          ∧ ∀ r, d.kind = .ring r → c.kind = .ring ∧ c.ring = some r ∧ c.virt = some (y - d.base)
            ∧ ((s.ring r).live = false → c.disk = none ∧ c.id = none ∧ c.epochStart = none)
            ∧ ((s.ring r).live = true → c.disk = some ((s.ring r).base + (y - d.base) % (s.ring r).span)
              ∧ (y - d.base < (s.ring r).floor → c.id = none ∧ c.epochStart = none)
              ∧ ((s.ring r).floor ≤ y - d.base → ∀ earlier e later, (s.ring r).epochs = earlier ++ e :: later →
                  e.start ≤ y - d.base → (∀ f ∈ later, y - d.base < f.start) → c.id = some e.id ∧ c.epochStart = some e.start)) := by
  subst hc
  refine ⟨fun h => ?_, fun i d h => ⟨by rw [classOf_binding, h]; rfl, fun t hk => ?_, fun t id hk => ?_, fun hk => ?_,
    fun r hk => ?_⟩⟩
  · rw [classOf_unmapped h]
    refine ⟨rfl, rfl, rfl, rfl, fun hp => ?_, fun hb => ?_⟩
    · simp [hp]
    · simp [hb]
  · rw [classOf_clear h hk]
    exact ⟨rfl, rfl, rfl, rfl, rfl⟩
  · rw [classOf_programme h hk]
    exact ⟨rfl, rfl, rfl, rfl, rfl⟩
  · rw [classOf_barred h hk]
    exact ⟨rfl, rfl, rfl, rfl, rfl⟩
  · rw [classOf_ring h hk]
    cases hl : (s.ring r).live
    · rw [ringSector_idle hl]
      exact ⟨rfl, rfl, rfl, fun _ => ⟨rfl, rfl, rfl⟩, nofun⟩
    · rw [ringSector_live hl]
      refine ⟨rfl, rfl, rfl, nofun, fun _ => ⟨rfl, fun hlt => ?_, fun hge earlier e later hsplit hle hlater => ?_⟩⟩
      · simp [Ring.epochAbove, hlt]
      · have hat := (epochAt_eq_some_iff _ _ e).2 ⟨earlier, later, hsplit, hle, hlater⟩
        simp [Ring.epochAbove, Nat.not_lt.2 hge, hat]

/-- The split point of the run at a place (R10). -/
theorem classify_split {s : State} {x n i : Nat} {r : Run} (h : (s.classify x n)[i]? = some r) :
    (r.ring = none ∨ r.disk = none → r.split = none)
      ∧ ∀ q v, r.ring = some q → r.virt = some v → r.disk ≠ none →
        ((s.ring q).span < v % (s.ring q).span + r.count → r.split = some ((s.ring q).span - v % (s.ring q).span))
          ∧ (v % (s.ring q).span + r.count ≤ (s.ring q).span → r.split =
              if v % (s.ring q).span = 0 ∧ 0 < i ∧ (s.classify x n)[i - 1]?.bind Run.ring = some q then some 0
              else none) := by
  obtain ⟨t, -, -, rfl⟩ := classify_getElem? h
  refine ⟨runOf_split_none s _ t, fun q v hq hv hd => ?_⟩
  rw [runOf_split s _ t hq hv hd]
  refine ⟨fun hlt => if_pos hlt, fun hle => ?_⟩
  refine (if_neg (Nat.not_lt.2 hle)).trans ?_
  refine if_congr (and_congr_right fun _ => ?_) rfl rfl
  cases i with
  | zero => simp
  | succ i => simp

/-- Settles O26. -/
theorem sectorClassAndRuns : Obligations.SectorClassAndRuns := by
  refine ⟨classOf_spec, fun s x n hn => ⟨fun r hr => ?_, (tiles_classify s x hn).head? (by omega),
    (tiles_classify s x hn).getLast? (by omega), fun i r q hr hq => ⟨(tiles_classify s x hn).next hr hq, classify_maximal hn hr hq⟩,
    fun i r hr => classify_split hr⟩⟩
  obtain ⟨hcount, hx, hstop⟩ := (tiles_classify s x hn).of_mem hr
  exact ⟨hcount, hx, hstop, classify_mem hn hr⟩

end Sys2Proof.Machine
end

section
/-! SUPPORT. The steps of one record after its keys are captured (R94 to R101): what each leaves of the record, and what it
leaves alone. Every step either ends the walk in a hold, at a refusal or at issue, or passes the record on as it was. -/

namespace Sys2Proof.Machine

/-! ## The record of a key -/

theorem record?_mapRecord {k : RecordKey} {f : Record → Record} (hf : ∀ r, r.key = k → (f r).key = k) (s : State) :
    (mapRecord k f s).record? k = (s.record? k).map f := by
  unfold State.record? mapRecord
  induction s.tracker.records with
  | nil => rfl
  | cons r l ih =>
      by_cases hr : r.key = k
      · simp [hr, hf r hr]
      · simp only [List.map_cons, beq_eq_false_iff_ne.2 hr, cond_false, List.find?_cons]
        exact ih

theorem record?_mapRecord_some {k : RecordKey} {f : Record → Record} (hf : ∀ r, r.key = k → (f r).key = k) {s : State}
    {r : Record} (h : s.record? k = some r) : (mapRecord k f s).record? k = some (f r) := by
  rw [record?_mapRecord hf, h]
  rfl

theorem record?_congr {s t : State} (h : t.tracker.records = s.tracker.records) (k : RecordKey) : t.record? k = s.record? k := by
  unfold State.record?
  rw [h]

@[simp] theorem leaveHolds_records (k : RecordKey) (s : State) : (leaveHolds k s).tracker.records = s.tracker.records := rfl

theorem record?_endHold {k : RecordKey} {s : State} {r : Record} (h : s.record? k = some r) :
    (endHold k s).record? k = some { r with state := .classify, timer := none, awaited := [], waitsFor := [] } :=
  record?_mapRecord_some (f := fun r => { r with state := .classify, timer := none, awaited := [], waitsFor := [] })
    (fun _ e => e) h

theorem record?_refuse {k : RecordKey} {why : HostReason} {s : State} {r : Record} (h : s.record? k = some r) :
    (refuse k why s).record? k =
      some { r with state := .due, timer := none, awaited := [], waitsFor := [], outcome := some (.refused why) } :=
  record?_mapRecord_some (f := fun r => { r with state := .due, timer := none, awaited := [], waitsFor := [], outcome := some (.refused why) })
    (fun _ e => e) h

@[simp] theorem refuse_regions (k : RecordKey) (why : HostReason) (s : State) : (refuse k why s).regions = s.regions := rfl
@[simp] theorem refuse_rings (k : RecordKey) (why : HostReason) (s : State) : (refuse k why s).rings = s.rings := rfl
@[simp] theorem refuse_keys (k : RecordKey) (why : HostReason) (s : State) : (refuse k why s).keys = s.keys := rfl
@[simp] theorem refuse_line (k : RecordKey) (why : HostReason) (s : State) : (refuse k why s).line = s.line := rfl
@[simp] theorem refuse_drive (k : RecordKey) (why : HostReason) (s : State) : (refuse k why s).drive = s.drive := rfl
@[simp] theorem refuse_sendOrder (k : RecordKey) (why : HostReason) (s : State) :
    (refuse k why s).sys.sendOrder = s.sys.sendOrder ++ [.record k] := rfl

/-! ## Withdrawing the keep request -/

/-- The two states differ in the engine at most. -/
def EngineOnly (s t : State) : Prop := t = { s with engine := t.engine }

theorem EngineOnly.refl (s : State) : EngineOnly s s := rfl

theorem EngineOnly.trans {s t u : State} (h : EngineOnly s t) (g : EngineOnly t u) : EngineOnly s u := by
  unfold EngineOnly at h g ⊢
  rw [h] at g
  exact g

theorem EngineOnly.foldl {α : Type} {f : State → α → State} (hf : ∀ s a, EngineOnly s (f s a)) (l : List α) (s : State) :
    EngineOnly s (l.foldl f s) := by
  induction l generalizing s with
  | nil => exact .refl s
  | cons a l ih => exact (hf s a).trans (ih (f s a))

theorem engineOnly_releaseNow (i : Nat) (s : State) : EngineOnly s (releaseNow i s) := by
  unfold releaseNow
  dsimp only
  generalize State.wantsSetAside _ = b
  cases b <;> rfl

/-- Withdrawing the buffer request touches the pool and the request alone (R140). -/
theorem withdrawRequest_eq (s : State) : withdrawRequest s =
    { s with engine := (withdrawRequest s).engine, keep := { s.keep with request := none } } := by
  unfold withdrawRequest
  cases h : s.keep.request with
  | none =>
      show s = { s with engine := s.engine, keep := { s.keep with request := none } }
      rw [← h]
  | some q => exact EngineOnly.foldl (fun s i => engineOnly_releaseNow i s) _ _

section Withdraw
variable (s : State)

@[simp] theorem withdrawRequest_regions : (withdrawRequest s).regions = s.regions := by rw [withdrawRequest_eq]
@[simp] theorem withdrawRequest_keys : (withdrawRequest s).keys = s.keys := by rw [withdrawRequest_eq]
@[simp] theorem withdrawRequest_line : (withdrawRequest s).line = s.line := by rw [withdrawRequest_eq]
@[simp] theorem withdrawRequest_rings : (withdrawRequest s).rings = s.rings := by rw [withdrawRequest_eq]
@[simp] theorem withdrawRequest_drive : (withdrawRequest s).drive = s.drive := by rw [withdrawRequest_eq]
@[simp] theorem withdrawRequest_sys : (withdrawRequest s).sys = s.sys := by rw [withdrawRequest_eq]
@[simp] theorem withdrawRequest_tracker : (withdrawRequest s).tracker = s.tracker := by rw [withdrawRequest_eq]

end Withdraw

/-! ## Ring descriptors at issue and acceptance -/

@[simp] theorem raiseHead_users (r : Ring) (upto : Nat) : (r.raiseHead upto).users = r.users := rfl

theorem issueAccesses_users (k : RecordKey) (r : Ring) : (r.issueAccesses k).users = r.users := by
  unfold Ring.issueAccesses
  cases r.live
  · rfl
  · rw [cond_true]
    generalize (r.accesses.filter fun a => a.record == k && a.write) = l
    refine List.foldlRecOn (motive := fun q : Ring => q.users = r.users) l _ rfl fun q hq a _ => ?_
    rw [raiseHead_users, hq]

theorem issueAccesses_of_no_accesses (k : RecordKey) {r : Ring} (h : r.accesses = []) : r.issueAccesses k = r := by
  unfold Ring.issueAccesses
  rw [h]
  obtain ⟨⟩ := r
  cases h
  simp

theorem ring_congr {s t : State} (h : t.rings = s.rings) (q : Nat) : t.ring q = s.ring q := by
  unfold State.ring
  rw [h]

theorem users_mapRing {r : Nat} {f : Ring → Ring} (hf : ∀ x, (f x).users = x.users) (s : State) (q : Nat) :
    ((mapRing r f s).ring q).users = (s.ring q).users := by
  rw [ring_mapRing]
  split
  next h => rw [hf, h.1]
  next => rfl

theorem users_mapRings {f : Ring → Ring} (hf : ∀ x, (f x).users = x.users) (s : State) (q : Nat) :
    ((mapRings f s).ring q).users = (s.ring q).users := by
  rw [ring_mapRings]
  split
  · rw [hf]
  · rfl

/-! ## What a step leaves -/

/-- The record keeps its command and what its classification captured, the split but for the part tag granted. -/
structure Record.Alike (r x : Record) : Prop where
  key     : x.key = r.key
  kind    : x.kind = r.kind
  host    : x.host = r.host
  count   : x.count = r.count
  frame   : x.frame = r.frame
  image   : x.image = r.image
  split   : untagged x.split = untagged r.split
  counted : x.counted = r.counted
  rings   : x.rings = r.rings
  runs    : x.runs = r.runs

theorem Record.Alike.refl (r : Record) : r.Alike r := ⟨rfl, rfl, rfl, rfl, rfl, rfl, rfl, rfl, rfl, rfl⟩

theorem Record.Alike.trans {r x y : Record} (h : r.Alike x) (g : x.Alike y) : r.Alike y :=
  ⟨g.key.trans h.key, g.kind.trans h.kind, g.host.trans h.host, g.count.trans h.count, g.frame.trans h.frame,
    g.image.trans h.image, g.split.trans h.split, g.counted.trans h.counted, g.rings.trans h.rings, g.runs.trans h.runs⟩

/-- What a step leaves of the state that it passes the record `r` on in, as `x`. -/
structure Passes (k : RecordKey) (r : Record) (s t : State) (x : Record) : Prop where
  record     : t.record? k = some x
  alike      : r.Alike x
  regions    : t.regions = s.regions
  keys       : t.keys = s.keys
  line       : t.line = s.line
  users      : ∀ q, (t.ring q).users = (s.ring q).users
  issueOrder : t.drive.issueOrder = s.drive.issueOrder
  sendOrder  : t.sys.sendOrder = s.sys.sendOrder

/-- Where the walk of a record `r` from step 4 on ends, as `x`: refused, held or issued (R94, R95). -/
structure Walked (k : RecordKey) (r : Record) (s u : State) (x : Record) : Prop where
  record  : u.record? k = some x
  alike   : r.Alike x
  regions : u.regions = s.regions
  keys    : u.keys = s.keys
  line    : u.line = s.line
  users   : ∀ q, (u.ring q).users = (s.ring q).users
  state   : x.state ∈ [RecordState.due, .ringOrder, .overrun, .tagWait, .soleWait, .issued]
  due     : x.state = .due → u.sys.sendOrder = s.sys.sendOrder ++ [.record k]
  notDue  : x.state ≠ .due → u.sys.sendOrder = s.sys.sendOrder
  issued  : s.issuedAs u x

theorem Passes.walked {k : RecordKey} {r x y : Record} {s t u : State} (h : Passes k r s t x) (g : Walked k x t u y) :
    Walked k r s u y where
  record := g.record
  alike := h.alike.trans g.alike
  regions := g.regions.trans h.regions
  keys := g.keys.trans h.keys
  line := g.line.trans h.line
  users q := (g.users q).trans (h.users q)
  state := g.state
  due hd := by rw [g.due hd, h.sendOrder]
  notDue hd := (g.notDue hd).trans h.sendOrder
  issued := by
    have hi := g.issued
    unfold State.issuedAs at hi ⊢
    rw [h.issueOrder] at hi
    exact hi

/-- A step that puts the record in a hold: none of its other fields that the steps look at changes. -/
theorem Walked.of_hold {k : RecordKey} {r x : Record} {s u : State} (hrec : u.record? k = some x) (halike : r.Alike x)
    (hstate : x.state ∈ [RecordState.ringOrder, .overrun, .tagWait, .soleWait]) (hregions : u.regions = s.regions)
    (hkeys : u.keys = s.keys) (hline : u.line = s.line) (hrings : u.rings = s.rings) (hdrive : u.drive = s.drive)
    (hsys : u.sys = s.sys) : Walked k r s u x where
  record := hrec
  alike := halike
  regions := hregions
  keys := hkeys
  line := hline
  users q := by rw [ring_congr hrings]
  state := by
    simp only [List.mem_cons, List.not_mem_nil, or_false] at hstate ⊢
    tauto
  due hd := by simp [hd] at hstate
  notDue _ := by rw [hsys]
  issued := ⟨fun hi => by simp [hi] at hstate, fun _ => by rw [hdrive]⟩

/-! ## Step 9 -/

theorem takeHostTag_eq (k : RecordKey) (s : State) : takeHostTag k s = { s with drive := (takeHostTag k s).drive } := by
  unfold takeHostTag
  cases tagOf k <;> rfl

@[simp] theorem takeHostTag_issueOrder (k : RecordKey) (s : State) :
    (takeHostTag k s).drive.issueOrder = s.drive.issueOrder := by
  unfold takeHostTag
  cases tagOf k <;> rfl

theorem takeHostTag_tagUser {k : RecordKey} {t : Nat} (h : tagOf k = some t) (ht : t < Config.tagCount) (s : State) :
    (takeHostTag k s).tagUser t = some (.hostFirst k) := by
  unfold takeHostTag
  rw [h]
  exact (tagUser_setTag t _ s t).trans (if_pos ⟨rfl, ht⟩)

theorem isData_iff (k : HostKind) :
    k.isData = true ↔ k = .read ∨ k = .soleRead ∨ k = .write ∨ k = .soleWrite := by
  cases k <;> simp [HostKind.isData, HostKind.isRead, HostKind.isWrite]

theorem not_isData_iff (k : HostKind) : k.isData = false ↔ k = .flush ∨ k = .identify ∨ k = .passNoData := by
  cases k <;> simp [HostKind.isData, HostKind.isRead, HostKind.isWrite]

theorem firstCommand_issues (r : Record) : r.issues r.firstCommand := by
  refine ⟨fun im hdata him => ?_, fun hdata => ?_⟩
  · obtain hk | hk | hk | hk := (isData_iff r.kind).1 hdata <;>
      simp [Record.firstCommand, hk, him, freshCommand, HostKind.downOp]
  · obtain hk | hk | hk := (not_isData_iff r.kind).1 hdata <;>
      simp [Record.firstCommand, hk, freshCommand, HostKind.downOp]

theorem issues_congr {r x : Record} (h : r.Alike x) {c : DownCmd} : x.issues c ↔ r.issues c := by
  unfold Record.issues
  rw [h.key, h.kind, h.host, h.frame, h.image]

/-- Step 9 (R101). -/
theorem stepIssue_walked {k : RecordKey} {s : State} {r : Record} (h : s.record? k = some r) :
    Walked k r s (stepIssue k s) { r with state := .issued, part1 := .outstanding } := by
  have hkey := record?_key h
  have hu : stepIssue k s = handOver r.firstCommand (takeHostTag k (mapRings (Ring.issueAccesses k)
      (mapRecord k (fun r => { r with state := .issued, part1 := .outstanding }) s))) := by
    simp only [stepIssue, h]
  rw [hu]
  have hfields : ∀ t : State, (takeHostTag k t).tracker = t.tracker ∧ (takeHostTag k t).regions = t.regions
      ∧ (takeHostTag k t).keys = t.keys ∧ (takeHostTag k t).line = t.line ∧ (takeHostTag k t).rings = t.rings
      ∧ (takeHostTag k t).sys = t.sys := by
    intro t
    rw [takeHostTag_eq]
    exact ⟨rfl, rfl, rfl, rfl, rfl, rfl⟩
  obtain ⟨htracker, hregions, hkeys, hline, hrings, hsys⟩ := hfields (mapRings (Ring.issueAccesses k)
    (mapRecord k (fun r => { r with state := .issued, part1 := .outstanding }) s))
  refine ⟨?_, ⟨rfl, rfl, rfl, rfl, rfl, rfl, rfl, rfl, rfl, rfl⟩, hregions, hkeys, hline, fun q => ?_, by simp, nofun, fun _ => ?_,
    fun _ => ⟨rfl, ⟨r.firstCommand, ?_, firstCommand_issues r⟩, fun t ht hlt => ?_⟩, fun hne => absurd rfl hne⟩
  · refine (record?_congr (congrArg Tracker.records htracker) k).trans ?_
    exact record?_mapRecord_some (f := fun r => { r with state := .issued, part1 := .outstanding }) (fun _ e => e) h
  · exact (congrArg Ring.users (ring_congr hrings q)).trans (users_mapRings (issueAccesses_users k) _ q)
  · exact congrArg (fun p => p.sendOrder) hsys
  · show (takeHostTag k _).drive.issueOrder ++ _ = _
    rw [takeHostTag_issueOrder]
    rfl
  · have hk : tagOf k = some t := by rw [← hkey]; exact ht
    show (takeHostTag k _).tagUser t = some (.hostFirst r.key)
    rw [takeHostTag_tagUser hk hlt, hkey]

/-! ## Steps 8 to 5 -/

/-- Step 8 (R100). -/
theorem stepSoleWait_walked {k : RecordKey} {s : State} {r : Record} (h : s.record? k = some r) :
    ∃ x, Walked k r s (stepSoleWait k s) x := by
  unfold stepSoleWait
  cases hk : k == RecordKey.sole
  · exact ⟨_, stepIssue_walked h⟩
  · have hpass : Passes k r s (withdrawRequest (mapRecord k (fun r => { r with standing := true }) s)) { r with standing := true } := by
      refine ⟨?_, ⟨rfl, rfl, rfl, rfl, rfl, rfl, rfl, rfl, rfl, rfl⟩, ?_, ?_, ?_, fun q => ?_, ?_, ?_⟩
      · refine (record?_congr (congrArg Tracker.records (withdrawRequest_tracker _)) k).trans ?_
        exact record?_mapRecord_some (f := fun r => { r with standing := true }) (fun _ e => e) h
      · rw [withdrawRequest_regions]; rfl
      · rw [withdrawRequest_keys]; rfl
      · rw [withdrawRequest_line]; rfl
      · rw [ring_congr (withdrawRequest_rings _)]; rfl
      · rw [withdrawRequest_drive]; rfl
      · rw [withdrawRequest_sys]; rfl
    simp only [cond_true]
    cases (withdrawRequest (mapRecord k (fun r => { r with standing := true }) s)).keep.chunk.isSome
    · exact ⟨_, hpass.walked (stepIssue_walked hpass.record)⟩
    · exact ⟨_, hpass.walked (Walked.of_hold (record?_mapRecord_some (f := fun r => { r with state := .soleWait }) (fun _ e => e) hpass.record)
        ⟨rfl, rfl, rfl, rfl, rfl, rfl, rfl, rfl, rfl, rfl⟩ (by simp) rfl rfl rfl rfl rfl rfl)⟩

theorem untagged_tagged (p : Option Split) (t : Option Nat) : untagged (p.map fun x => { x with tag := t }) = untagged p := by
  cases p <;> rfl

theorem grantPartTag_passes {k : RecordKey} {s : State} {r : Record} (h : s.record? k = some r) (t : Nat) :
    Passes k r s (grantPartTag k t s) { r with split := r.split.map fun x => { x with tag := some t } } :=
  ⟨record?_mapRecord_some (f := fun r => { r with split := r.split.map fun x => { x with tag := some t } }) (fun _ e => e) h,
    ⟨rfl, rfl, rfl, rfl, rfl, rfl, untagged_tagged _ _, rfl, rfl, rfl⟩, rfl, rfl, rfl, fun _ => rfl, rfl, rfl⟩

/-- Step 7 (R99). -/
theorem stepTagWait_walked {k : RecordKey} {s : State} {r : Record} (h : s.record? k = some r) :
    ∃ x, Walked k r s (stepTagWait k s) x := by
  have hold : ∃ x, Walked k r s
      (holdIn k .tagWait { s with tracker := { s.tracker with tagWait := s.tracker.tagWait ++ [k] } }) x :=
    ⟨_, Walked.of_hold (record?_mapRecord_some (f := fun r => { r with state := .tagWait }) (fun _ e => e) h)
      ⟨rfl, rfl, rfl, rfl, rfl, rfl, rfl, rfl, rfl, rfl⟩ (by simp) rfl rfl rfl rfl rfl rfl⟩
  unfold stepTagWait
  rw [h]
  dsimp only
  cases !(k == .sole) && r.split.isSome
  · exact stepSoleWait_walked h
  · rw [cond_true]
    split
    next t _ _ =>
      obtain ⟨x, hx⟩ := stepSoleWait_walked (grantPartTag_passes h t).record
      exact ⟨x, (grantPartTag_passes h t).walked hx⟩
    next => exact hold

/-- Step 6 (R67). -/
theorem stepOverrun_walked {k : RecordKey} {s : State} {r : Record} (h : s.record? k = some r) :
    ∃ x, Walked k r s (stepOverrun k s) x := by
  unfold stepOverrun
  cases s.blocked k
  · exact stepTagWait_walked h
  · exact ⟨_, Walked.of_hold (record?_mapRecord_some
      (f := fun r => { r with state := .overrun, timer := some (.overrun s.line.profile.overrunMs) }) (fun _ e => e) h)
      ⟨rfl, rfl, rfl, rfl, rfl, rfl, rfl, rfl, rfl, rfl⟩ (by simp) rfl rfl rfl rfl rfl rfl⟩

/-- Step 5 (R64 to R66). -/
theorem stepRingOrder_walked {k : RecordKey} {s : State} {r : Record} (h : s.record? k = some r) :
    ∃ x, Walked k r s (stepRingOrder k s) x := by
  unfold stepRingOrder
  split
  · exact stepOverrun_walked h
  · exact ⟨_, Walked.of_hold (record?_mapRecord_some
      (f := fun r => { r with state := .ringOrder, waitsFor := s.conflictsOf k }) (fun _ e => e) h)
      ⟨rfl, rfl, rfl, rfl, rfl, rfl, rfl, rfl, rfl, rfl⟩ (by simp) rfl rfl rfl rfl rfl rfl⟩

/-! ## Step 4 -/

theorem users_acceptAccess (k : RecordKey) (write : Bool) (s : State) (q : AccessRequest) (p : Nat) :
    ((acceptAccess k write s q).ring p).users = (s.ring p).users :=
  users_mapRing (f := fun r => { r with
    claim := bif write then max r.claim (q.first + q.count) else r.claim
    accesses := r.accesses ++ [{ record := k, write := write, first := q.first, count := q.count, issued := false }] })
    (fun _ => rfl) s p

theorem acceptAccesses_passes {k : RecordKey} {s : State} {r : Record} (h : s.record? k = some r) (write : Bool)
    (qs : List AccessRequest) : Passes k r s (qs.foldl (acceptAccess k write) s) r := by
  induction qs generalizing s with
  | nil => exact ⟨h, .refl r, rfl, rfl, rfl, fun _ => rfl, rfl, rfl⟩
  | cons q qs ih =>
      have g : (acceptAccess k write s q).record? k = some r := h
      obtain ⟨h1, h2, h3, h4, h5, h6, h7, h8⟩ := ih g
      exact ⟨h1, h2, h3, h4, h5, fun p => (h6 p).trans (users_acceptAccess k write s q p), h7, h8⟩

/-! ### The values of a list, each once -/

theorem distinct_foldl_spec {α : Type} [BEq α] [LawfulBEq α] (l acc : List α) :
    ∃ more, l.foldl (fun acc x => bif acc.contains x then acc else acc ++ [x]) acc = acc ++ more
      ∧ (∀ x, x ∈ more ↔ x ∈ l ∧ x ∉ acc) ∧ more.Nodup := by
  induction l generalizing acc with
  | nil => exact ⟨[], by simp⟩
  | cons a l ih =>
      rw [List.foldl_cons]
      cases hc : acc.contains a
      · have ha : a ∉ acc := by simpa using hc
        obtain ⟨more, heq, hmem, hnodup⟩ := ih (acc ++ [a])
        refine ⟨a :: more, ?_, fun x => ?_, ?_⟩
        · rw [cond_false, heq, List.append_assoc]
          rfl
        · rw [List.mem_cons, List.mem_cons, hmem, List.mem_append, List.mem_singleton]
          by_cases hx : x = a
          · subst hx; simp [ha]
          · simp [hx]
        · exact List.nodup_cons.2 ⟨fun h => ((hmem a).1 h).2 (by simp), hnodup⟩
      · have ha : a ∈ acc := by simpa using hc
        obtain ⟨more, heq, hmem, hnodup⟩ := ih acc
        refine ⟨more, by rw [cond_true, heq], fun x => ?_, hnodup⟩
        rw [hmem, List.mem_cons]
        constructor
        · rintro ⟨h1, h2⟩
          exact ⟨.inr h1, h2⟩
        · rintro ⟨rfl | h1, h2⟩
          · exact absurd ha h2
          · exact ⟨h1, h2⟩

@[simp] theorem mem_distinct {α : Type} [BEq α] [LawfulBEq α] (l : List α) (x : α) : x ∈ distinct l ↔ x ∈ l := by
  obtain ⟨more, heq, hmem, -⟩ := distinct_foldl_spec l []
  unfold distinct
  rw [heq, List.nil_append, hmem]
  simp

theorem distinct_nodup {α : Type} [BEq α] [LawfulBEq α] (l : List α) : (distinct l).Nodup := by
  obtain ⟨more, heq, -, hnodup⟩ := distinct_foldl_spec l []
  unfold distinct
  rw [heq, List.nil_append]
  exact hnodup

/-- Step 4 (R56): a record that is not refused has no run of an Idle ring. -/
theorem stepAccept_walked {k : RecordKey} {s : State} {r : Record} (h : s.record? k = some r) :
    ∃ x, Walked k r s (stepAccept k s) x
      ∧ (x.state ≠ .due → ∀ run ∈ r.runs, run.ring ≠ none → run.disk ≠ none) := by
  unfold stepAccept
  rw [h]
  dsimp only
  split
  next why _ =>
    refine ⟨_, ⟨record?_refuse h, ⟨rfl, rfl, rfl, rfl, rfl, rfl, rfl, rfl, rfl, rfl⟩, rfl, rfl, rfl, fun _ => rfl, by simp, fun _ => rfl,
      fun hne => absurd rfl hne, nofun, fun _ => rfl⟩, fun hne => absurd rfl hne⟩
  next hpassed =>
    have hpass := acceptAccesses_passes h r.kind.isWrite (accessesOf r.runs)
    obtain ⟨x, hx⟩ := stepRingOrder_walked hpass.record
    refine ⟨x, hpass.walked hx, fun _ run hrun hring hdisk => ?_⟩
    obtain ⟨q, hq⟩ := Option.ne_none_iff_exists'.1 hring
    have hmem : accessOn r.runs q ∈ accessesOf r.runs :=
      List.mem_map.2 ⟨q, (mem_distinct _ _).2 (List.mem_filterMap.2 ⟨run, hrun, hq⟩), rfl⟩
    have hfail := List.findSome?_eq_none_iff.1 hpassed _ hmem
    have hidle : (accessOn r.runs q).idle = true :=
      List.any_eq_true.2 ⟨run, List.mem_filter.2 ⟨hrun, by simp [hq]⟩, by simp [hdisk]⟩
    simp [State.accessFailure, hidle] at hfail

end Sys2Proof.Machine
end

section
/-! SUPPORT. The key lookup: what the Key Table answers for an id under its law (R26, R35), the ids of a command's runs in the
order of their first appearance (R36), and step 3 with the hold KeyWait. -/

namespace Sys2Proof.Machine

/-! ## Classification looks at the map, the rings, the profile and the Keep Queue -/

/-- The states agree on what classification and lookup look at. -/
structure SameView (s t : State) : Prop where
  entries : t.regions.entries = s.regions.entries
  rings   : t.rings = s.rings
  line    : t.line = s.line
  keys    : t.keys = s.keys
  queue   : t.keep.queue = s.keep.queue

section SameView
variable {s t : State} (h : SameView s t)
include h

theorem SameView.activeDefs : t.activeDefs = s.activeDefs := by
  unfold State.activeDefs
  rw [h.entries]

theorem SameView.matching (y : Nat) : t.matching y = s.matching y := by
  unfold State.matching
  rw [h.activeDefs]

theorem SameView.binding (y : Nat) : t.binding y = s.binding y := by
  unfold State.binding
  rw [h.matching]

theorem SameView.ring (q : Nat) : t.ring q = s.ring q := ring_congr h.rings q

theorem SameView.slot (i : Nat) : t.slot i = s.slot i := by
  unfold State.slot
  rw [h.keys]

theorem SameView.classOf (y : Nat) : t.classOf y = s.classOf y := by
  unfold State.classOf State.ringSector
  simp only [h.binding, h.line, h.ring]

theorem SameView.pieces (x n : Nat) : t.pieces x n = s.pieces x n := by
  unfold State.pieces State.cutPoints State.cutsOf
  simp only [h.activeDefs, h.ring]

theorem SameView.stretches (x n : Nat) : t.stretches x n = s.stretches x n := by
  unfold State.stretches
  simp only [h.pieces, h.classOf]

theorem SameView.runsOf (b : Option Nat) (l : List Stretch) : t.runsOf b l = s.runsOf b l := by
  induction l generalizing b with
  | nil => rfl
  | cons p l ih =>
      have hrun : t.runOf b p = s.runOf b p := by
        unfold State.runOf State.splitPoint
        simp only [h.ring]
      rw [State.runsOf, State.runsOf, ih, hrun]

theorem SameView.classify (x n : Nat) : t.classify x n = s.classify x n := by
  unfold State.classify
  rw [h.stretches, h.runsOf]

theorem SameView.diskEnd (r : Run) : t.diskEnd r = s.diskEnd r := by
  unfold State.diskEnd State.ringBase
  simp only [h.ring]

theorem SameView.allJoin (l : List Run) : t.allJoin l = s.allJoin l := by
  induction l with
  | nil => rfl
  | cons a l ih =>
      cases l with
      | nil => rfl
      | cons b l =>
          rw [State.allJoin, State.allJoin, ih]
          unfold State.joins State.ringTop
          simp only [h.diskEnd, h.ring]

theorem SameView.wrapOf (l : List Run) : t.wrapOf l = s.wrapOf l := by
  induction l with
  | nil => rfl
  | cons a l ih =>
      rw [State.wrapOf, State.wrapOf, ih]
      unfold State.ringBase
      simp only [h.ring]

theorem SameView.imageOf (l : List Run) (n : Nat) : t.imageOf l n = s.imageOf l n := by
  unfold State.imageOf
  rw [h.wrapOf]

theorem SameView.matchedEntries (x n : Nat) : t.matchedEntries x n = s.matchedEntries x n := by
  unfold State.matchedEntries
  rw [h.activeDefs]

theorem SameView.meetsStaged (x n : Nat) : t.meetsStaged x n = s.meetsStaged x n := by
  unfold State.meetsStaged
  rw [h.entries]

theorem SameView.classified (r : Record) : r.classified t = r.classified s := by
  unfold Record.classified
  simp only [h.classify, h.imageOf, h.matchedEntries]

theorem SameView.classifyFailure (write : Bool) (x n : Nat) (l : List Run) :
    t.classifyFailure write x n l = s.classifyFailure write x n l := by
  have hbarred : t.barredRange write x n = s.barredRange write x n := by
    unfold State.barredRange State.writeBarred State.readBarred State.barredSector
    simp only [h.pieces, h.binding, h.matching, h.line]
  have hbusy : t.busyRange x n = s.busyRange x n := by
    unfold State.busyRange
    rw [h.queue]
  have hshielded : t.shielded = s.shielded := by
    funext r
    unfold State.shielded State.diskRanges State.meetsSpan State.ringTop State.ringBase
    simp only [h.ring]
  unfold State.classifyFailure
  rw [hbarred, hbusy, hshielded, h.allJoin]

end SameView

section SameKeys
variable {s t : State} (h : t.keys = s.keys)
include h

theorem lookup_congr (id : ProgId) : t.lookup id = s.lookup id := by
  unfold State.lookup State.slotOf
  rw [h]

theorem lookupRuns_congr (l : List Run) : t.lookupRuns l = s.lookupRuns l := by
  unfold State.lookupRuns
  simp only [lookup_congr h]

theorem captureRuns_congr (l : List Run) : t.captureRuns l = s.captureRuns l := by
  unfold State.captureRuns
  simp only [lookup_congr h]

end SameKeys

/-! ## The lookup of one id (R35) -/

section Lookup
variable {s : State} {id : ProgId}

theorem lookup_of_not_holds (h : ¬ s.holds id) : s.lookup id = if s.keys.lockdown = true then .locked else .miss := by
  rw [State.lookup, (slotOf_eq_none_iff s id).2 h]
  cases s.keys.lockdown <;> rfl

theorem lookup_of_live (law : s.KeyTableLaw) {i : Nat} (hi : i < Config.slotCount) {key : Key} {cls : KeepClass}
    {d : Option Nat} (h : (s.slot i).content = .live id key cls d) :
    s.lookup id = .captured { slot := i, generation := (s.slot i).generation } := by
  simp only [State.lookup, slotOf_eq_of_law law hi (id := id) (by rw [h]; rfl), h]

theorem lookup_of_expired (law : s.KeyTableLaw) {i : Nat} (hi : i < Config.slotCount) {cls : KeepClass} {d : Option Nat}
    (h : (s.slot i).content = .expired id cls d) : s.lookup id = .expired := by
  simp only [State.lookup, slotOf_eq_of_law law hi (id := id) (by rw [h]; rfl), h]

theorem lookup_eq_miss_iff : s.lookup id = .miss ↔ ¬ s.holds id ∧ s.keys.lockdown = false := by
  by_cases h : s.holds id
  · obtain ⟨⟨i, x⟩, hx⟩ := Option.isSome_iff_exists.1 ((slotOf_isSome_iff s id).2 h)
    have : s.lookup id ≠ .miss := by
      rw [State.lookup, hx]
      dsimp only
      split <;> nofun
    simp [this, h]
  · rw [lookup_of_not_holds h]
    cases s.keys.lockdown <;> simp [h]

theorem lookup_eq_locked_iff : s.lookup id = .locked ↔ ¬ s.holds id ∧ s.keys.lockdown = true := by
  by_cases h : s.holds id
  · obtain ⟨⟨i, x⟩, hx⟩ := Option.isSome_iff_exists.1 ((slotOf_isSome_iff s id).2 h)
    have : s.lookup id ≠ .locked := by
      rw [State.lookup, hx]
      dsimp only
      split <;> nofun
    simp [this, h]
  · rw [lookup_of_not_holds h]
    cases s.keys.lockdown <;> simp [h]

theorem lookup_eq_captured_of_liveAs (law : s.KeyTableLaw) {c : Capture} (h : s.liveAs id c) : s.lookup id = .captured c := by
  obtain ⟨hi, hgen, key, cls, d, hc⟩ := h
  rw [lookup_of_live law hi hc, hgen]

theorem lookup_eq_expired_iff (law : s.KeyTableLaw) : s.lookup id = .expired ↔ s.expiredId id := by
  constructor
  · intro h
    by_cases hh : s.holds id
    · obtain ⟨i, hi, hid⟩ := hh
      cases hc : (s.slot i).content with
      | empty => rw [hc] at hid; cases hid
      | live p key cls d =>
          rw [hc] at hid
          cases hid
          rw [lookup_of_live law hi hc] at h
          cases h
      | expired p cls d =>
          rw [hc] at hid
          cases hid
          exact ⟨i, hi, cls, d, hc⟩
    · rw [lookup_of_not_holds hh] at h
      split at h <;> cases h
  · rintro ⟨i, hi, cls, d, hc⟩
    exact lookup_of_expired law hi hc

end Lookup

/-! ## The ids of a command's runs -/

theorem distinct_append_singleton {α : Type} [BEq α] [LawfulBEq α] (l : List α) (a : α) [Decidable (a ∈ l)] :
    distinct (l ++ [a]) = if a ∈ l then distinct l else distinct l ++ [a] := by
  have hmem := mem_distinct l a
  unfold distinct at hmem ⊢
  rw [List.foldl_append, List.foldl_cons, List.foldl_nil]
  split
  next h => rw [List.contains_iff_mem.2 (hmem.2 h), cond_true]
  next h => rw [Bool.eq_false_iff.2 fun hc => h (hmem.1 (List.contains_iff_mem.1 hc)), cond_false]

/-- The values of a list, each once, stand in the order of their first appearance. -/
theorem distinct_pairwise {α : Type} [BEq α] [LawfulBEq α] [DecidableEq α] (l : List α) :
    (distinct l).Pairwise fun p q => ∃ pre post, l = pre ++ p :: post ∧ q ∉ pre ∧ q ≠ p := by
  induction l using List.reverseRecOn with
  | nil => exact List.Pairwise.nil
  | append_singleton l a ih =>
      have hgrow : (distinct l).Pairwise fun p q => ∃ pre post, l ++ [a] = pre ++ p :: post ∧ q ∉ pre ∧ q ≠ p := by
        refine ih.imp ?_
        rintro p q ⟨pre, post, rfl, hq, hne⟩
        exact ⟨pre, post ++ [a], by simp, hq, hne⟩
      rw [distinct_append_singleton]
      split
      next => exact hgrow
      next ha =>
        refine List.pairwise_append.2 ⟨hgrow, List.pairwise_singleton _ _, fun p hp q hq => ?_⟩
        obtain rfl := List.mem_singleton.1 hq
        obtain ⟨pre, post, rfl⟩ := List.append_of_mem ((mem_distinct l p).1 hp)
        refine ⟨pre, post ++ [q], by simp, fun h => ha (by simp [h]), fun h => ha (by simp [h])⟩

theorem mem_protectedIds {l : List Run} {id : ProgId} : id ∈ protectedIds l ↔ ∃ r ∈ l, r.protectedId = some id := by
  rw [protectedIds, mem_distinct, List.mem_filterMap]

theorem protectedIds_nodup (l : List Run) : (protectedIds l).Nodup := distinct_nodup _

/-- The id of a run is that of each of its sectors. -/
theorem protectedId_of_run {s : State} {x n : Nat} (hn : 0 < n) {r : Run} (hr : r ∈ s.classify x n) {y : Nat} (hlo : r.first ≤ y)
    (hhi : y < r.first + r.count) : (s.classOf y).protectedId = r.protectedId := by
  obtain ⟨-, -, -, -, hsame⟩ := classify_mem hn hr
  obtain ⟨-, hkind, hid, -⟩ := hsame y hlo hhi
  unfold SectorClass.protectedId Run.protectedId
  rw [hkind, hid]
  cases r.kind <;> rfl

theorem mem_protectedIds_classify {s : State} {x n : Nat} (hn : 0 < n) {id : ProgId} :
    id ∈ protectedIds (s.classify x n) ↔ s.needs x n id := by
  rw [mem_protectedIds]
  constructor
  · rintro ⟨r, hr, hid⟩
    obtain ⟨hcount, hx, hstop⟩ := (tiles_classify s x hn).of_mem hr
    exact ⟨r.first, hx, by omega, (protectedId_of_run hn hr (Nat.le_refl _) (by omega)).trans hid⟩
  · rintro ⟨y, hx, hy, hid⟩
    obtain ⟨r, hr, hlo, hhi⟩ := (tiles_classify s x hn).covers hx hy
    exact ⟨r, hr, (protectedId_of_run hn hr hlo hhi).symm.trans hid⟩

theorem Tiles.left {α : Type} {first count : α → Nat} {x stop : Nat} {l₁ l₂ : List α} {p : α}
    (h : Tiles first count x stop (l₁ ++ p :: l₂)) : Tiles first count x (first p) l₁ := by
  induction l₁ generalizing x with
  | nil => exact h.1.symm
  | cons q l₁ ih => exact ⟨h.1, h.2.1, ih h.2.2⟩

/-- The one id appears among the sectors from `x` on before the other does. -/
def State.appearsBefore (s : State) (x : Nat) (p q : ProgId) : Prop :=
  ∃ y, x ≤ y ∧ (s.classOf y).protectedId = some p ∧ ∀ z, x ≤ z → z ≤ y → (s.classOf z).protectedId ≠ some q

theorem appearsBefore_asymm {s : State} {x : Nat} {p q : ProgId} (h : s.appearsBefore x p q) (g : s.appearsBefore x q p) : False := by
  obtain ⟨y, hy, hp, hq⟩ := h
  obtain ⟨z, hz, gq, gp⟩ := g
  obtain hle | hle := Nat.le_total y z
  · exact gp y hy hle hp
  · exact hq z hz hle gq

theorem protectedIds_pairwise {s : State} {x n : Nat} (hn : 0 < n) :
    (protectedIds (s.classify x n)).Pairwise (s.appearsBefore x) := by
  refine (distinct_pairwise _).imp ?_
  rintro p q ⟨pre, post, hsplit, hpre, hne⟩
  obtain ⟨l₁, l₂, hruns, hl₁, hl₂⟩ := List.filterMap_eq_append_iff.1 hsplit
  obtain ⟨m₁, r, m₂, rfl, hm₁, hr, -⟩ := List.filterMap_eq_cons_iff.1 hl₂
  rw [← List.append_assoc] at hruns
  have htiles := tiles_classify s x hn
  have hmem : r ∈ s.classify x n := by rw [hruns]; simp
  obtain ⟨hcount, hx, -⟩ := htiles.of_mem hmem
  refine ⟨r.first, hx, (protectedId_of_run hn hmem (Nat.le_refl _) (by omega)).trans hr, fun z hxz hz hid => ?_⟩
  obtain rfl | hlt := Nat.eq_or_lt_of_le hz
  · rw [protectedId_of_run hn hmem (Nat.le_refl _) (by omega), hr] at hid
    exact hne (Option.some.inj hid).symm
  · rw [hruns] at htiles
    obtain ⟨r', hr', hlo, hhi⟩ := htiles.left.covers hxz hlt
    have hmem' : r' ∈ s.classify x n := by rw [hruns]; exact List.mem_append_left _ hr'
    rw [protectedId_of_run hn hmem' hlo hhi] at hid
    obtain hr' | hr' := List.mem_append.1 hr'
    · refine hpre ?_
      rw [← hl₁]
      exact List.mem_filterMap.2 ⟨r', hr', hid⟩
    · rw [hm₁ r' hr'] at hid
      cases hid

/-- The new ids of a command that misses are those of its runs that no slot holds and the Miss List does not (R36). -/
theorem newIds_eq {s : State} {x n : Nat} (hn : 0 < n) (hopen : s.keys.lockdown = false) {new : List ProgId} (h : s.newIds x n new) :
    ((protectedIds (s.classify x n)).filter fun id => s.lookup id == .miss).filter
      (fun id => !(s.keys.missList.contains id)) = new := by
  obtain ⟨hnodup, hmem, hpair⟩ := h
  refine List.Perm.eq_of_pairwise (le := s.appearsBefore x) (fun p q _ _ h g => (appearsBefore_asymm h g).elim)
    (((protectedIds_pairwise hn).filter _).filter _) hpair ?_
  refine (List.perm_ext_iff_of_nodup (((protectedIds_nodup _).filter _).filter _) hnodup).2 fun id => ?_
  rw [hmem, List.mem_filter, List.mem_filter, mem_protectedIds_classify hn, beq_iff_eq, lookup_eq_miss_iff, hopen]
  simp [and_assoc]

/-! ## Captures -/

theorem captureRuns_uncaptured (s : State) (l : List Run) :
    (s.captureRuns l).map Run.uncaptured = l.map Run.uncaptured := by
  unfold State.captureRuns
  rw [List.map_map]
  refine List.map_congr_left fun r _ => ?_
  rw [Function.comp_apply]
  split
  · rfl
  · split <;> rfl

theorem captureRuns_capture {s : State} {l : List Run} {r : Run} (hr : r ∈ s.captureRuns l) {id : ProgId} {c : Capture}
    (hid : r.protectedId = some id) (hc : s.lookup id = .captured c) : r.capture = some c := by
  obtain ⟨r', -, rfl⟩ := List.mem_map.1 hr
  have hsame : r'.protectedId = some id := by
    rw [← hid]
    split
    · rfl
    · split <;> rfl
  simp [hsame, hc]

end Sys2Proof.Machine
end

section
/-! SUPPORT. Where the sectors of a command stand on the disk (R10, R11). The layout of a run says it sector by sector, with the
one wrap that a run of a ring may have; from it the Discontiguous and Shielded tests and the downstream image are read off the
sectors. -/

namespace Sys2Proof.Machine

/-! ## Sectors of one binding -/

section Shift
variable {s : State} {y z : Nat}

theorem binding_le {i : Nat} {d : Definition} (h : s.binding y = some (i, d)) : d.base ≤ y :=
  ((binding_eq_some_iff s y i d).1 h).2.2.1

/-- Sectors of one binding are of one ring, and both have a disk LBA or neither. -/
theorem ring_of_binding (h : s.binding z = s.binding y) :
    (s.classOf z).ring = (s.classOf y).ring ∧ ((s.classOf z).disk = none ↔ (s.classOf y).disk = none) := by
  cases hy : s.binding y with
  | none =>
      rw [classOf_unmapped hy, classOf_unmapped (h.trans hy)]
      refine ⟨rfl, ?_⟩
      dsimp only
      split <;> simp
  | some e =>
      obtain ⟨i, d⟩ := e
      have hz := h.trans hy
      cases hk : d.kind with
      | clear t => simp [classOf_clear hy hk, classOf_clear hz hk]
      | programme t id => simp [classOf_programme hy hk, classOf_programme hz hk]
      | barred => simp [classOf_barred hy hk, classOf_barred hz hk]
      | overlay => exact absurd hk (binding_not_overlay hy)
      | ring r =>
          rw [classOf_ring hy hk, classOf_ring hz hk]
          cases hl : (s.ring r).live
          · simp [ringSector_idle hl]
          · simp [ringSector_live hl]

/-- Sectors of one binding that have a disk LBA: they lie on the disk as they lie in the host's space, or modulo the span of
their Live ring. -/
theorem disk_shift (h : s.binding z = s.binding y) (hle : y ≤ z) {d : Nat} (hd : (s.classOf y).disk = some d) :
    ((s.classOf y).ring = none ∧ (s.classOf z).disk = some (d + (z - y)))
      ∨ ∃ q v, (s.ring q).live = true ∧ (s.classOf y).ring = some q ∧ (s.classOf y).virt = some v
        ∧ d = (s.ring q).base + v % (s.ring q).span
        ∧ (s.classOf z).disk = some ((s.ring q).base + (v + (z - y)) % (s.ring q).span) := by
  cases hy : s.binding y with
  | none =>
      rw [classOf_unmapped hy] at hd ⊢
      rw [classOf_unmapped (h.trans hy)]
      dsimp only at hd ⊢
      split at hd
      next => cases hd
      next hp =>
        cases hd
        exact .inl ⟨rfl, by rw [if_neg hp, Nat.add_sub_cancel' hle]⟩
  | some e =>
      obtain ⟨i, f⟩ := e
      have hz := h.trans hy
      have hbase := binding_le hy
      cases hk : f.kind with
      | clear t =>
          rw [classOf_clear hy hk] at hd ⊢
          rw [classOf_clear hz hk]
          cases hd
          exact .inl ⟨rfl, congrArg some (by omega)⟩
      | programme t id =>
          rw [classOf_programme hy hk] at hd ⊢
          rw [classOf_programme hz hk]
          cases hd
          exact .inl ⟨rfl, congrArg some (by omega)⟩
      | barred => rw [classOf_barred hy hk] at hd; cases hd
      | overlay => exact absurd hk (binding_not_overlay hy)
      | ring r =>
          rw [classOf_ring hy hk] at hd ⊢
          rw [classOf_ring hz hk]
          cases hl : (s.ring r).live
          · rw [ringSector_idle hl] at hd
            cases hd
          · rw [ringSector_live hl] at hd ⊢
            rw [ringSector_live hl]
            cases hd
            refine .inr ⟨r, y - f.base, hl, rfl, rfl, rfl, ?_⟩
            rw [show z - f.base = y - f.base + (z - y) by omega]

/-- A sector of a Live ring has a disk LBA (R10). -/
theorem disk_of_live_ring {q : Nat} (h : (s.classOf y).ring = some q) (hlive : (s.ring q).live = true) :
    (s.classOf y).disk ≠ none := by
  cases hy : s.binding y with
  | none => rw [classOf_unmapped hy] at h; cases h
  | some e =>
      obtain ⟨i, f⟩ := e
      cases hk : f.kind with
      | clear t => rw [classOf_clear hy hk] at h; cases h
      | programme t id => rw [classOf_programme hy hk] at h; cases h
      | barred => rw [classOf_barred hy hk] at h; cases h
      | overlay => exact absurd hk (binding_not_overlay hy)
      | ring r =>
          rw [classOf_ring hy hk] at h ⊢
          cases hl : (s.ring r).live
          · rw [ringSector_idle hl] at h
            cases h
            rw [hl] at hlive
            cases hlive
          · rw [ringSector_live hl]
            nofun

/-- A sector without a ring and without a disk LBA is Barred (R5, R7). -/
theorem barred_of_no_disk (hr : (s.classOf y).ring = none) (hd : (s.classOf y).disk = none) (write : Bool) :
    s.sectorBarred write y := by
  cases hy : s.binding y with
  | none =>
      rw [classOf_unmapped hy] at hd
      dsimp only at hd
      split at hd
      next hp => exact .inr (.inr ⟨hy, hp⟩)
      next => cases hd
  | some e =>
      obtain ⟨i, f⟩ := e
      cases hk : f.kind with
      | clear t => rw [classOf_clear hy hk] at hd; cases hd
      | programme t id => rw [classOf_programme hy hk] at hd; cases hd
      | barred => exact .inr (.inl ⟨i, f, hy, hk⟩)
      | overlay => exact absurd hk (binding_not_overlay hy)
      | ring r =>
          rw [classOf_ring hy hk] at hr
          cases hl : (s.ring r).live
          · rw [ringSector_idle hl] at hr; cases hr
          · rw [ringSector_live hl] at hr; cases hr

end Shift

theorem span_ge_of_live {s : State} (law : s.RingLaw) {q : Nat} (h : (s.ring q).live = true) : 131072 ≤ (s.ring q).span := by
  obtain ⟨⟨hlive, -⟩, hshape, -⟩ := law q (ring_lt_of_live h)
  have hspan := (hlive h).2.2.2.2.2.2.1
  unfold Ring.ShapeLaw shapeFits at hshape
  rw [if_neg (by omega)] at hshape
  simp only [Bool.and_eq_true, decide_eq_true_eq] at hshape
  exact hshape.1.1.1.1.1.2

theorem add_mod_of_lt (v : Nat) {k p : Nat} (h : k < p) : (v + k) % p = if v % p + k < p then v % p + k else v % p + k - p := by
  rw [Nat.add_mod_eq_ite, Nat.mod_eq_of_lt h]
  by_cases hk : v % p + k < p
  · rw [if_pos hk, if_neg (Nat.not_le.2 hk)]
  · rw [if_neg hk, if_pos (Nat.not_lt.1 hk)]

theorem ringBase_eq {s : State} {r : Run} {q : Nat} (h : r.ring = some q) : s.ringBase r = (s.ring q).base := by
  rw [State.ringBase, h, Option.getD_some]

theorem ringTop_eq {s : State} {r : Run} {q : Nat} (h : r.ring = some q) :
    s.ringTop r = (s.ring q).base + (s.ring q).span := by
  rw [State.ringTop, h, Option.getD_some]

/-! ## The layout of a run -/

/-- How the sectors of a run with a disk LBA lie on the disk (R8, R10). -/
inductive Run.Layout (s : State) (r : Run) (d : Nat) : Prop where
  | plain (ring : r.ring = none) (split : r.split = none)
      (disk : ∀ k < r.count, (s.classOf (r.first + k)).disk = some (d + k)) : Run.Layout s r d
  | inSpan (q : Nat) (live : (s.ring q).live = true) (ring : r.ring = some q) (split : r.split = none ∨ r.split = some 0)
      (base : (s.ring q).base ≤ d)
      (disk : ∀ k < r.count, (s.classOf (r.first + k)).disk = some (d + k)) : Run.Layout s r d
  | wraps (q m : Nat) (live : (s.ring q).live = true) (ring : r.ring = some q) (split : r.split = some (m + 1))
      (inside : m + 1 < r.count) (base : (s.ring q).base ≤ d) (top : d + (m + 1) = (s.ring q).base + (s.ring q).span)
      (before : ∀ k ≤ m, (s.classOf (r.first + k)).disk = some (d + k))
      (after : ∀ k, m < k → k < r.count → (s.classOf (r.first + k)).disk = some ((s.ring q).base + (k - (m + 1)))) :
      Run.Layout s r d

section Runs
variable {s : State} {x n : Nat} (hn : 0 < n)

section OneRun
variable {r : Run} (hr : r ∈ s.classify x n)
include hn hr

theorem run_count_pos : 0 < r.count := ((tiles_classify s x hn).of_mem hr).1

theorem binding_of_run {k : Nat} (hk : k < r.count) : s.binding (r.first + k) = s.binding r.first := by
  obtain ⟨-, -, -, -, hsame⟩ := classify_mem hn hr
  refine binding_eq_of_classOf ?_
  rw [(hsame _ (Nat.le_add_right _ _) (by omega)).1, (hsame _ (Nat.le_refl _) (by omega)).1]

theorem ring_of_run {k : Nat} (hk : k < r.count) : (s.classOf (r.first + k)).ring = r.ring := by
  rw [(ring_of_binding (binding_of_run hn hr hk)).1, (classify_mem hn hr).2.2.1]

theorem disk_none_of_run {k : Nat} (hk : k < r.count) : (s.classOf (r.first + k)).disk = none ↔ r.disk = none := by
  rw [(ring_of_binding (binding_of_run hn hr hk)).2, (classify_mem hn hr).2.1]

/-- Every run with a disk LBA has a layout: a run is shorter than the span of its ring, so it wraps once at most. -/
theorem layout_of_run (hlim : n ≤ 65536) (law : s.RingLaw) {d : Nat} (hd : r.disk = some d) : r.Layout s d := by
  obtain ⟨hpos, -, hstop⟩ := (tiles_classify s x hn).of_mem hr
  obtain ⟨-, hdisk, hring, hvirt, -⟩ := classify_mem hn hr
  have hlo := ((tiles_classify s x hn).of_mem hr).2.1
  rw [hdisk] at hd
  have hshift (k : Nat) (hk : k < r.count) := disk_shift (binding_of_run hn hr hk) (Nat.le_add_right _ _) hd
  simp only [Nat.add_sub_cancel_left] at hshift
  obtain ⟨i, hi⟩ := List.mem_iff_getElem?.1 hr
  obtain ⟨hsplitNone, hsplit⟩ := classify_split hi
  obtain ⟨hnoring, -⟩ | ⟨q, v, hlive, hq, hv, hdv, -⟩ := hshift 0 hpos
  · have hnone : r.ring = none := hring.trans hnoring
    refine .plain hnone (hsplitNone (.inl hnone)) fun k hk => ?_
    obtain ⟨-, h⟩ | ⟨q, v, -, hq, -⟩ := hshift k hk
    · exact h
    · rw [hnoring] at hq; cases hq
  · have hspan := span_ge_of_live law hlive
    have hdiskAt (k : Nat) (hk : k < r.count) :
        (s.classOf (r.first + k)).disk = some ((s.ring q).base + (v + k) % (s.ring q).span) := by
      obtain ⟨hnone, -⟩ | ⟨q', v', -, hq', hv', -, h⟩ := hshift k hk
      · rw [hq] at hnone; cases hnone
      · obtain rfl := Option.some.inj (hq.symm.trans hq')
        obtain rfl := Option.some.inj (hv.symm.trans hv')
        exact h
    have hmod := Nat.mod_lt v (show 0 < (s.ring q).span by omega)
    have hadd (k : Nat) (hk : k < r.count) := add_mod_of_lt v (show k < (s.ring q).span by omega)
    obtain ⟨hover, hfit⟩ := hsplit q v (hring.trans hq) (hvirt.trans hv) (by rw [hdisk, hd]; nofun)
    by_cases hlt : (s.ring q).span < v % (s.ring q).span + r.count
    · obtain ⟨m, hm⟩ : ∃ m, (s.ring q).span - v % (s.ring q).span = m + 1 := ⟨(s.ring q).span - v % (s.ring q).span - 1, by omega⟩
      refine .wraps q m hlive (hring.trans hq) ((hover hlt).trans (by rw [hm])) (by omega) (by omega) (by omega)
        (fun k hk => ?_) fun k hmk hk => ?_
      · rw [hdiskAt k (by omega), hadd k (by omega), if_pos (by omega)]
        exact congrArg some (by omega)
      · rw [hdiskAt k hk, hadd k hk, if_neg (by omega)]
        exact congrArg some (by omega)
    · refine .inSpan q hlive (hring.trans hq) ?_ (by omega) fun k hk => ?_
      · rw [hfit (Nat.not_lt.1 hlt)]
        split
        · exact .inr rfl
        · exact .inl rfl
      · rw [hdiskAt k hk, hadd k hk, if_pos (by omega)]
        exact congrArg some (by omega)

variable (hlim : n ≤ 65536) (law : s.RingLaw)
include hlim law

theorem split_lt_count {k : Nat} (h : r.split = some k) : k < r.count ∧ r.disk ≠ none := by
  have hpos := run_count_pos hn hr
  cases hd : r.disk with
  | none =>
      obtain ⟨i, hi⟩ := List.mem_iff_getElem?.1 hr
      rw [(classify_split hi).1 (.inr hd)] at h
      cases h
  | some d =>
      refine ⟨?_, nofun⟩
      cases layout_of_run hn hr hlim law hd with
      | plain _ hsplit _ => rw [hsplit] at h; cases h
      | inSpan _ _ _ hsplit _ _ =>
          obtain hsplit | hsplit := hsplit
          · rw [hsplit] at h; cases h
          · rw [hsplit] at h; cases h; exact hpos
      | wraps _ m _ _ hsplit hin _ _ _ _ => rw [hsplit] at h; cases h; exact hin

/-- Between two sectors of one run the disk LBAs do not break, and they wrap at the run's split point alone. -/
theorem inside_run {k : Nat} (hk : k + 1 < r.count) :
    ¬ s.breaksAfter (r.first + k) ∧ (s.wrapsAfter (r.first + k) ↔ r.split = some (k + 1)) := by
  have hringk := ring_of_run hn hr (show k < r.count by omega)
  have hringk' := ring_of_run hn hr hk
  cases hd : r.disk with
  | none =>
      have hnone := (disk_none_of_run hn hr (show k < r.count by omega)).2 hd
      refine ⟨fun ⟨_, d, _, hdk, _⟩ => (by rw [hnone] at hdk; cases hdk), fun ⟨_, _, d, _, _, hdk, _⟩ => (by rw [hnone] at hdk; cases hdk), fun h => ?_⟩
      exact absurd hd (split_lt_count hn hr hlim law h).2
  | some d =>
      -- neighbours that follow each other on the disk neither break nor wrap
      have follow {e : Nat} (he : (s.classOf (r.first + k)).disk = some e) (he' : (s.classOf (r.first + k + 1)).disk = some (e + 1)) :
          ¬ s.breaksAfter (r.first + k) ∧ ¬ s.wrapsAfter (r.first + k) := by
        refine ⟨fun ⟨_, a, b, ha, hb, hne⟩ => ?_, fun ⟨q, _, a, hq, _, ha, htop, hb⟩ => ?_⟩
        · rw [he] at ha
          rw [he'] at hb
          cases ha
          cases hb
          exact hne rfl
        · rw [he] at ha
          rw [he'] at hb
          cases ha
          have hb := Option.some.inj hb
          obtain ⟨hnone, -⟩ | ⟨q', v, hlive, hq', -⟩ := disk_shift (s := s) (y := r.first + k) rfl (Nat.le_refl _) he
          · rw [hq] at hnone; cases hnone
          · obtain rfl := Option.some.inj (hq.symm.trans hq')
            have := span_ge_of_live law hlive
            omega
      cases layout_of_run hn hr hlim law hd with
      | plain _ hsplit hdisk =>
          obtain ⟨hb, hw⟩ := follow (hdisk k (by omega)) (hdisk (k + 1) hk)
          exact ⟨hb, fun h => absurd h hw, fun h => by rw [hsplit] at h; cases h⟩
      | inSpan _ _ _ hsplit _ hdisk =>
          obtain ⟨hb, hw⟩ := follow (hdisk k (by omega)) (hdisk (k + 1) hk)
          refine ⟨hb, fun h => absurd h hw, fun h => ?_⟩
          obtain hsplit | hsplit := hsplit <;> rw [hsplit] at h <;> cases h
      | wraps q m hlive hring hsplit hin _ htop hbefore hafter =>
          rw [hsplit]
          obtain hlt | rfl | hgt := Nat.lt_trichotomy k m
          · obtain ⟨hb, hw⟩ := follow (hbefore k (by omega)) (hbefore (k + 1) hlt)
            exact ⟨hb, fun h => absurd h hw, fun h => by cases h; omega⟩
          · have hwrap : s.wrapsAfter (r.first + k) := by
              refine ⟨q, ring_lt_of_live hlive, d + k, hringk.trans hring, hringk'.trans hring, hbefore k (Nat.le_refl _), htop, ?_⟩
              exact (hafter (k + 1) (Nat.lt_succ_self _) hk).trans (by rw [Nat.sub_self]; rfl)
            exact ⟨fun h => h.1 hwrap, fun _ => rfl, fun _ => hwrap⟩
          · obtain ⟨hb, hw⟩ := follow (hafter k hgt (by omega))
              ((hafter (k + 1) (by omega) hk).trans (congrArg some (by omega)))
            exact ⟨hb, fun h => absurd h hw, fun h => by cases h; omega⟩

/-- The disk LBA of a run's last sector stands one below its disk end (R11). -/
theorem last_disk (hd : r.disk ≠ none) :
    ∃ e, (s.classOf (r.first + (r.count - 1))).disk = some e ∧ s.diskEnd r = e + 1 := by
  have hpos := run_count_pos hn hr
  obtain ⟨d, hd⟩ := Option.ne_none_iff_exists'.1 hd
  cases layout_of_run hn hr hlim law hd with
  | plain _ hsplit hdisk =>
      refine ⟨_, hdisk _ (by omega), ?_⟩
      rw [State.diskEnd, hsplit, hd]
      show d + r.count = _
      omega
  | inSpan _ _ _ hsplit _ hdisk =>
      refine ⟨_, hdisk _ (by omega), ?_⟩
      obtain hsplit | hsplit := hsplit
      · rw [State.diskEnd, hsplit, hd]
        show d + r.count = _
        omega
      · rw [State.diskEnd, hsplit, hd]
        show d + r.count = _
        omega
  | wraps q m _ hring hsplit hin _ _ _ hafter =>
      refine ⟨_, hafter _ (by omega) (by omega), ?_⟩
      simp only [State.diskEnd, hsplit, ringBase_eq hring]
      omega

/-- The disk ranges of a run hold the disk LBAs of its sectors (R14). -/
theorem mem_diskRanges (c : Nat) :
    (∃ g ∈ s.diskRanges r, g.1 ≤ c ∧ c < g.2) ↔ ∃ k < r.count, (s.classOf (r.first + k)).disk = some c := by
  cases hd : r.disk with
  | none =>
      have hempty : s.diskRanges r = [] := by rw [State.diskRanges, hd]
      rw [hempty]
      refine ⟨fun ⟨_, h, _⟩ => (by cases h), fun ⟨k, hk, hc⟩ => ?_⟩
      rw [(disk_none_of_run hn hr hk).2 hd] at hc
      cases hc
  | some d =>
      -- a run that does not wrap lies in one range
      have oneRange (hranges : s.diskRanges r = [(d, d + r.count)])
          (hdisk : ∀ k < r.count, (s.classOf (r.first + k)).disk = some (d + k)) :
          (∃ g ∈ s.diskRanges r, g.1 ≤ c ∧ c < g.2) ↔ ∃ k < r.count, (s.classOf (r.first + k)).disk = some c := by
        rw [hranges]
        simp only [List.mem_singleton, exists_eq_left]
        constructor
        · rintro ⟨hlo, hhi⟩
          exact ⟨c - d, by omega, (hdisk _ (by omega)).trans (congrArg some (by omega))⟩
        · rintro ⟨k, hk, hc⟩
          rw [hdisk k hk] at hc
          cases hc
          omega
      cases layout_of_run hn hr hlim law hd with
      | plain _ hsplit hdisk => exact oneRange (by rw [State.diskRanges, hd, hsplit]) hdisk
      | inSpan _ _ _ hsplit _ hdisk =>
          refine oneRange ?_ hdisk
          obtain hsplit | hsplit := hsplit <;> rw [State.diskRanges, hd, hsplit]
      | wraps q m _ hring hsplit hin _ htop hbefore hafter =>
          have hranges : s.diskRanges r = [(d, (s.ring q).base + (s.ring q).span),
              ((s.ring q).base, (s.ring q).base + (r.count - (m + 1)))] := by
            simp only [State.diskRanges, hd, hsplit, ringBase_eq hring, ringTop_eq hring]
          rw [hranges]
          simp only [List.mem_cons, List.not_mem_nil, or_false, exists_eq_or_imp, exists_eq_left]
          constructor
          · rintro (⟨hlo, hhi⟩ | ⟨hlo, hhi⟩)
            · exact ⟨c - d, by omega, (hbefore _ (by omega)).trans (congrArg some (by omega))⟩
            · exact ⟨m + 1 + (c - (s.ring q).base), by omega,
                (hafter _ (by omega) (by omega)).trans (congrArg some (by omega))⟩
          · rintro ⟨k, hk, hc⟩
            obtain hle | hgt := Nat.lt_or_ge m k
            · rw [hafter k hle hk] at hc
              cases hc
              omega
            · rw [hbefore k hgt] at hc
              cases hc
              omega

end OneRun
end Runs

end Sys2Proof.Machine
end

section
/-! SUPPORT. The five tests of a command (R12) and its downstream image (R11), read off its sectors. -/

namespace Sys2Proof.Machine

/-! ## Neighbouring runs -/

/-- Two neighbouring places of a tiling lie in one range, or in one and the next. -/
theorem Tiles.neighbours {α : Type} {first count : α → Nat} {x stop : Nat} {l : List α} (h : Tiles first count x stop l) {y : Nat}
    (hx : x ≤ y) (hy : y + 1 < stop) : ∃ i p, l[i]? = some p ∧ first p ≤ y ∧
      (y + 1 < first p + count p ∨ (y + 1 = first p + count p ∧ ∃ q, l[i + 1]? = some q ∧ first q = y + 1)) := by
  induction l generalizing x with
  | nil =>
      have : x = stop := h
      omega
  | cons p l ih =>
      obtain ⟨hf, hc, hrest⟩ := h
      by_cases hin : y + 1 < first p + count p
      · exact ⟨0, p, rfl, by omega, .inl hin⟩
      · by_cases hlast : y + 1 = first p + count p
        · have hstop : x + count p < stop := by omega
          cases l with
          | nil => exact absurd rfl (hrest.ne_nil hstop)
          | cons q l => exact ⟨0, p, rfl, by omega, .inr ⟨hlast, q, rfl, by rw [hrest.1]; omega⟩⟩
        · obtain ⟨i, q, hq, h1, h2⟩ := ih hrest (by omega)
          exact ⟨i + 1, q, hq, h1, h2⟩

theorem Tiles.pairwise {α : Type} {first count : α → Nat} {x stop : Nat} {l : List α} (h : Tiles first count x stop l) :
    l.Pairwise fun p q => first p + count p ≤ first q := by
  induction l generalizing x with
  | nil => exact List.Pairwise.nil
  | cons p l ih =>
      obtain ⟨hf, -, hrest⟩ := h
      refine List.pairwise_cons.2 ⟨fun q hq => ?_, ih hrest⟩
      have := (hrest.of_mem hq).2.1
      omega

theorem allJoin_iff (s : State) (l : List Run) : s.allJoin l = true ↔ ∀ i a b, l[i]? = some a → l[i + 1]? = some b →
    a.disk ≠ none → b.disk ≠ none → s.joins a b = true := by
  induction l with
  | nil => simp [State.allJoin]
  | cons a l ih =>
      cases l with
      | nil => simp [State.allJoin]
      | cons b l =>
          rw [State.allJoin, Bool.and_eq_true, ih]
          constructor
          · rintro ⟨hab, hrest⟩ i c d hc hd hcd hdd
            cases i with
            | zero =>
                cases hc
                cases hd
                simpa [hcd, hdd] using hab
            | succ i => exact hrest i c d hc hd hcd hdd
          · intro h
            refine ⟨?_, fun i => h (i + 1)⟩
            have := h 0 a b rfl rfl
            cases ha : a.disk <;> cases hb : b.disk <;> simp_all

theorem two_le_countP_iff {α : Type} {p : α → Bool} {l : List α} :
    2 ≤ l.countP p ↔ ∃ a b, List.Sublist [a, b] l ∧ p a = true ∧ p b = true := by
  constructor
  · intro h
    rw [List.countP_eq_length_filter] at h
    match hf : l.filter p, h with
    | a :: b :: rest, _ =>
        have hsub : List.Sublist [a, b] (l.filter p) := by
          rw [hf]
          exact (List.nil_sublist rest).cons_cons b |>.cons_cons a
        have ha : a ∈ l.filter p := hsub.mem (by simp)
        have hb : b ∈ l.filter p := hsub.mem (by simp)
        exact ⟨a, b, hsub.trans List.filter_sublist, (List.mem_filter.1 ha).2, (List.mem_filter.1 hb).2⟩
  · rintro ⟨a, b, hsub, ha, hb⟩
    have := hsub.countP_le (p := p)
    simpa [ha, hb] using this

/-- The first reason of a table is that of its head, or comes later and the head does not apply. -/
theorem firstReason_cons {ρ : Type} {p : Prop} {why : ρ} {rest : List (Prop × ρ)} {v : Option ρ}
    (h : FirstReason ((p, why) :: rest) v) : (p ∧ some why = v) ∨ (¬ p ∧ FirstReason rest v) := by
  cases h with
  | here h => exact .inl ⟨h, rfl⟩
  | later h t => exact .inr ⟨h, t⟩

section Command
variable {s : State} {x n : Nat} (hn : 0 < n) (hlim : n ≤ 65536) (law : s.RingLaw)
include hn hlim law

omit hlim in
/-- Where a run of a ring with a disk LBA starts on the ring (R10). -/
theorem place_of_run {b : Run} (hb : b ∈ s.classify x n) {q d : Nat} (hq : b.ring = some q) (hd : b.disk = some d) :
    ∃ v, b.virt = some v ∧ 131072 ≤ (s.ring q).span ∧ d = (s.ring q).base + v % (s.ring q).span := by
  obtain ⟨-, hdisk, hring, hvirt, -⟩ := classify_mem hn hb
  obtain ⟨h, -⟩ | ⟨q', v, hlive, hq', hv, hdv, -⟩ := disk_shift (s := s) rfl (Nat.le_refl b.first) (hdisk.symm.trans hd)
  · rw [← hring, hq] at h
    cases h
  · obtain rfl := Option.some.inj (hq.symm.trans (hring.trans hq'))
    exact ⟨v, hvirt.trans hv, span_ge_of_live law hlive, hdv⟩

omit hlim in
theorem split_zero_behind {i : Nat} {b : Run} (hb : (s.classify x n)[i]? = some b) (h0 : b.split = some 0) :
    0 < i ∧ ∃ q, (s.classify x n)[i - 1]?.bind Run.ring = some q ∧ b.ring = some q ∧ b.disk = some (s.ring q).base := by
  obtain ⟨hnone, hsplit⟩ := classify_split hb
  cases hd : b.disk with
  | none => rw [hnone (.inr hd)] at h0; cases h0
  | some d =>
      cases hq : b.ring with
      | none => rw [hnone (.inl hq)] at h0; cases h0
      | some q =>
          obtain ⟨v, hv, hspan, rfl⟩ := place_of_run hn law (List.mem_of_getElem? hb) hq hd
          obtain ⟨hover, hfit⟩ := hsplit q v hq hv (by rw [hd]; nofun)
          have hmod := Nat.mod_lt v (show 0 < (s.ring q).span by omega)
          obtain hlt | hle := Nat.lt_or_ge (s.ring q).span (v % (s.ring q).span + b.count)
          · rw [hover hlt] at h0
            have := Option.some.inj h0
            omega
          · rw [hfit hle] at h0
            split at h0
            next hz => exact ⟨hz.2.1, q, hz.2.2, rfl, by rw [hz.1, Nat.add_zero]⟩
            next => cases h0

/-- The split point of 0 marks a run that starts at position 0 behind a run of its ring (R10). -/
theorem split_zero_iff {i : Nat} {a b : Run} (ha : (s.classify x n)[i]? = some a) (hb : (s.classify x n)[i + 1]? = some b) :
    b.split = some 0 ↔ ∃ q, a.ring = some q ∧ b.ring = some q ∧ b.disk = some (s.ring q).base := by
  have hprev : (s.classify x n)[i + 1 - 1]?.bind Run.ring = a.ring := by rw [Nat.add_sub_cancel, ha]; rfl
  constructor
  · intro h0
    obtain ⟨-, q, hqa, h⟩ := split_zero_behind hn law hb h0
    exact ⟨q, hprev.symm.trans hqa, h⟩
  · rintro ⟨q, hqa, hq, hd⟩
    have hbm := List.mem_of_getElem? hb
    obtain ⟨v, hv, hspan, hbase⟩ := place_of_run hn law hbm hq hd
    have hpos : v % (s.ring q).span = 0 := by omega
    obtain ⟨-, hlo, hstop⟩ := (tiles_classify s x hn).of_mem hbm
    rw [((classify_split hb).2 q v hq hv (by rw [hd]; nofun)).2 (by omega), if_pos ⟨hpos, Nat.succ_pos _, hprev.trans hqa⟩]

/-- At the border of two runs with disk LBAs: they join where the sectors do not break, and the wrap stands there as the split
point 0 of the second (R11). -/
theorem border_runs {i : Nat} {a b : Run} (ha : (s.classify x n)[i]? = some a) (hb : (s.classify x n)[i + 1]? = some b)
    (hda : a.disk ≠ none) (hdb : b.disk ≠ none) {y : Nat} (hy : y + 1 = b.first) :
    (s.joins a b = true ↔ ¬ s.breaksAfter y) ∧ (s.wrapsAfter y → b.split = some 0)
      ∧ (b.split = some 0 → s.joins a b = true → s.wrapsAfter y) := by
  have ham := List.mem_of_getElem? ha
  have hbm := List.mem_of_getElem? hb
  have hborder := (tiles_classify s x hn).next ha hb
  have hpos := run_count_pos hn ham
  obtain rfl : y = a.first + (a.count - 1) := by omega
  obtain ⟨e, he, hend⟩ := last_disk hn ham hlim law hda
  obtain ⟨f, hf⟩ := Option.ne_none_iff_exists'.1 hdb
  obtain ⟨-, hdisk, hring, -⟩ := classify_mem hn hbm
  have hringa := ring_of_run hn ham (show a.count - 1 < a.count by omega)
  have hzero := split_zero_iff hn hlim law ha hb
  have hnext : (s.classOf (a.first + (a.count - 1) + 1)).disk = some f := by rw [hy, ← hdisk, hf]
  have hringb : (s.classOf (a.first + (a.count - 1) + 1)).ring = b.ring := by rw [hy, ← hring]
  -- the wrap, in the terms of the two runs
  have hwrap : s.wrapsAfter (a.first + (a.count - 1)) ↔ b.split = some 0 ∧ s.diskEnd a = s.ringTop a := by
    rw [hzero]
    constructor
    · rintro ⟨q, _, d, hqa, hqb, hd, htop, hbase⟩
      obtain rfl := Option.some.inj (he.symm.trans hd)
      refine ⟨⟨q, hringa.symm.trans hqa, hringb.symm.trans hqb, ?_⟩, ?_⟩
      · rw [hdisk, ← hy, hbase]
      · rw [hend, htop, ringTop_eq (hringa.symm.trans hqa)]
    · rintro ⟨⟨q, hqa, hqb, hbase⟩, htop⟩
      rw [hend, ringTop_eq hqa] at htop
      obtain ⟨hnone, -⟩ | ⟨q', v, hlive, hq', -⟩ := disk_shift (s := s) (y := a.first + (a.count - 1)) rfl (Nat.le_refl _) he
      · rw [hringa, hqa] at hnone; cases hnone
      · obtain rfl := Option.some.inj ((hringa.trans hqa).symm.trans hq')
        exact ⟨q, ring_lt_of_live hlive, e, hq', hringb.trans hqb, he, htop, by rw [hy, ← hdisk, hbase]⟩
  have hjoins : s.joins a b = true ↔ f = e + 1 ∨ s.wrapsAfter (a.first + (a.count - 1)) := by
    rw [hwrap, State.joins, Bool.or_eq_true, Bool.and_eq_true, Bool.and_eq_true, beq_iff_eq, beq_iff_eq, beq_iff_eq, beq_iff_eq,
      hf, hend, Option.some.injEq]
    refine or_congr_right ⟨fun ⟨⟨h0, _⟩, ht⟩ => ⟨h0, ht⟩, fun ⟨h0, ht⟩ => ⟨⟨h0, ?_⟩, ht⟩⟩
    obtain ⟨q, hqa, hqb, -⟩ := hzero.1 h0
    rw [hqa, hqb]
  refine ⟨?_, fun h => (hwrap.1 h).1, fun h0 hj => ?_⟩
  · rw [hjoins]
    constructor
    · rintro (rfl | hw) ⟨hnw, d, g, hd, hg, hne⟩
      · rw [he] at hd
        rw [hnext] at hg
        cases hd
        cases hg
        exact hne rfl
      · exact hnw hw
    · intro hnb
      by_contra hnot
      rw [not_or] at hnot
      exact hnb ⟨hnot.2, e, f, he, hnext, hnot.1⟩
  · -- a run that starts at PB cannot follow a sector of its own ring on the disk
    obtain rfl | hw := hjoins.1 hj
    · obtain ⟨q, hqa, -, hbase⟩ := hzero.1 h0
      obtain ⟨hnone, -⟩ | ⟨q', v, hlive, hq', -, hev, -⟩ := disk_shift (s := s) (y := a.first + (a.count - 1)) rfl (Nat.le_refl _) he
      · rw [hringa, hqa] at hnone; cases hnone
      · obtain rfl := Option.some.inj ((hringa.trans hqa).symm.trans hq')
        rw [hf] at hbase
        have := Option.some.inj hbase
        omega
    · exact hw

/-- The runs with disk LBAs all join exactly where no neighbouring sectors break (R11). -/
theorem allJoin_classify_iff :
    s.allJoin (s.classify x n) = true ↔ ∀ y, x ≤ y → y + 1 < x + n → ¬ s.breaksAfter y := by
  rw [allJoin_iff]
  constructor
  · intro h y hx hy hbreak
    obtain ⟨i, a, ha, hlo, hin | ⟨hlast, b, hb, hfirst⟩⟩ := (tiles_classify s x hn).neighbours hx hy
    · have := (inside_run hn (List.mem_of_getElem? ha) hlim law (k := y - a.first) (by omega)).1
      rw [Nat.add_sub_cancel' hlo] at this
      exact this hbreak
    · obtain ⟨-, d, e, hd, he, -⟩ := id hbreak
      have hda : a.disk ≠ none := by
        intro hnone
        have := (disk_none_of_run hn (List.mem_of_getElem? ha) (k := y - a.first) (by omega)).2 hnone
        rw [Nat.add_sub_cancel' hlo, hd] at this
        cases this
      have hdb : b.disk ≠ none := by
        rw [(classify_mem hn (List.mem_of_getElem? hb)).2.1, hfirst, he]
        nofun
      exact (border_runs hn hlim law ha hb hda hdb hfirst.symm).1.1 (h i a b ha hb hda hdb) hbreak
  · intro h i a b ha hb hda hdb
    have hborder := (tiles_classify s x hn).next ha hb
    obtain ⟨hca, hxa, -⟩ := (tiles_classify s x hn).of_mem (List.mem_of_getElem? ha)
    obtain ⟨hcb, -, hstop⟩ := (tiles_classify s x hn).of_mem (List.mem_of_getElem? hb)
    obtain ⟨y, hy⟩ : ∃ y, y + 1 = b.first := ⟨b.first - 1, by omega⟩
    exact (border_runs hn hlim law ha hb hda hdb hy).1.2 (h y (by omega) (by omega))

/-- Where no sectors break, the wraps of a command stand at the split points of its runs (R10, R11). -/
theorem wrapsAfter_iff_split (hjoin : s.allJoin (s.classify x n) = true) {y : Nat} (hx : x ≤ y) (hy : y + 1 < x + n) :
    s.wrapsAfter y ↔ ∃ r ∈ s.classify x n, ∃ k, r.split = some k ∧ y + 1 = r.first + k := by
  constructor
  · intro hw
    obtain ⟨i, a, ha, hlo, hin | ⟨hlast, b, hb, hfirst⟩⟩ := (tiles_classify s x hn).neighbours hx hy
    · have ham := List.mem_of_getElem? ha
      have := (inside_run hn ham hlim law (k := y - a.first) (by omega)).2
      rw [Nat.add_sub_cancel' hlo] at this
      exact ⟨a, ham, y - a.first + 1, this.1 hw, by omega⟩
    · obtain ⟨q, _, d, _, _, hd, _, he⟩ := id hw
      have hda : a.disk ≠ none := by
        intro hnone
        have := (disk_none_of_run hn (List.mem_of_getElem? ha) (k := y - a.first) (by omega)).2 hnone
        rw [Nat.add_sub_cancel' hlo, hd] at this
        cases this
      have hdb : b.disk ≠ none := by
        rw [(classify_mem hn (List.mem_of_getElem? hb)).2.1, hfirst, he]
        nofun
      exact ⟨b, List.mem_of_getElem? hb, 0, (border_runs hn hlim law ha hb hda hdb hfirst.symm).2.1 hw, by omega⟩
  · rintro ⟨r, hr, k, hk, hplace⟩
    obtain ⟨hlt, hdisk⟩ := split_lt_count hn hr hlim law hk
    cases k with
    | succ m =>
        obtain rfl : y = r.first + m := by omega
        exact (inside_run hn hr hlim law hlt).2.2 hk
    | zero =>
        obtain ⟨i, hi⟩ := List.mem_iff_getElem?.1 hr
        cases i with
        | zero =>
            have := (tiles_classify s x hn).head? (by omega)
            rw [List.head?_eq_getElem?, hi] at this
            have := Option.some.inj this
            omega
        | succ i =>
            obtain ⟨a, ha⟩ : ∃ a, (s.classify x n)[i]? = some a :=
              ⟨_, List.getElem?_eq_getElem (by have := (List.getElem?_eq_some_iff.1 hi).1; omega)⟩
            obtain ⟨q, hqa, hq, hbase⟩ := (split_zero_iff hn hlim law ha hi).1 hk
            have hda : a.disk ≠ none := by
              intro hnone
              -- the runs are of one ring, so both have disk LBAs
              have hlive : (s.ring q).live = true := by
                obtain ⟨-, hdisk', hring', -⟩ := classify_mem hn hr
                obtain ⟨h, -⟩ | ⟨q', v, hlive, hq', -⟩ := disk_shift (s := s) rfl (Nat.le_refl r.first) (hdisk'.symm.trans hbase)
                · rw [← hring', hq] at h; cases h
                · obtain rfl := Option.some.inj (hq.symm.trans (hring'.trans hq'))
                  exact hlive
              obtain ⟨-, hdiska, hringa, -⟩ := classify_mem hn (List.mem_of_getElem? ha)
              exact disk_of_live_ring (hringa.symm.trans hqa) hlive (hdiska.symm.trans hnone)
            exact (border_runs hn hlim law ha hi hda hdisk (by omega)).2.2 hk
              ((allJoin_iff s _).1 hjoin i a r ha hi hda hdisk)

/-- A split point stands behind a wrap of the command (R10, R11). -/
theorem wrap_of_split (hjoin : s.allJoin (s.classify x n) = true) {r : Run} (hr : r ∈ s.classify x n) {k : Nat}
    (hk : r.split = some k) : ∃ y, y + 1 = r.first + k ∧ x ≤ y ∧ y + 1 < x + n ∧ s.wrapsAfter y := by
  obtain ⟨hlt, -⟩ := split_lt_count hn hr hlim law hk
  obtain ⟨-, hx, hstop⟩ := (tiles_classify s x hn).of_mem hr
  have habove : x < r.first + k := by
    by_contra hnot
    obtain rfl : k = 0 := by omega
    obtain ⟨i, hi⟩ := List.mem_iff_getElem?.1 hr
    cases i with
    | zero => exact absurd (split_zero_behind hn law hi hk).1 (Nat.lt_irrefl 0)
    | succ i =>
        obtain ⟨a, ha⟩ : ∃ a, (s.classify x n)[i]? = some a :=
          ⟨_, List.getElem?_eq_getElem (by have := (List.getElem?_eq_some_iff.1 hi).1; omega)⟩
        have hborder := (tiles_classify s x hn).next ha hi
        obtain ⟨hpos, hxa, -⟩ := (tiles_classify s x hn).of_mem (List.mem_of_getElem? ha)
        omega
  obtain ⟨y, hy⟩ : ∃ y, y + 1 = r.first + k := ⟨r.first + k - 1, by omega⟩
  exact ⟨y, hy, by omega, by omega, (wrapsAfter_iff_split hn hlim law hjoin (by omega) (by omega)).2 ⟨r, hr, k, hk, hy⟩⟩

/-- Two runs with split points stand for two wraps (R12). -/
theorem two_splits_iff (hjoin : s.allJoin (s.classify x n) = true) : 2 ≤ splitCount (s.classify x n) ↔
    ∃ y z, x ≤ y ∧ y < z ∧ z + 1 < x + n ∧ s.wrapsAfter y ∧ s.wrapsAfter z := by
  unfold splitCount
  constructor
  · intro h
    obtain ⟨a, b, hsub, ha, hb⟩ := two_le_countP_iff.1 h
    obtain ⟨j, hj⟩ := Option.isSome_iff_exists.1 ha
    obtain ⟨k, hk⟩ := Option.isSome_iff_exists.1 hb
    have ham : a ∈ s.classify x n := hsub.mem (by simp)
    have hbm : b ∈ s.classify x n := hsub.mem (by simp)
    have horder : a.first + a.count ≤ b.first := by
      simpa using (tiles_classify s x hn).pairwise.sublist hsub
    obtain ⟨y, hy, hxy, -, hwy⟩ := wrap_of_split hn hlim law hjoin ham hj
    obtain ⟨z, hz, -, hzx, hwz⟩ := wrap_of_split hn hlim law hjoin hbm hk
    have := (split_lt_count hn ham hlim law hj).1
    exact ⟨y, z, hxy, by omega, hzx, hwy, hwz⟩
  · rintro ⟨y, z, hx, hlt, hz, hwy, hwz⟩
    obtain ⟨a, ha, j, hj, hya⟩ := (wrapsAfter_iff_split hn hlim law hjoin hx (by omega)).1 hwy
    obtain ⟨b, hb, k, hk, hzb⟩ := (wrapsAfter_iff_split hn hlim law hjoin (by omega) hz).1 hwz
    have hne : a ≠ b := by
      rintro rfl
      have := Option.some.inj (hj.symm.trans hk)
      omega
    have hsub : [a, b] ⊆ s.classify x n := by
      intro c hc
      obtain rfl | hc := List.mem_cons.1 hc
      · exact ha
      · obtain rfl := List.mem_singleton.1 hc
        exact hb
    have := (List.subperm_of_subset (by simpa using hne) hsub).countP_le (fun r : Run => r.split.isSome)
    simpa [hj, hk] using this

/-! ## The tests -/

theorem discontiguous_iff : (!s.allJoin (s.classify x n) || decide (2 ≤ splitCount (s.classify x n))) = true ↔
    (∃ y, x ≤ y ∧ y + 1 < x + n ∧ s.breaksAfter y)
      ∨ ∃ y z, x ≤ y ∧ y < z ∧ z + 1 < x + n ∧ s.wrapsAfter y ∧ s.wrapsAfter z := by
  cases hjoin : s.allJoin (s.classify x n)
  · have hnot := mt (allJoin_classify_iff hn hlim law).2 (by rw [hjoin]; nofun)
    push Not at hnot
    simp [hnot]
  · have hnone := (allJoin_classify_iff hn hlim law).1 hjoin
    rw [Bool.not_true, Bool.false_or, decide_eq_true_eq, two_splits_iff hn hlim law hjoin]
    exact ⟨.inr, fun h => h.resolve_left fun ⟨y, hx, hy, hb⟩ => hnone y hx hy hb⟩

omit hn hlim law in
theorem meetsSpan_iff (own : Option Nat) (a b : Nat) : s.meetsSpan own a b = true ↔
    ∃ q < Config.ringCount, own ≠ some q ∧ ∃ c, a ≤ c ∧ c < b ∧ (s.ring q).base ≤ c ∧ c < (s.ring q).base + (s.ring q).span := by
  simp only [State.meetsSpan, List.any_eq_true, List.mem_range, Bool.and_eq_true, Bool.not_eq_true', beq_eq_false_iff_ne,
    decide_eq_true_eq, rangesMeet_iff]
  constructor
  · rintro ⟨q, hq, ⟨hne, -⟩, c, hc⟩
    exact ⟨q, hq, hne, c, hc⟩
  · rintro ⟨q, hq, hne, c, hc⟩
    exact ⟨q, hq, ⟨hne, by omega⟩, c, hc⟩

theorem shielded_iff : (s.classify x n).any s.shielded = true ↔ ∃ y, x ≤ y ∧ y < x + n ∧ s.onShieldedSpan y := by
  simp only [List.any_eq_true, State.shielded, meetsSpan_iff]
  constructor
  · rintro ⟨r, hr, g, hg, q, hq, hne, c, hlo, hhi, hspan⟩
    obtain ⟨k, hk, hdisk⟩ := (mem_diskRanges hn hr hlim law c).1 ⟨g, hg, hlo, hhi⟩
    obtain ⟨-, hx, hstop⟩ := (tiles_classify s x hn).of_mem hr
    exact ⟨r.first + k, by omega, by omega, c, hdisk, q, hq, by rw [ring_of_run hn hr hk]; exact hne, hspan⟩
  · rintro ⟨y, hx, hy, c, hdisk, q, hq, hne, hspan⟩
    obtain ⟨r, hr, hlo, hhi⟩ := (tiles_classify s x hn).covers hx hy
    obtain ⟨k, rfl⟩ := Nat.exists_eq_add_of_le hlo
    obtain ⟨g, hg, hg1, hg2⟩ := (mem_diskRanges hn hr hlim law c).2 ⟨k, by omega, hdisk⟩
    exact ⟨r, hr, g, hg, q, hq, by rw [← ring_of_run hn hr (show k < r.count by omega)]; exact hne, c, hg1, hg2, hspan⟩

omit hlim law hn in
theorem busyRange_iff : s.busyRange x n = true ↔ ∃ j ∈ s.keep.queue, ∃ e ∈ j.extents, shareSector e.host e.count x n := by
  simp only [State.busyRange, Job.touches, List.any_eq_true, rangesMeet_iff_shareSector]

/-- The five tests of R12 by their table. -/
theorem classifyFailure_of_table {write : Bool} {v : Option HostReason} (h : FirstReason (s.classifyTable write x n) v) :
    s.classifyFailure write x n (s.classify x n) = v := by
  have hbarred := barredRange_iff s write x hn
  have hbusy := busyRange_iff (s := s) (x := x) (n := n)
  have hdisc := discontiguous_iff (x := x) hn hlim law
  have hshield := shielded_iff (x := x) hn hlim law
  have hfrag : decide (Config.runLimit < (s.classify x n).length) = true ↔ 4 < (s.classify x n).length := decide_eq_true_iff
  unfold State.classifyFailure
  unfold State.classifyTable at h
  obtain h1 | ⟨h1, h⟩ := firstReason_cons h
  · rw [hbarred.2 h1.1, cond_true, h1.2]
  rw [Bool.eq_false_iff.2 (mt hbarred.1 h1), cond_false]
  obtain h2 | ⟨h2, h⟩ := firstReason_cons h
  · rw [hbusy.2 h2.1, cond_true, h2.2]
  rw [Bool.eq_false_iff.2 (mt hbusy.1 h2), cond_false]
  obtain h3 | ⟨h3, h⟩ := firstReason_cons h
  · rw [hfrag.2 h3.1, cond_true, h3.2]
  rw [Bool.eq_false_iff.2 (mt hfrag.1 h3), cond_false]
  obtain h4 | ⟨h4, h⟩ := firstReason_cons h
  · rw [hdisc.2 h4.1, cond_true, h4.2]
  rw [Bool.eq_false_iff.2 (mt hdisc.1 h4), cond_false]
  obtain h5 | ⟨h5, h⟩ := firstReason_cons h
  · rw [hshield.2 h5.1, cond_true, h5.2]
  rw [Bool.eq_false_iff.2 (mt hshield.1 h5), cond_false]
  cases h
  rfl

/-! ## The image -/

omit hlim law hn in
/-- The wrap of an image is the first split point, counted from the start of the command (R11). -/
theorem wrapOf_spec {first stop : Nat} {l : List Run} (h : Tiles Run.first Run.count first stop l) :
    (s.wrapOf l = none → ∀ r ∈ l, r.split = none)
      ∧ ∀ n1 pb, s.wrapOf l = some (n1, pb) → ∃ r ∈ l, ∃ k, r.split = some k ∧ first + n1 = r.first + k ∧ pb = s.ringBase r := by
  induction l generalizing first with
  | nil => exact ⟨fun _ _ h => (by cases h), nofun⟩
  | cons r l ih =>
      obtain ⟨hf, -, hrest⟩ := h
      obtain ⟨hnone, hsome⟩ := ih hrest
      rw [State.wrapOf]
      cases hk : r.split with
      | some k =>
          refine ⟨nofun, fun n1 pb heq => ?_⟩
          cases heq
          exact ⟨r, List.mem_cons_self, k, hk, by rw [hf], rfl⟩
      | none =>
          refine ⟨fun hw q hq => ?_, fun n1 pb hw => ?_⟩
          · obtain rfl | hq := List.mem_cons.1 hq
            · exact hk
            · exact hnone (Option.map_eq_none_iff.1 hw) q hq
          · obtain ⟨⟨m, b⟩, hrest, heq⟩ := Option.map_eq_some_iff.1 hw
            cases heq
            obtain ⟨q, hq, k, hqk, hplace, hb⟩ := hsome m b hrest
            exact ⟨q, List.mem_cons_of_mem _ hq, k, hqk, by omega, hb⟩

/-- The image and the split of a command that passes the Discontiguous test (R11, R96). -/
theorem imageOf_spec (hjoin : s.allJoin (s.classify x n) = true) :
    ImageOf s x n (s.imageOf (s.classify x n) n) ((s.imageOf (s.classify x n) n).bind (splitOf x n)) := by
  have htiles := tiles_classify s x hn
  unfold State.imageOf
  cases hany : (s.classify x n).any fun r => r.disk.isNone
  · have hdisk (y : Nat) (hx : x ≤ y) (hy : y < x + n) : (s.classOf y).disk ≠ none := by
      obtain ⟨r, hr, hlo, hhi⟩ := htiles.covers hx hy
      obtain ⟨k, rfl⟩ := Nat.exists_eq_add_of_le hlo
      intro hnone
      have := List.any_eq_false.1 hany r hr
      rw [(disk_none_of_run hn hr (show k < r.count by omega)).1 hnone] at this
      exact this rfl
    obtain ⟨d, hd⟩ := Option.ne_none_iff_exists'.1 (hdisk x (Nat.le_refl x) (by omega))
    have hhead : (s.classify x n).head?.bind Run.disk = some d := by
      obtain ⟨r, hr, hfirst⟩ := Option.map_eq_some_iff.1 (htiles.head? (by omega))
      rw [hr, Option.bind_some, (classify_mem hn (List.mem_of_head? hr)).2.1, hfirst, hd]
    rw [cond_false, hhead]
    obtain ⟨hnone, hsome⟩ := wrapOf_spec (s := s) htiles
    cases hw : s.wrapOf (s.classify x n) with
    | none =>
        refine ImageOf.single d hdisk hd fun y hx hy hwrap => ?_
        obtain ⟨r, hr, k, hk, -⟩ := (wrapsAfter_iff_split hn hlim law hjoin hx hy).1 hwrap
        rw [hnone hw r hr] at hk
        cases hk
    | some w =>
        obtain ⟨n1, pb⟩ := w
        obtain ⟨r, hr, k, hk, hplace, rfl⟩ := hsome n1 pb hw
        obtain ⟨y, hy, hx, hstop, hwrap⟩ := wrap_of_split hn hlim law hjoin hr hk
        have hlt := (split_lt_count hn hr hlim law hk).1
        have hsecond : (s.classOf (y + 1)).disk = some (s.ringBase r) := by
          obtain ⟨q, -, -, -, hq, -, -, hbase⟩ := id hwrap
          rw [hbase, ringBase_eq (q := q)]
          rw [← ring_of_run hn hr hlt, ← hy, hq]
        have himage := ImageOf.wrapped d (s.ringBase r) y hdisk hd hx hstop hwrap hsecond
        obtain rfl : n1 = y + 1 - x := by omega
        simp only [Option.bind_some, splitOf, Option.map_some]
        rw [show x + (y + 1 - x) = y + 1 by omega, show n - (y + 1 - x) = x + n - (y + 1) by omega]
        exact himage
  · obtain ⟨r, hr, hnone⟩ := List.any_eq_true.1 hany
    obtain ⟨hpos, hx, hstop⟩ := htiles.of_mem hr
    refine ImageOf.none r.first ⟨hx, by omega⟩ ?_
    rw [← (classify_mem hn hr).2.1]
    exact Option.isNone_iff_eq_none.1 hnone

end Command

/-! ## The counts -/

theorem mem_matchedEntries {s : State} {x n i : Nat} :
    i ∈ s.matchedEntries x n ↔ i < Config.regionCount ∧ s.matches i x n := by
  unfold State.matchedEntries State.matches
  simp only [List.mem_map, List.mem_filter, Prod.exists, exists_and_right, exists_eq_right, mem_activeDefs, Definition.meets,
    rangesMeet_iff_shareSector]
  constructor
  · rintro ⟨d, ⟨hi, ha⟩, hm⟩
    exact ⟨hi, d, ha, hm⟩
  · rintro ⟨hi, d, ha, hm⟩
    exact ⟨d, ⟨hi, ha⟩, hm⟩

theorem matchedEntries_nodup (s : State) (x n : Nat) : (s.matchedEntries x n).Nodup := by
  refine List.pairwise_map.2 (((activeDefs_pairwise s).filter _).imp ?_)
  intro a b h
  exact Nat.ne_of_lt h

theorem mem_liveRings {s : State} {x n : Nat} (hn : 0 < n) {q : Nat} : q ∈ liveRings (s.classify x n) ↔
    ∃ y, x ≤ y ∧ y < x + n ∧ (s.classOf y).ring = some q ∧ (s.classOf y).disk ≠ none := by
  unfold liveRings
  simp only [mem_distinct, List.mem_filterMap, List.mem_filter, Option.isSome_iff_ne_none]
  constructor
  · rintro ⟨r, ⟨hr, hd⟩, hq⟩
    obtain ⟨hpos, hx, hstop⟩ := (tiles_classify s x hn).of_mem hr
    obtain ⟨-, hdisk, hring, -⟩ := classify_mem hn hr
    exact ⟨r.first, hx, by omega, hring.symm.trans hq, hdisk ▸ hd⟩
  · rintro ⟨y, hx, hy, hq, hd⟩
    obtain ⟨r, hr, hlo, hhi⟩ := (tiles_classify s x hn).covers hx hy
    obtain ⟨k, rfl⟩ := Nat.exists_eq_add_of_le hlo
    have hk : k < r.count := by omega
    exact ⟨r, ⟨hr, mt (disk_none_of_run hn hr hk).2 hd⟩, (ring_of_run hn hr hk).symm.trans hq⟩

end Sys2Proof.Machine
end

section
/-! SUPPORT. Steps 2 and 3 of a record, and its arrival: what the record and the state hold once classification has counted it
and the lookup has ended. -/

namespace Sys2Proof.Machine

/-! ## Refusal and KeyWait at the lookup -/

theorem refuseKey_eq {k : RecordKey} {why : HostReason} {s : State} {r : Record} (h : s.record? k = some r) :
    refuseKey k why s = dropUnwaited r.awaited (refuse k why s) := by
  simp only [refuseKey, h]

theorem dropUnwaited_nil (s : State) : dropUnwaited [] s = s := by
  have hall : (s.keys.missList.filter fun id => !(([] : List ProgId).contains id) || decide (s.waiters id ≠ 0)) = s.keys.missList :=
    List.filter_eq_self.2 fun _ _ => rfl
  rw [dropUnwaited, hall]
  rfl

/-- A record that waited for no id is refused at the lookup as at any other step. -/
theorem refuseKey_of_not_awaiting {k : RecordKey} {why : HostReason} {s : State} {r : Record} (h : s.record? k = some r)
    (ha : r.awaited = []) : refuseKey k why s = refuse k why s := by
  rw [refuseKey_eq h, ha, dropUnwaited_nil]

theorem record?_refuseKey {k : RecordKey} {why : HostReason} {s : State} {r : Record} (h : s.record? k = some r) :
    (refuseKey k why s).record? k =
      some { r with state := .due, timer := none, awaited := [], waitsFor := [], outcome := some (.refused why) } :=
  record?_refuse h

theorem enterKeyWait_eq (k : RecordKey) (ids : List ProgId) (s : State) :
    enterKeyWait k ids s = { s with tracker := (enterKeyWait k ids s).tracker } := by
  unfold enterKeyWait
  dsimp only
  generalize List.contains (α := RecordKey) _ _ = b
  cases b <;> rfl

theorem record?_enterKeyWait {k : RecordKey} {s : State} {r : Record} (h : s.record? k = some r) (ids : List ProgId) :
    (enterKeyWait k ids s).record? k = some { r with
      state := .keyWait, awaited := ids
      timer := match r.timer with | some t => some t | none => some (.keyWait s.line.profile.keyWaitMs) } := by
  have hmap := record?_mapRecord_some (f := fun r => { r with
    state := .keyWait, awaited := ids
    timer := match r.timer with | some t => some t | none => some (.keyWait s.line.profile.keyWaitMs) }) (fun _ e => e) h
  unfold enterKeyWait
  dsimp only
  generalize List.contains (α := RecordKey) _ _ = b
  cases b <;> exact hmap

theorem enterKeyWait_keyWait {k : RecordKey} {s : State} (h : k ∉ s.tracker.keyWait) (ids : List ProgId) :
    (enterKeyWait k ids s).tracker.keyWait = s.tracker.keyWait ++ [k] := by
  have hc : s.tracker.keyWait.contains k = false := by simpa using h
  unfold enterKeyWait
  simp only [mapRecord_tracker_keyWait, hc, cond_false]

/-! ## Step 3 (R35, R36, R39) -/

section Lookup
variable {k : RecordKey} {s : State} {r : Record} (h : s.record? k = some r)
include h

theorem stepLookup_of_refused {why : HostReason} (hl : s.lookupRuns r.runs = .refused why) : stepLookup k s =
    refuseKey k why (mapRecord k (fun r => { r with runs := r.runs.map Run.uncaptured }) s) := by
  simp only [stepLookup, h, hl]

theorem stepLookup_of_misses {ids : List ProgId} (hl : s.lookupRuns r.runs = .misses ids) : stepLookup k s =
    missHandling k ids (mapRecord k (fun r => { r with runs := s.captureRuns r.runs }) s) := by
  simp only [stepLookup, h, hl]

theorem stepLookup_of_captured (hl : s.lookupRuns r.runs = .captured) : stepLookup k s =
    stepAccept k (endHold k (mapRecord k (fun r => { r with runs := s.captureRuns r.runs }) s)) := by
  simp only [stepLookup, h, hl]

theorem record?_uncaptured : (mapRecord k (fun r => { r with runs := r.runs.map Run.uncaptured }) s).record? k =
    some { r with runs := r.runs.map Run.uncaptured } :=
  record?_mapRecord_some (f := fun r => { r with runs := r.runs.map Run.uncaptured }) (fun _ e => e) h

theorem record?_captured (runs : List Run → List Run) : (mapRecord k (fun r => { r with runs := runs r.runs }) s).record? k =
    some { r with runs := runs r.runs } :=
  record?_mapRecord_some (f := fun r => { r with runs := runs r.runs }) (fun _ e => e) h

end Lookup

/-- Where the walk of a record `r` from step 3 on ends, as `x`: its runs keep all but their captures. -/
structure Kept (k : RecordKey) (r : Record) (s u : State) (x : Record) : Prop where
  record  : u.record? k = some x
  alike   : ∃ runs, runs.map Run.uncaptured = r.runs.map Run.uncaptured ∧ Record.Alike { r with runs := runs } x
  regions : u.regions = s.regions
  users   : ∀ q, (u.ring q).users = (s.ring q).users
  state   : x.state ≠ .drain ∧ x.state ≠ .classify
  due     : x.state = .due → u.sys.sendOrder = s.sys.sendOrder ++ [.record k]
  issued  : s.issuedAs u x

/-- A record refused or held at the lookup. -/
theorem Kept.of_stop {k : RecordKey} {r x : Record} {s u : State} (hrec : u.record? k = some x) (runs : List Run)
    (hruns : runs.map Run.uncaptured = r.runs.map Run.uncaptured) (halike : Record.Alike { r with runs := runs } x)
    (hstate : (x.state = .due ∧ u.sys.sendOrder = s.sys.sendOrder ++ [.record k]) ∨ x.state = .keyWait)
    (hregions : u.regions = s.regions) (hrings : u.rings = s.rings) (hdrive : u.drive = s.drive) : Kept k r s u x := by
  refine ⟨hrec, ⟨runs, hruns, halike⟩, hregions, fun q => by rw [ring_congr hrings], ?_, ?_, fun hi => ?_, fun _ => by rw [hdrive]⟩
  · obtain ⟨hd, -⟩ | hw := hstate
    · rw [hd]; exact ⟨nofun, nofun⟩
    · rw [hw]; exact ⟨nofun, nofun⟩
  · intro hd
    obtain ⟨-, hsend⟩ | hw := hstate
    · exact hsend
    · rw [hw] at hd; cases hd
  · obtain ⟨hd, -⟩ | hw := hstate
    · rw [hd] at hi; cases hi
    · rw [hw] at hi; cases hi

theorem latchIf_eq (b : Bool) (c : Cause) (s : State) : latchIf b c s = { s with line := (latchIf b c s).line } := by
  cases b <;> rfl

theorem record?_latchIf (b : Bool) (c : Cause) {k : RecordKey} {s : State} {r : Record} (h : s.record? k = some r) :
    (latchIf b c s).record? k = some r := by
  cases b <;> exact h

/-- Miss handling (R36): refused NoKey where the Miss List has no room, else in KeyWait. -/
theorem missHandling_of_full {k : RecordKey} {ids : List ProgId} {s : State}
    (h : 4 - s.keys.missList.length < (ids.filter fun id => !(s.keys.missList.contains id)).length) :
    missHandling k ids s = refuseKey k .noKey s := by
  unfold missHandling
  dsimp only
  rw [decide_eq_true (p := Config.missPlaces - s.keys.missList.length < _) h, cond_true]

theorem missHandling_of_room {k : RecordKey} {ids : List ProgId} {s : State}
    (h : (ids.filter fun id => !(s.keys.missList.contains id)).length ≤ 4 - s.keys.missList.length) :
    missHandling k ids s = enterKeyWait k ids
      (latchIf (!(ids.filter fun id => !(s.keys.missList.contains id)).isEmpty) .keyMiss
        (setMissList (s.keys.missList ++ ids.filter fun id => !(s.keys.missList.contains id)) s)) := by
  unfold missHandling
  dsimp only
  rw [decide_eq_false (p := Config.missPlaces - s.keys.missList.length < _) (Nat.not_lt.2 h), cond_false]

/-- A record that is captured goes on to step 4 with the slots it found, everything else of it as it was. -/
theorem captured_passes {k : RecordKey} {s : State} {r : Record} (h : s.record? k = some r) :
    Passes k { r with runs := s.captureRuns r.runs } s
      (endHold k (mapRecord k (fun r => { r with runs := s.captureRuns r.runs }) s))
      { r with runs := s.captureRuns r.runs, state := .classify, timer := none, awaited := [], waitsFor := [] } :=
  ⟨record?_endHold (record?_captured h s.captureRuns), ⟨rfl, rfl, rfl, rfl, rfl, rfl, rfl, rfl, rfl, rfl⟩, rfl, rfl, rfl,
    fun _ => rfl, rfl, rfl⟩

/-- Step 3 with every id Live (R35): the walk goes on with the slots found captured, and touches neither keys nor causes. -/
theorem stepLookup_captured {k : RecordKey} {s : State} {r : Record} (h : s.record? k = some r)
    (hl : s.lookupRuns r.runs = .captured) : ∃ x, Walked k { r with runs := s.captureRuns r.runs } s (stepLookup k s) x
      ∧ (x.state ≠ .due → ∀ run ∈ s.captureRuns r.runs, run.ring ≠ none → run.disk ≠ none) := by
  rw [stepLookup_of_captured h hl]
  have hpass := captured_passes h
  obtain ⟨x, hx, hring⟩ := stepAccept_walked hpass.record
  exact ⟨x, hpass.walked hx, hring⟩

/-- The new ids of a record that misses `ids` (R36). -/
def State.newMisses (s : State) (ids : List ProgId) : List ProgId := ids.filter fun id => !(s.keys.missList.contains id)

/-- Step 3 with missing ids for which the Miss List has no room (R36). -/
theorem stepLookup_of_full {k : RecordKey} {s : State} {r : Record} (h : s.record? k = some r) {ids : List ProgId}
    (hl : s.lookupRuns r.runs = .misses ids) (hfull : 4 - s.keys.missList.length < (s.newMisses ids).length) : stepLookup k s =
    refuseKey k .noKey (mapRecord k (fun r => { r with runs := s.captureRuns r.runs }) s) :=
  (stepLookup_of_misses h hl).trans (missHandling_of_full hfull)

/-- Step 3 with missing ids that the Miss List has room for (R36). -/
theorem stepLookup_of_room {k : RecordKey} {s : State} {r : Record} (h : s.record? k = some r) {ids : List ProgId}
    (hl : s.lookupRuns r.runs = .misses ids) (hroom : (s.newMisses ids).length ≤ 4 - s.keys.missList.length) : stepLookup k s =
    enterKeyWait k ids (latchIf (!(s.newMisses ids).isEmpty) .keyMiss (setMissList (s.keys.missList ++ s.newMisses ids)
      (mapRecord k (fun r => { r with runs := s.captureRuns r.runs }) s))) :=
  (stepLookup_of_misses h hl).trans (missHandling_of_room hroom)

theorem mem_of_uncaptured {l l' : List Run} (h : l.map Run.uncaptured = l'.map Run.uncaptured) {r : Run} (hr : r ∈ l') :
    ∃ r' ∈ l, r'.uncaptured = r.uncaptured := by
  have : r.uncaptured ∈ l.map Run.uncaptured := by
    rw [h]
    exact List.mem_map_of_mem hr
  exact List.mem_map.1 this

/-- Step 3, whatever the lookup finds; a record that is issued has no run of an Idle ring (R56). -/
theorem stepLookup_kept {k : RecordKey} {s : State} {r : Record} (h : s.record? k = some r) :
    ∃ x, Kept k r s (stepLookup k s) x ∧ (x.state = .issued → ∀ run ∈ r.runs, run.ring ≠ none → run.disk ≠ none) := by
  have huncaptured : (r.runs.map Run.uncaptured).map Run.uncaptured = r.runs.map Run.uncaptured := by
    rw [List.map_map]
    rfl
  cases hl : s.lookupRuns r.runs with
  | refused why =>
      rw [stepLookup_of_refused h hl]
      exact ⟨_, Kept.of_stop (record?_refuseKey (record?_uncaptured h)) _ huncaptured
        ⟨rfl, rfl, rfl, rfl, rfl, rfl, rfl, rfl, rfl, rfl⟩ (.inl ⟨rfl, rfl⟩) rfl rfl rfl, nofun⟩
  | misses ids =>
      have hrec := record?_captured h s.captureRuns
      have hruns := captureRuns_uncaptured s r.runs
      obtain hfull | hroom := Nat.lt_or_ge (4 - s.keys.missList.length) (s.newMisses ids).length
      · rw [stepLookup_of_full h hl hfull]
        exact ⟨_, Kept.of_stop (record?_refuseKey hrec) _ hruns
          ⟨rfl, rfl, rfl, rfl, rfl, rfl, rfl, rfl, rfl, rfl⟩ (.inl ⟨rfl, rfl⟩) rfl rfl rfl, nofun⟩
      · rw [stepLookup_of_room h hl hroom]
        have hwait := record?_enterKeyWait (record?_latchIf (!(s.newMisses ids).isEmpty) .keyMiss
          (s := setMissList (s.keys.missList ++ s.newMisses ids)
            (mapRecord k (fun r => { r with runs := s.captureRuns r.runs }) s)) hrec) ids
        refine ⟨_, Kept.of_stop hwait _ hruns ⟨rfl, rfl, rfl, rfl, rfl, rfl, rfl, rfl, rfl, rfl⟩ (.inr rfl) ?_ ?_ ?_, nofun⟩ <;>
        · rw [enterKeyWait_eq, latchIf_eq]
          rfl
  | captured =>
      obtain ⟨x, hx, hring⟩ := stepLookup_captured h hl
      have hstate := hx.state
      refine ⟨x, ⟨hx.record, ⟨_, captureRuns_uncaptured s r.runs, hx.alike⟩, hx.regions, hx.users, ?_, hx.due, hx.issued⟩,
        fun hi run hrun hq => ?_⟩
      · refine ⟨fun hd => ?_, fun hd => ?_⟩ <;> rw [hd] at hstate <;> simp at hstate
      · obtain ⟨run', hrun', hsame⟩ := mem_of_uncaptured (captureRuns_uncaptured s r.runs) hrun
        have hr : run'.uncaptured.ring = run.uncaptured.ring := congrArg Run.ring hsame
        have hd : run'.uncaptured.disk = run.uncaptured.disk := congrArg Run.disk hsame
        change run'.ring = run.ring at hr
        change run'.disk = run.disk at hd
        rw [← hd]
        exact hring (by rw [hi]; nofun) run' hrun' (by rw [hr]; exact hq)

/-! ## The result of a command's lookup (R35) -/

section LookupRuns
variable {s : State} {l : List Run}

theorem lookupRuns_expired (h : ∃ id ∈ protectedIds l, s.lookup id = .expired) : s.lookupRuns l = .refused .expired := by
  have hany : (protectedIds l).any (fun id => s.lookup id == .expired) = true := by
    obtain ⟨id, hid, he⟩ := h
    exact List.any_eq_true.2 ⟨id, hid, by rw [he]; rfl⟩
  simp only [State.lookupRuns, hany, cond_true]

theorem lookupRuns_locked (he : ∀ id ∈ protectedIds l, s.lookup id ≠ .expired)
    (h : ∃ id ∈ protectedIds l, s.lookup id = .locked) : s.lookupRuns l = .refused .locked := by
  have hnone : (protectedIds l).any (fun id => s.lookup id == .expired) = false :=
    List.any_eq_false.2 fun id hid => by simpa using he id hid
  have hany : (protectedIds l).any (fun id => s.lookup id == .locked) = true := by
    obtain ⟨id, hid, he⟩ := h
    exact List.any_eq_true.2 ⟨id, hid, by rw [he]; rfl⟩
  simp only [State.lookupRuns, hnone, hany, cond_true, cond_false]

theorem lookupRuns_misses (he : ∀ id ∈ protectedIds l, s.lookup id ≠ .expired ∧ s.lookup id ≠ .locked)
    (h : ∃ id ∈ protectedIds l, s.lookup id = .miss) :
    s.lookupRuns l = .misses ((protectedIds l).filter fun id => s.lookup id == .miss) := by
  have hnone : (protectedIds l).any (fun id => s.lookup id == .expired) = false :=
    List.any_eq_false.2 fun id hid => by simpa using (he id hid).1
  have hnone' : (protectedIds l).any (fun id => s.lookup id == .locked) = false :=
    List.any_eq_false.2 fun id hid => by simpa using (he id hid).2
  simp only [State.lookupRuns, hnone, hnone', cond_false]
  split
  next hnil =>
    obtain ⟨id, hid, hm⟩ := h
    have := List.filter_eq_nil_iff.1 hnil id hid
    rw [hm] at this
    exact absurd rfl this
  next => rfl

theorem lookupRuns_captured (h : ∀ id ∈ protectedIds l, ∃ c, s.lookup id = .captured c) : s.lookupRuns l = .captured := by
  have hnone : (protectedIds l).any (fun id => s.lookup id == .expired) = false :=
    List.any_eq_false.2 fun id hid => by obtain ⟨c, hc⟩ := h id hid; simp [hc]
  have hnone' : (protectedIds l).any (fun id => s.lookup id == .locked) = false :=
    List.any_eq_false.2 fun id hid => by obtain ⟨c, hc⟩ := h id hid; simp [hc]
  have hnil : ((protectedIds l).filter fun id => s.lookup id == .miss) = [] :=
    List.filter_eq_nil_iff.2 fun id hid => by obtain ⟨c, hc⟩ := h id hid; simp [hc]
  simp only [State.lookupRuns, hnone, hnone', hnil, cond_false]

end LookupRuns

/-! ## Step 2 (R12, R16, R46, R96) -/

theorem countUp_eq (l : List Nat) (s : State) :
    countUp l s = { s with regions := { s.regions with entries := (countUp l s).regions.entries } } := by
  unfold countUp
  induction l generalizing s with
  | nil => rfl
  | cons i l ih =>
      rw [List.foldl_cons]
      exact ih _

theorem usersUp_eq (l : List Nat) (s : State) : usersUp l s = { s with rings := (usersUp l s).rings } := by
  unfold usersUp
  induction l generalizing s with
  | nil => rfl
  | cons i l ih =>
      rw [List.foldl_cons]
      exact ih _

section Counts
variable (l : List Nat) (s : State)

@[simp] theorem countUp_tracker : (countUp l s).tracker = s.tracker := by rw [countUp_eq]
@[simp] theorem countUp_rings : (countUp l s).rings = s.rings := by rw [countUp_eq]
@[simp] theorem countUp_keys : (countUp l s).keys = s.keys := by rw [countUp_eq]
@[simp] theorem countUp_line : (countUp l s).line = s.line := by rw [countUp_eq]
@[simp] theorem countUp_drive : (countUp l s).drive = s.drive := by rw [countUp_eq]
@[simp] theorem countUp_sys : (countUp l s).sys = s.sys := by rw [countUp_eq]
@[simp] theorem countUp_keep : (countUp l s).keep = s.keep := by rw [countUp_eq]
@[simp] theorem countUp_drain : (countUp l s).regions.drain = s.regions.drain := by rw [countUp_eq]
@[simp] theorem usersUp_tracker : (usersUp l s).tracker = s.tracker := by rw [usersUp_eq]
@[simp] theorem usersUp_regions : (usersUp l s).regions = s.regions := by rw [usersUp_eq]
@[simp] theorem usersUp_keys : (usersUp l s).keys = s.keys := by rw [usersUp_eq]
@[simp] theorem usersUp_line : (usersUp l s).line = s.line := by rw [usersUp_eq]
@[simp] theorem usersUp_drive : (usersUp l s).drive = s.drive := by rw [usersUp_eq]
@[simp] theorem usersUp_sys : (usersUp l s).sys = s.sys := by rw [usersUp_eq]
@[simp] theorem usersUp_keep : (usersUp l s).keep = s.keep := by rw [usersUp_eq]

end Counts

theorem entry_countUp (l : List Nat) (s : State) {i : Nat} (hi : i < Config.regionCount) :
    (countUp l s).entry i = { s.entry i with inFlight := (s.entry i).inFlight + l.count i } := by
  induction l generalizing s with
  | nil => rfl
  | cons j l ih =>
      show (countUp l (mapEntry j (fun e => { e with inFlight := e.inFlight + 1 }) s)).entry i = _
      rw [ih, entry_mapEntry, List.count_cons]
      by_cases hij : i = j
      · subst hij
        simp only [show i < 64 from hi, and_self, if_true, beq_self_eq_true]
        rw [Nat.add_assoc, Nat.add_comm 1]
      · rw [if_neg (fun h => hij h.1), beq_eq_false_iff_ne.2 (Ne.symm hij)]
        rfl

theorem users_usersUp (l : List Nat) (s : State) {q : Nat} (hq : q < Config.ringCount) :
    ((usersUp l s).ring q).users = (s.ring q).users + l.count q := by
  induction l generalizing s with
  | nil => rfl
  | cons p l ih =>
      show ((usersUp l (mapRing p (fun x => { x with users := x.users + 1 }) s)).ring q).users = _
      rw [ih, ring_mapRing, List.count_cons]
      by_cases hpq : q = p
      · subst hpq
        simp only [show q < 4 from hq, and_self, if_true, beq_self_eq_true]
        rw [Nat.add_assoc, Nat.add_comm 1]
      · rw [if_neg (fun h => hpq h.1), beq_eq_false_iff_ne.2 (Ne.symm hpq)]
        rfl

/-- The state in which the lookup finds a record that passed its tests: classified and counted. -/
def State.afterClassify (s : State) (k : RecordKey) (r : Record) : State :=
  usersUp (r.classified s).rings (countUp (r.classified s).counted (mapRecord k (fun x => x.classified s) s))

section Classify
variable {k : RecordKey} {s : State} {r : Record} (h : s.record? k = some r)

section Frames
variable (s : State) (k : RecordKey) (r : Record)

@[simp] theorem afterClassify_tracker :
    (s.afterClassify k r).tracker = (mapRecord k (fun x => x.classified s) s).tracker := by
  rw [State.afterClassify, usersUp_tracker, countUp_tracker]
@[simp] theorem afterClassify_keys : (s.afterClassify k r).keys = s.keys := by
  rw [State.afterClassify, usersUp_keys, countUp_keys, mapRecord_keys]
@[simp] theorem afterClassify_line : (s.afterClassify k r).line = s.line := by
  rw [State.afterClassify, usersUp_line, countUp_line, mapRecord_line]
@[simp] theorem afterClassify_drive : (s.afterClassify k r).drive = s.drive := by
  rw [State.afterClassify, usersUp_drive, countUp_drive, mapRecord_drive]
@[simp] theorem afterClassify_sys : (s.afterClassify k r).sys = s.sys := by
  rw [State.afterClassify, usersUp_sys, countUp_sys, mapRecord_sys]
@[simp] theorem afterClassify_keep : (s.afterClassify k r).keep = s.keep := by
  rw [State.afterClassify, usersUp_keep, countUp_keep, mapRecord_keep]
@[simp] theorem afterClassify_drain : (s.afterClassify k r).regions.drain = s.regions.drain := by
  rw [State.afterClassify, usersUp_regions, countUp_drain, mapRecord_regions]

end Frames

include h in
theorem record?_afterClassify : (s.afterClassify k r).record? k = some (r.classified s) :=
  (record?_congr (congrArg Tracker.records (afterClassify_tracker s k r)) k).trans
    (record?_mapRecord_some (f := fun x => x.classified s) (fun _ e => e) h)

theorem entry_afterClassify {i : Nat} (hi : i < Config.regionCount) : (s.afterClassify k r).entry i =
    { s.entry i with inFlight := (s.entry i).inFlight + (s.matchedEntries r.host r.count).count i } := by
  have hregions : (s.afterClassify k r).regions = (countUp (r.classified s).counted (mapRecord k (fun x => x.classified s) s)).regions := by
    rw [State.afterClassify, usersUp_regions]
  have hentry : (s.afterClassify k r).entry i
      = (countUp (r.classified s).counted (mapRecord k (fun x => x.classified s) s)).entry i := by
    unfold State.entry
    rw [hregions]
  exact hentry.trans (entry_countUp _ _ hi)

theorem users_afterClassify {q : Nat} (hq : q < Config.ringCount) : ((s.afterClassify k r).ring q).users =
    (s.ring q).users + (liveRings (s.classify r.host r.count)).count q := by
  unfold State.afterClassify
  rw [users_usersUp _ _ hq, ring_congr (countUp_rings _ _)]
  rfl

include h in
theorem stepClassify_of_failure {why : HostReason}
    (hf : s.classifyFailure r.kind.isWrite r.host r.count (s.classify r.host r.count) = some why) :
    stepClassify k s = refuse k why s := by
  simp only [stepClassify, h, Record.classified, hf]

include h in
theorem stepClassify_of_passed
    (hf : s.classifyFailure r.kind.isWrite r.host r.count (s.classify r.host r.count) = none) :
    stepClassify k s = stepLookup k (s.afterClassify k r) := by
  simp only [stepClassify, h]
  show (match s.classifyFailure r.kind.isWrite r.host r.count (s.classify r.host r.count) with
    | some why => refuse k why s
    | none => stepLookup k (s.afterClassify k r)) = _
  rw [hf]

end Classify

/-- What passing the tests says of the runs (R12): no sector is barred, and the runs with disk LBAs join. -/
theorem passed_tests {s : State} {write : Bool} {x n : Nat} (h : s.classifyFailure write x n (s.classify x n) = none) :
    s.barredRange write x n = false ∧ s.allJoin (s.classify x n) = true := by
  unfold State.classifyFailure at h
  cases hb : s.barredRange write x n
  · refine ⟨rfl, ?_⟩
    rw [hb, cond_false] at h
    cases hbusy : s.busyRange x n
    · rw [hbusy, cond_false] at h
      cases hfrag : decide (Config.runLimit < (s.classify x n).length)
      · rw [hfrag, cond_false] at h
        cases hj : s.allJoin (s.classify x n)
        · rw [hj, Bool.not_false, Bool.true_or, cond_true] at h
          cases h
        · rfl
      · rw [hfrag, cond_true] at h
        cases h
    · rw [hbusy, cond_true] at h
      cases h
  · rw [hb, cond_true] at h
    cases h

/-- A command that passes its tests and has no run of an Idle ring has an image (R11). -/
theorem imageOf_ne_none {s : State} {write : Bool} {x n : Nat} (hn : 0 < n)
    (h : s.classifyFailure write x n (s.classify x n) = none)
    (hring : ∀ run ∈ s.classify x n, run.ring ≠ none → run.disk ≠ none) : s.imageOf (s.classify x n) n ≠ none := by
  have hdisk : ∀ run ∈ s.classify x n, run.disk ≠ none := by
    intro run hrun hnone
    have hnoring : run.ring = none := by
      by_contra hq
      exact hring run hrun hq hnone
    obtain ⟨-, hd, hq, -⟩ := classify_mem hn hrun
    obtain ⟨hpos, hx, hstop⟩ := (tiles_classify s x hn).of_mem hrun
    have := (barredRange_iff s write x hn).2
      ⟨run.first, hx, by omega, barred_of_no_disk (hq.symm.trans hnoring) (hd.symm.trans hnone) write⟩
    rw [(passed_tests h).1] at this
    cases this
  have hany : ((s.classify x n).any fun r => r.disk.isNone) = false :=
    List.any_eq_false.2 fun run hrun => by simpa using hdisk run hrun
  obtain ⟨r, hr, -⟩ := Option.map_eq_some_iff.1 ((tiles_classify s x hn).head? (by omega))
  obtain ⟨d, hd⟩ := Option.ne_none_iff_exists'.1 (hdisk r (List.mem_of_head? hr))
  have hhead : (s.classify x n).head?.bind Run.disk = some d := by rw [hr, Option.bind_some, hd]
  unfold State.imageOf
  rw [hany, cond_false, hhead]
  dsimp only
  split <;> nofun

theorem untagged_splitOf (o : Option Image) (x n : Nat) : untagged (o.bind (splitOf x n)) = o.bind (splitOf x n) := by
  cases o with
  | none => rfl
  | some i => cases h : i.second <;> simp [splitOf, h, untagged]

theorem classify_uncaptured (s : State) (x n : Nat) : (s.classify x n).map Run.uncaptured = s.classify x n := by
  unfold State.classify
  generalize none = b
  induction s.stretches x n generalizing b with
  | nil => rfl
  | cons t l ih => exact congrArg _ (ih _)

/-- Step 2, whatever the tests find, and the walk from there (R94): a record that is not refused has what the classification of
its range captured. -/
theorem stepClassify_kept {k : RecordKey} {s : State} {r : Record} (h : s.record? k = some r) :
    ∃ x, (stepClassify k s).record? k = some x ∧ x.key = r.key ∧ x.kind = r.kind ∧ x.host = r.host ∧ x.count = r.count
      ∧ x.frame = r.frame ∧ x.state ≠ .drain ∧ x.state ≠ .classify
      ∧ (stepClassify k s).regions.drain = s.regions.drain
      ∧ (x.state = .due → (stepClassify k s).sys.sendOrder = s.sys.sendOrder ++ [.record k])
      ∧ s.issuedAs (stepClassify k s) x
      ∧ (x.state ≠ .due → s.classifyFailure r.kind.isWrite r.host r.count (s.classify r.host r.count) = none)
      ∧ (x.state ≠ .due → x.runs.map Run.uncaptured = s.classify r.host r.count
        ∧ x.image = s.imageOf (s.classify r.host r.count) r.count
        ∧ untagged x.split = (s.imageOf (s.classify r.host r.count) r.count).bind (splitOf r.host r.count))
      ∧ (x.state = .issued → ∀ run ∈ s.classify r.host r.count, run.ring ≠ none → run.disk ≠ none) := by
  cases hf : s.classifyFailure r.kind.isWrite r.host r.count (s.classify r.host r.count) with
  | some why =>
      rw [stepClassify_of_failure h hf]
      exact ⟨_, record?_refuse h, rfl, rfl, rfl, rfl, rfl, nofun, nofun, rfl, fun _ => rfl, ⟨nofun, fun _ => rfl⟩,
        fun hne => absurd rfl hne, fun hne => absurd rfl hne, nofun⟩
  | none =>
      rw [stepClassify_of_passed h hf]
      obtain ⟨x, hx, hring⟩ := stepLookup_kept (record?_afterClassify h)
      obtain ⟨runs, hruns, halike⟩ := hx.alike
      refine ⟨x, hx.record, halike.key, halike.kind, halike.host, halike.count, halike.frame, hx.state.1, hx.state.2, ?_, ?_, ?_,
        fun _ => rfl, fun _ => ⟨?_, halike.image, halike.split.trans (untagged_splitOf _ _ _)⟩, hring⟩
      · rw [hx.regions, afterClassify_drain]
      · intro hd
        rw [hx.due hd, afterClassify_sys]
      · have hi := hx.issued
        unfold State.issuedAs at hi ⊢
        rw [afterClassify_drive] at hi
        exact hi
      · rw [halike.runs]
        exact hruns.trans (classify_uncaptured s _ _)

end Sys2Proof.Machine
end

section
/-! SUPPORT. Arrivals: the record of a command that R76 accepts, classified, looked up and issued within its arrival; and what a
command leaves that was held in Drain. -/

namespace Sys2Proof.Machine

/-! ## Acceptance (R76, R77) -/

/-- A command row that stands for an arrival takes it. -/
theorem exec_arrival {c : Instr} {a : Arrival} (h : arrivalOf c = some a) (s : State) :
    exec c s = .next (arrive a.tag a.unsupported a.kind a.host a.count a.frame s) := by
  cases c <;> cases h <;> rfl

theorem arrival_count_pos {c : Instr} {a : Arrival} (h : arrivalOf c = some a) (hdata : a.kind.isData = true) : 0 < a.count := by
  have pos (f : Nat) : 0 < (if f = 0 then 65536 else f) := by split <;> omega
  cases c <;> cases h <;> first | exact pos _ | cases hdata

/-- The state in which an accepted command has its record and nothing else has happened (R76, R91, R138). -/
def State.withArrival (s : State) (a : Arrival) : State :=
  addRecord a.key a.kind a.host a.count a.frame (closeGate s)

/-- The record of an accepted command (R91). -/
def State.arrivalRecord (s : State) (a : Arrival) : Record :=
  newRecord a.key a.kind a.host a.count s.tracker.nextOrder a.frame

theorem keyOf_tag (a : Arrival) : keyOf a.tag = a.key := by
  unfold keyOf Arrival.key
  cases a.tag <;> rfl

theorem tagOf_key (a : Arrival) : tagOf a.key = a.tag := by
  unfold tagOf Arrival.key
  cases a.tag <;> rfl

theorem soleOccupied_iff (s : State) : s.soleOccupied = true ↔ s.occupied .sole := by
  simp [State.soleOccupied, State.occupied]

theorem arrivalFailure_of_accepted {s : State} {a : Arrival} (h : ArrivalVerdict s a none) :
    (closeGate s).arrivalFailure a.tag a.unsupported = none := by
  cases h with
  | queuedAccepted hu t ht hlt hfree hsole =>
      have hrec : (closeGate s).record? (.tag t) = none := (record?_eq_none_iff s _).2 hfree
      have hso : (closeGate s).soleOccupied = false := Bool.eq_false_iff.2 (mt (soleOccupied_iff s).1 hsole)
      have htags : ¬ (closeGate s).hostTags ≤ t := Nat.not_le.2 hlt
      simp [State.arrivalFailure, hu, ht, State.tagFailure, hrec, hso, htags]
  | soleAccepted hu ht hempty =>
      simp [State.arrivalFailure, hu, ht, State.soleFailure, State.queuedInFlight, State.soleOccupied, hempty]

theorem not_occupied_of_accepted {s : State} {a : Arrival} (h : ArrivalVerdict s a none) : ¬ s.occupied a.key := by
  cases h with
  | queuedAccepted _ t ht _ hfree _ =>
      rw [Arrival.key, ht]
      exact hfree
  | soleAccepted _ _ hempty =>
      rintro ⟨r, hr, -⟩
      rw [hempty] at hr
      cases hr

theorem tag_lt_of_accepted {s : State} {a : Arrival} (h : ArrivalVerdict s a none) {t : Nat} (ht : a.tag = some t) :
    t < Config.tagCount := by
  cases h with
  | queuedAccepted _ t' ht' hlt _ _ =>
      obtain rfl := Option.some.inj (ht.symm.trans ht')
      show t < 32
      omega
  | soleAccepted _ hnone _ => rw [hnone] at ht; cases ht

/-- An accepted arrival walks its record through the steps of R94. -/
theorem exec_accepted {c : Instr} {a : Arrival} {s : State} (h : arrivalOf c = some a) (hlink : s.sys.link = .ready)
    (hv : ArrivalVerdict s a none) : exec c s = .next (settle (startSteps a.key (s.withArrival a))) := by
  rw [exec_arrival h]
  simp only [arrive, hlink, takeArrival, arrivalFailure_of_accepted hv, keyOf_tag]
  rfl

theorem record?_withArrival {s : State} {a : Arrival} (hv : ArrivalVerdict s a none) :
    (s.withArrival a).record? a.key = some (s.arrivalRecord a) := by
  have hnone := (record?_eq_none_iff s a.key).2 (not_occupied_of_accepted hv)
  unfold State.record? at hnone ⊢
  show (s.tracker.records ++ [s.arrivalRecord a]).find? _ = _
  rw [List.find?_append, hnone, Option.none_or]
  exact List.find?_cons_of_pos (beq_self_eq_true _)

theorem sameView_withArrival (s : State) (a : Arrival) : SameView s (s.withArrival a) := ⟨rfl, rfl, rfl, rfl, rfl⟩

/-! ## A data command that is not drained -/

section Data
variable {a : Arrival} {s : State} (hv : ArrivalVerdict s a none) (hdata : a.kind.isData = true)
include hv hdata

theorem startSteps_data : startSteps a.key (s.withArrival a) = stepDrain a.key (s.withArrival a) := by
  have hd : (s.arrivalRecord a).kind.isData = true := hdata
  simp only [startSteps, record?_withArrival hv, hd, cond_true]

theorem startSteps_drained (h : s.drains a.host a.count) : startSteps a.key (s.withArrival a) =
    holdIn a.key .drain (setDrain (s.regions.drain ++ [a.key]) (s.withArrival a)) := by
  have hm : (s.withArrival a).meetsStaged (s.arrivalRecord a).host (s.arrivalRecord a).count = true :=
    ((sameView_withArrival s a).meetsStaged _ _).trans ((meetsStaged_iff s _ _).2 h)
  rw [startSteps_data hv hdata]
  simp only [stepDrain, record?_withArrival hv, hm, cond_true]
  rfl

theorem startSteps_classified (h : ¬ s.drains a.host a.count) :
    startSteps a.key (s.withArrival a) = stepClassify a.key (s.withArrival a) := by
  have hm : (s.withArrival a).meetsStaged (s.arrivalRecord a).host (s.arrivalRecord a).count = false :=
    ((sameView_withArrival s a).meetsStaged _ _).trans (Bool.eq_false_iff.2 (mt (meetsStaged_iff s _ _).1 h))
  rw [startSteps_data hv hdata]
  simp only [stepDrain, record?_withArrival hv, hm, cond_false]

omit hv hdata in
theorem classifyFailure_withArrival : (s.withArrival a).classifyFailure (s.arrivalRecord a).kind.isWrite (s.arrivalRecord a).host
    (s.arrivalRecord a).count ((s.withArrival a).classify (s.arrivalRecord a).host (s.arrivalRecord a).count)
      = s.classifyFailure a.kind.isWrite a.host a.count (s.classify a.host a.count) := by
  rw [(sameView_withArrival s a).classifyFailure, (sameView_withArrival s a).classify]
  rfl

theorem startSteps_refused (h : ¬ s.drains a.host a.count) {why : HostReason}
    (hf : s.classifyFailure a.kind.isWrite a.host a.count (s.classify a.host a.count) = some why) :
    startSteps a.key (s.withArrival a) = refuse a.key why (s.withArrival a) := by
  rw [startSteps_classified hv hdata h]
  exact stepClassify_of_failure (record?_withArrival hv) (classifyFailure_withArrival.trans hf)

theorem startSteps_passed (h : ¬ s.drains a.host a.count)
    (hf : s.classifyFailure a.kind.isWrite a.host a.count (s.classify a.host a.count) = none) :
    startSteps a.key (s.withArrival a) = stepLookup a.key ((s.withArrival a).afterClassify a.key (s.arrivalRecord a)) := by
  rw [startSteps_classified hv hdata h]
  exact stepClassify_of_passed (record?_withArrival hv) (classifyFailure_withArrival.trans hf)

end Data

/-- The record of an arrival as it is once classified (R96). -/
def State.arrivalClassified (s : State) (a : Arrival) : Record := (s.arrivalRecord a).classified s

theorem record?_arrivalClassified {s : State} {a : Arrival} (hv : ArrivalVerdict s a none) :
    ((s.withArrival a).afterClassify a.key (s.arrivalRecord a)).record? a.key = some (s.arrivalClassified a) := by
  rw [record?_afterClassify (record?_withArrival hv), (sameView_withArrival s a).classified]
  rfl

theorem count_of_nodup {α : Type} [DecidableEq α] {l : List α} (h : l.Nodup) (a : α) : l.count a = if a ∈ l then 1 else 0 := by
  split
  next ha => exact List.count_eq_one_of_mem h ha
  next ha => exact List.count_eq_zero_of_not_mem ha

/-- Settles O40: the five tests by their table, the image by the layout of the runs, and the rest by what the steps keep. -/
theorem arrivalClassified : Obligations.ArrivalClassified := by
  intro c a s v harr hlink hv hdata hlim law hdrain hfirst
  have hn := arrival_count_pos harr hdata
  have hf := classifyFailure_of_table hn hlim law hfirst
  refine ⟨startSteps a.key (s.withArrival a), ?_⟩
  cases v with
  | some why =>
      rw [startSteps_refused hv hdata hdrain hf]
      refine ⟨_, exec_accepted harr hlink hv |>.trans (by rw [startSteps_refused hv hdata hdrain hf]),
        record?_refuse (record?_withArrival hv), fun w hw => ?_, nofun, ⟨nofun, fun _ => rfl⟩⟩
      cases hw
      exact ⟨rfl, rfl, rfl, rfl, rfl, rfl, rfl⟩
  | none =>
      have hu := startSteps_passed hv hdata hdrain hf
      rw [hu]
      obtain ⟨x, hx, hring⟩ := stepLookup_kept (record?_arrivalClassified hv)
      obtain ⟨runs, hruns, halike⟩ := hx.alike
      have hcounted : x.counted = s.matchedEntries a.host a.count := halike.counted
      have hrings : x.rings = liveRings (s.classify a.host a.count) := halike.rings
      refine ⟨x, exec_accepted harr hlink hv |>.trans (by rw [hu]), hx.record, nofun, fun _ => ⟨?_, ?_, ?_, ?_, ?_, ?_, ?_, ?_, ?_⟩, ?_⟩
      · rw [halike.runs]
        exact hruns.trans (classify_uncaptured s a.host a.count)
      · have himage := imageOf_spec hn hlim law (passed_tests hf).2
        have hsplit : untagged x.split = _ := halike.split.trans (untagged_splitOf (s.imageOf (s.classify a.host a.count) a.count) a.host a.count)
        have him : x.image = s.imageOf (s.classify a.host a.count) a.count := halike.image
        rw [hsplit, him]
        exact himage
      · rw [hcounted]
        exact matchedEntries_nodup s _ _
      · intro i
        rw [hcounted]
        exact mem_matchedEntries
      · intro i hi
        refine ⟨(s.matchedEntries a.host a.count).count i, ?_, fun hm => ?_, fun hm => ?_⟩
        · have hentry : (stepLookup a.key ((s.withArrival a).afterClassify a.key (s.arrivalRecord a))).entry i
              = ((s.withArrival a).afterClassify a.key (s.arrivalRecord a)).entry i := by
            unfold State.entry
            rw [hx.regions]
          rw [hentry, entry_afterClassify hi, (sameView_withArrival s a).matchedEntries]
          rfl
        · rw [count_of_nodup (matchedEntries_nodup s _ _), if_pos (mem_matchedEntries.2 ⟨hi, hm⟩)]
        · rw [count_of_nodup (matchedEntries_nodup s _ _), if_neg fun h => hm (mem_matchedEntries.1 h).2]
      · rw [hrings]
        exact distinct_nodup _
      · intro r
        rw [hrings]
        exact mem_liveRings hn
      · intro r hr
        rw [hx.users, users_afterClassify hr, (sameView_withArrival s a).classify, hrings]
        exact congrArg _ (count_of_nodup (distinct_nodup _) r)
      · intro hi
        have him : x.image = s.imageOf (s.classify a.host a.count) a.count := halike.image
        rw [him]
        exact imageOf_ne_none hn hf (hring hi)
      · have hissued := hx.issued
        unfold State.issuedAs at hissued ⊢
        rw [afterClassify_drive] at hissued
        exact hissued

/-! ## The lookup of an arrival (R35, R36) -/

section AtLookup
variable {k : RecordKey} {s t : State} {r x : Record} (hrec : t.record? k = some r) (hkeys : t.keys = s.keys)
  (hline : t.line = s.line) (hx : (stepLookup k t).record? k = some x)
include hrec hkeys hline hx

/-- A record refused at its first lookup keeps no capture, and neither the Key Table nor the causes change. -/
theorem refused_at_lookup (hawait : r.awaited = []) {why : HostReason} (hl : t.lookupRuns r.runs = .refused why) :
    x.state = .due ∧ x.outcome = some (.refused why) ∧ (∀ q ∈ x.runs, q.capture = none) ∧ (stepLookup k t).keys = s.keys
      ∧ (stepLookup k t).line = s.line := by
  rw [stepLookup_of_refused hrec hl, refuseKey_of_not_awaiting (record?_uncaptured hrec) (by exact hawait)] at hx ⊢
  obtain rfl := Option.some.inj ((record?_refuse (record?_uncaptured hrec)).symm.trans hx)
  refine ⟨rfl, rfl, fun q hq => ?_, hkeys, hline⟩
  obtain ⟨p, -, rfl⟩ := List.mem_map.1 hq
  rfl

/-- A record for whose new ids the Miss List has no room is refused NoKey (R36). -/
theorem full_at_lookup (hawait : r.awaited = []) {ids : List ProgId} (hl : t.lookupRuns r.runs = .misses ids)
    (hfull : 4 - s.keys.missList.length < (s.newMisses ids).length) :
    x.state = .due ∧ x.outcome = some (.refused .noKey) ∧ (stepLookup k t).keys = s.keys ∧ (stepLookup k t).line = s.line := by
  have hrec' := record?_captured hrec t.captureRuns
  have hfull' : 4 - t.keys.missList.length < (t.newMisses ids).length := by
    unfold State.newMisses
    rw [hkeys]
    exact hfull
  rw [stepLookup_of_full hrec hl hfull', refuseKey_of_not_awaiting hrec' (by exact hawait)] at hx ⊢
  obtain rfl := Option.some.inj ((record?_refuse hrec').symm.trans hx)
  exact ⟨rfl, rfl, hkeys, hline⟩

/-- A record for whose new ids the Miss List has room waits in KeyWait for its missing ones (R36, R38). -/
theorem waits_at_lookup (htimer : r.timer = none) (hwait : k ∉ t.tracker.keyWait) {ids : List ProgId}
    (hl : t.lookupRuns r.runs = .misses ids) (hroom : (s.newMisses ids).length ≤ 4 - s.keys.missList.length) :
    x.state = .keyWait ∧ x.timer = some (.keyWait s.line.profile.keyWaitMs)
      ∧ (stepLookup k t).tracker.keyWait = t.tracker.keyWait ++ [k] ∧ x.awaited = ids
      ∧ (stepLookup k t).keys = { s.keys with missList := s.keys.missList ++ s.newMisses ids }
      ∧ (stepLookup k t).line = { s.line with
          latched := s.line.latched ||| if s.newMisses ids = [] then 0x00#8 else 0x01#8 } := by
  have hrec' := record?_captured hrec t.captureRuns
  have hnew : t.newMisses ids = s.newMisses ids := by
    unfold State.newMisses
    rw [hkeys]
  have hroom' : (t.newMisses ids).length ≤ 4 - t.keys.missList.length := by
    rw [hnew, hkeys]
    exact hroom
  rw [stepLookup_of_room hrec hl hroom', hnew, hkeys] at hx ⊢
  generalize hu : latchIf (!(s.newMisses ids).isEmpty) .keyMiss (setMissList (s.keys.missList ++ s.newMisses ids)
    (mapRecord k (fun r => { r with runs := t.captureRuns r.runs }) t)) = u at hx ⊢
  have hfields : u.keys = { s.keys with missList := s.keys.missList ++ s.newMisses ids } ∧ u.tracker.keyWait = t.tracker.keyWait
      ∧ u.line = { s.line with latched := s.line.latched ||| if s.newMisses ids = [] then 0x00#8 else 0x01#8 } := by
    rw [← hu, ← hkeys, ← hline]
    cases hempty : s.newMisses ids with
    | nil => exact ⟨rfl, rfl, by rw [if_pos rfl, BitVec.or_zero]; rfl⟩
    | cons p l => exact ⟨rfl, rfl, by rw [if_neg nofun]; rfl⟩
  have hurec : u.record? k = some { r with runs := t.captureRuns r.runs } := by
    rw [← hu]
    exact record?_latchIf _ _ hrec'
  obtain ⟨hukeys, huwait, huline⟩ := hfields
  obtain rfl := Option.some.inj ((record?_enterKeyWait hurec ids).symm.trans hx)
  refine ⟨rfl, ?_, ?_, rfl, ?_, ?_⟩
  · rw [huline]
    simp only [htimer]
  · rw [enterKeyWait_keyWait (by rw [huwait]; exact hwait), huwait]
  · rw [enterKeyWait_eq]
    exact hukeys
  · rw [enterKeyWait_eq]
    exact huline

/-- A record whose ids are all Live captures their slots and goes on (R35). -/
theorem captured_at_lookup (hl : t.lookupRuns r.runs = .captured) :
    x.state ≠ .drain ∧ x.state ≠ .keyWait ∧ x.state ≠ .classify ∧ (stepLookup k t).keys = s.keys
      ∧ (stepLookup k t).line = s.line ∧ ∀ q ∈ x.runs, q ∈ s.captureRuns r.runs := by
  obtain ⟨y, hy, -⟩ := stepLookup_captured hrec hl
  obtain rfl := Option.some.inj (hy.record.symm.trans hx)
  have hstate := hy.state
  refine ⟨fun h => ?_, fun h => ?_, fun h => ?_, hy.keys.trans hkeys, hy.line.trans hline, fun q hq => ?_⟩
  · rw [h] at hstate; simp at hstate
  · rw [h] at hstate; simp at hstate
  · rw [h] at hstate; simp at hstate
  · rw [hy.alike.runs] at hq
    rw [← captureRuns_congr hkeys]
    exact hq

end AtLookup

/-- Settles O41: the Drain check, and the result of the lookup in each case. -/
theorem arrivalLookedUp : Obligations.ArrivalLookedUp := by
  intro c a s harr hlink hv hdata hlim law keyLaw hnotWaiting
  have hn := arrival_count_pos harr hdata
  have hexec := exec_accepted harr hlink hv
  refine ⟨startSteps a.key (s.withArrival a), ?_⟩
  by_cases hdrain : s.drains a.host a.count
  · have hu := startSteps_drained hv hdata hdrain
    rw [hu] at hexec ⊢
    exact ⟨_, hexec, record?_mapRecord_some (f := fun r => { r with state := .drain }) (fun _ e => e) (record?_withArrival hv),
      fun _ => ⟨rfl, rfl, rfl, rfl, rfl, rfl, rfl⟩, fun h => absurd hdrain h⟩
  cases hf : s.classifyFailure a.kind.isWrite a.host a.count (s.classify a.host a.count) with
  | some why =>
      have hu := startSteps_refused hv hdata hdrain hf
      rw [hu] at hexec ⊢
      refine ⟨_, hexec, record?_refuse (record?_withArrival hv), fun h => absurd h hdrain, fun _ hfirst => ?_⟩
      rw [classifyFailure_of_table hn hlim law hfirst] at hf
      cases hf
  | none =>
      have hu := startSteps_passed hv hdata hdrain hf
      rw [hu] at hexec ⊢
      have hrec := record?_arrivalClassified hv
      have hkeys := afterClassify_keys (s.withArrival a) a.key (s.arrivalRecord a)
      have hline := afterClassify_line (s.withArrival a) a.key (s.arrivalRecord a)
      have htracker := afterClassify_tracker (s.withArrival a) a.key (s.arrivalRecord a)
      generalize (s.withArrival a).afterClassify a.key (s.arrivalRecord a) = t at hexec hrec hkeys hline htracker ⊢
      have hkeys : t.keys = s.keys := hkeys
      have hline : t.line = s.line := hline
      have hwait : t.tracker.keyWait = s.tracker.keyWait := by rw [htracker]; rfl
      have hresult : t.lookupRuns (s.arrivalClassified a).runs = s.lookupRuns (s.classify a.host a.count) :=
        lookupRuns_congr hkeys _
      have hmem {id : ProgId} : id ∈ protectedIds (s.classify a.host a.count) ↔ s.needs a.host a.count id :=
        mem_protectedIds_classify hn
      obtain ⟨x, hx, -⟩ := stepLookup_kept hrec
      refine ⟨x, hexec, hx.record, fun h => absurd h hdrain, fun _ _ => ⟨fun ⟨id, hid, he⟩ => ?_,
        fun hnone ⟨id, hid, hmiss⟩ => ⟨fun hlock => ?_, fun new hopen hnew => ?_⟩, fun hlive => ?_⟩⟩
      · exact refused_at_lookup hrec hkeys hline hx.record rfl
          (hresult.trans (lookupRuns_expired ⟨id, hmem.2 hid, (lookup_eq_expired_iff keyLaw).2 he⟩))
      · exact refused_at_lookup hrec hkeys hline hx.record rfl
          (hresult.trans (lookupRuns_locked (fun p hp he => hnone p (hmem.1 hp) ((lookup_eq_expired_iff keyLaw).1 he))
            ⟨id, hmem.2 hid, lookup_eq_locked_iff.2 ⟨hmiss, hlock⟩⟩))
      · have hl := hresult.trans (lookupRuns_misses
          (fun p hp => ⟨fun he => hnone p (hmem.1 hp) ((lookup_eq_expired_iff keyLaw).1 he),
            fun hk => by rw [(lookup_eq_locked_iff.1 hk).2] at hopen; cases hopen⟩)
          ⟨id, hmem.2 hid, lookup_eq_miss_iff.2 ⟨hmiss, hopen⟩⟩)
        have hnewIds : s.newMisses _ = new := newIds_eq hn hopen hnew
        refine ⟨fun hfull => full_at_lookup hrec hkeys hline hx.record rfl hl (by rw [hnewIds]; exact hfull), fun hroom => ?_⟩
        obtain ⟨h1, h2, h3, h4, h5, h6⟩ := waits_at_lookup hrec hkeys hline hx.record rfl (by rw [hwait]; exact hnotWaiting) hl
          (by rw [hnewIds]; exact hroom)
        rw [hnewIds] at h5 h6
        refine ⟨h1, h2, h3.trans (by rw [hwait]), fun p => ?_, h5, h6⟩
        rw [h4, List.mem_filter, hmem, beq_iff_eq, lookup_eq_miss_iff, hopen]
        exact and_congr_right fun _ => ⟨fun h => h.1, fun h => ⟨h, rfl⟩⟩
      · have hl := hresult.trans (lookupRuns_captured fun p hp => by
          obtain ⟨q, hq⟩ := hlive p (hmem.1 hp)
          exact ⟨q, lookup_eq_captured_of_liveAs keyLaw hq⟩)
        obtain ⟨h1, h2, h3, h4, h5, h6⟩ := captured_at_lookup hrec hkeys hline hx.record hl
        exact ⟨h1, h2, h3, h4, h5, fun q hq id p hid hp =>
          captureRuns_capture (h6 q hq) hid (lookup_eq_captured_of_liveAs keyLaw hp)⟩

/-! ## The holds of the Region Map (R22, R23) -/

theorem applyPending?_of_define {s : State} {i : Nat} {d : Definition} (hcount : (s.entry i).inFlight = 0)
    (h : (s.entry i).staged = some (.define d)) : applyPending? i s = some (s.withEntry i (some d) none) := by
  simp only [applyPending?, h, hcount, Option.isSome_some, decide_true, Bool.and_self, cond_true]
  unfold mapEntry RegionEntry.applied State.withEntry
  rw [h]

theorem applyPending?_of_vacate {s : State} {i : Nat} (hcount : (s.entry i).inFlight = 0)
    (h : (s.entry i).staged = some .vacate) : applyPending? i s = some (s.withEntry i none none) := by
  simp only [applyPending?, h, hcount, Option.isSome_some, decide_true, Bool.and_self, cond_true]
  unfold mapEntry RegionEntry.applied State.withEntry
  rw [h]

/-- The state in which a record released from Drain is classified. -/
def State.outOfDrain (s : State) (k : RecordKey) : State :=
  holdIn k .classify (setDrain (s.regions.drain.filter (· != k)) s)

theorem sameView_outOfDrain (s : State) (k : RecordKey) : SameView s (s.outOfDrain k) := ⟨rfl, rfl, rfl, rfl, rfl⟩

theorem record?_outOfDrain {s : State} {k : RecordKey} {x : Record} (h : s.record? k = some x) :
    (s.outOfDrain k).record? k = some { x with state := .classify } :=
  record?_mapRecord_some (f := fun r => { r with state := .classify }) (fun _ e => e) h

theorem drainRelease?_of_free {s : State} {k : RecordKey} {x : Record} (h : s.record? k = some x) (hk : k ∈ s.regions.drain)
    (hfree : ¬ s.drains x.host x.count) : drainRelease? k s = some (stepClassify k (s.outOfDrain k)) := by
  have hm : s.meetsStaged x.host x.count = false := Bool.eq_false_iff.2 (mt (meetsStaged_iff s _ _).1 hfree)
  simp only [drainRelease?, h, hm, List.contains_iff_mem.2 hk, Bool.not_false, Bool.and_self, cond_true]
  rfl

/-- Settles O43. -/
theorem regionHolds : Obligations.RegionHolds := by
  intro i k x s
  refine ⟨fun d _ hcount h => ?_, fun _ hcount h => ?_, fun hrec hk hnone => ?_⟩
  · show Host.Outcome.next (settle ((applyPending? i s).getD s)) = _
    rw [applyPending?_of_define hcount h]
    rfl
  · show Host.Outcome.next (settle ((applyPending? i s).getD s)) = _
    rw [applyPending?_of_vacate hcount h]
    rfl
  · have hfree : ¬ s.drains x.host x.count := fun ⟨j, hj, d, hs, ha, hm⟩ => hnone j hj d hs ha hm
    have hview := sameView_outOfDrain s k
    obtain ⟨y, hy, hkey, hkind, hhost, hcount, hframe, hstate, hstate', hdrain, hdue, hissued, hpassed, hcaptured, hring⟩ :=
      stepClassify_kept (record?_outOfDrain hrec)
    simp only [hview.classify, hview.imageOf, hview.classifyFailure] at hpassed hcaptured hring
    refine ⟨_, y, ?_, hdrain.trans ?_, hy, hstate, hstate', fun h => (hcaptured h).1, hdue, hkey, hkind, hhost, hcount, hframe,
      hissued, fun _ hn hlim law => ⟨fun h => ?_, fun h => ?_⟩⟩
    · show Host.Outcome.next (settle ((drainRelease? k s).getD s)) = _
      rw [drainRelease?_of_free hrec hk hfree]
      rfl
    · refine List.filter_congr fun j _ => ?_
      by_cases hj : j = k <;> simp [hj]
    · obtain ⟨-, himage, hsplit⟩ := hcaptured h
      rw [himage, hsplit]
      exact imageOf_spec hn hlim law (passed_tests (hpassed h)).2
    · have hne : y.state ≠ .due := by
        rw [h]
        nofun
      rw [(hcaptured hne).2.1]
      exact imageOf_ne_none hn (hpassed hne) (hring h)

end Sys2Proof.Machine
end

section
/-! SUPPORT. A command that no entry, ring or keep job concerns passes every step (R94). -/

namespace Sys2Proof.Machine

/-- The one run of a command over unmapped sectors that pass (R7, R9). -/
def plainRun (x n : Nat) : Run :=
  { first := x, count := n, binding := none, kind := .clear, id := none, capture := none, disk := some x, ring := none,
    epochStart := none, virt := none, split := none }

section Plain
variable {s : State}

theorem activeDefs_eq_nil (h : ∀ i < Config.regionCount, (s.entry i).active = none) : s.activeDefs = [] := by
  rw [activeDefs_eq]
  refine List.filterMap_eq_nil_iff.2 fun i hi => ?_
  rw [h i (List.mem_range.1 hi)]
  rfl

/-- Where no entry is Active and unmapped sectors pass, a command is one Clear run at its own LBA (R7, R9). -/
theorem classify_unmapped (hmap : ∀ i < Config.regionCount, (s.entry i).active = none) (hpass : s.line.profile.unmapped = .pass)
    (x n : Nat) : s.classify x n = [plainRun x n] := by
  have hdefs := activeDefs_eq_nil hmap
  have hpieces : s.pieces x n = [(x, n)] := by
    simp [State.pieces, State.cutPoints, hdefs, piecesFrom]
  have hbinding : s.binding x = none := by simp [State.binding, State.matching, hdefs]
  have hclass := classOf_unmapped hbinding
  simp only [hpass, reduceCtorEq, if_false] at hclass
  have hstretches : s.stretches x n = [{ first := x, count := n, cls := s.classOf x }] := by
    simp [State.stretches, hpieces, joinStretches]
  rw [State.classify, hstretches, hclass]
  rfl

theorem classifyFailure_unmapped (hmap : ∀ i < Config.regionCount, (s.entry i).active = none)
    (hpass : s.line.profile.unmapped = .pass) (hqueue : s.keep.queue = []) (hspan : ∀ r < Config.ringCount, (s.ring r).span = 0)
    (write : Bool) {n : Nat} (hn : 0 < n) (x : Nat) : s.classifyFailure write x n (s.classify x n) = none := by
  have hbarred : s.barredRange write x n = false := by
    refine Bool.eq_false_iff.2 fun hb => ?_
    obtain ⟨y, -, -, ⟨i, hi, d, ha, -⟩ | ⟨i, d, hb, -⟩ | ⟨-, hbar⟩⟩ := (barredRange_iff s write x hn).1 hb
    · rw [hmap i hi] at ha; cases ha
    · obtain ⟨hi, ha, -⟩ := (binding_eq_some_iff s y i d).1 hb
      rw [hmap i hi] at ha; cases ha
    · rw [hpass] at hbar; cases hbar
  have hbusy : s.busyRange x n = false := by simp [State.busyRange, hqueue]
  have hmeets (own : Option Nat) (a b : Nat) : s.meetsSpan own a b = false := by
    refine Bool.eq_false_iff.2 fun hm => ?_
    obtain ⟨q, hq, -, c, -, -, hlo, hhi⟩ := (meetsSpan_iff own a b).1 hm
    rw [hspan q hq] at hhi
    omega
  rw [State.classifyFailure, hbarred, hbusy, classify_unmapped hmap hpass]
  simp [plainRun, Config.runLimit, State.allJoin, splitCount, State.shielded, State.diskRanges, hmeets]

theorem not_drains_unmapped (hmap : ∀ i < Config.regionCount, (s.entry i).active = none) (x n : Nat) : ¬ s.drains x n := by
  rintro ⟨i, hi, d, -, ha, -⟩
  rw [hmap i hi] at ha
  cases ha

theorem matchedEntries_unmapped (hmap : ∀ i < Config.regionCount, (s.entry i).active = none) (x n : Nat) :
    s.matchedEntries x n = [] := by
  simp [State.matchedEntries, activeDefs_eq_nil hmap]

end Plain

/-! ## The last steps without a chunk and without accesses -/

theorem stirred_eq (p : LowPower) : p.stirred = if p = .declined then .idle else p := by
  cases p <;> rfl

theorem rings_eq_of_ring {s t : State} (h : ∀ q < Config.ringCount, t.ring q = s.ring q) : t.rings = s.rings :=
  vector_ext_getD Ring.unshaped h

/-- The part of the state that a command which nothing concerns leaves as it was. -/
structure Undisturbed (s u : State) : Prop where
  regions   : u.regions = s.regions
  rings     : u.rings = s.rings
  keys      : u.keys = s.keys
  sendOrder : u.sys.sendOrder = s.sys.sendOrder

/-- Step 9 with no access on any list (R101). -/
theorem stepIssue_undisturbed {k : RecordKey} {s : State} {r : Record} (h : s.record? k = some r)
    (hacc : ∀ q < Config.ringCount, (s.ring q).accesses = []) : Undisturbed s (stepIssue k s)
      ∧ (stepIssue k s).drive.lowPower = s.drive.lowPower.stirred := by
  have hwalk := stepIssue_walked h
  refine ⟨⟨hwalk.regions, rings_eq_of_ring fun q hq => ?_, hwalk.keys, hwalk.notDue nofun⟩, ?_⟩
  · simp only [stepIssue, h]
    rw [takeHostTag_eq]
    refine (ring_mapRings (Ring.issueAccesses k) _ q).trans ?_
    rw [if_pos (show q < 4 from hq)]
    exact issueAccesses_of_no_accesses k (hacc q hq)
  · simp only [stepIssue, h]
    unfold takeHostTag
    cases tagOf k <;> rfl

/-- What issue without a wait leaves (R101). -/
structure IssuedPlain (k : RecordKey) (r : Record) (s u : State) (x : Record) : Prop where
  record      : u.record? k = some x
  alike       : r.Alike x
  state       : x.state = .issued
  part        : x.part1 = .outstanding
  command     : ∃ c, u.drive.issueOrder = s.drive.issueOrder ++ [c] ∧ r.issues c
  tag         : ∀ t, tagOf k = some t → t < Config.tagCount → u.tagUser t = some (.hostFirst k)
  undisturbed : Undisturbed s u
  lowPower    : u.drive.lowPower = s.drive.lowPower.stirred

theorem stepIssue_plain {k : RecordKey} {s : State} {r : Record} (h : s.record? k = some r)
    (hacc : ∀ q < Config.ringCount, (s.ring q).accesses = []) :
    IssuedPlain k r s (stepIssue k s) { r with state := .issued, part1 := .outstanding } := by
  have hwalk := stepIssue_walked h
  obtain ⟨hund, hlow⟩ := stepIssue_undisturbed h hacc
  obtain ⟨-, ⟨c, hc, hissues⟩, htag⟩ := hwalk.issued.1 rfl
  have hkey : r.key = k := record?_key h
  refine ⟨hwalk.record, hwalk.alike, rfl, rfl, ⟨c, hc, (issues_congr hwalk.alike).1 hissues⟩, fun t ht hlt => ?_, hund, hlow⟩
  have := htag t (by rw [← ht, ← hkey]) hlt
  rw [this, ← hkey]

theorem IssuedPlain.of_same {k : RecordKey} {r r' x : Record} {s t u : State} (h : IssuedPlain k r' t u x) (halike : r.Alike r')
    (hregions : t.regions = s.regions) (hrings : t.rings = s.rings) (hkeys : t.keys = s.keys) (hsys : t.sys = s.sys)
    (hdrive : t.drive = s.drive) : IssuedPlain k r s u x where
  record := h.record
  alike := halike.trans h.alike
  state := h.state
  part := h.part
  command := by
    obtain ⟨c, hc, hissues⟩ := h.command
    exact ⟨c, by rw [hc, hdrive], (issues_congr halike).1 hissues⟩
  tag := h.tag
  undisturbed := ⟨h.undisturbed.regions.trans hregions, h.undisturbed.rings.trans hrings, h.undisturbed.keys.trans hkeys,
    h.undisturbed.sendOrder.trans (by rw [hsys])⟩
  lowPower := by rw [h.lowPower, hdrive]

/-- Step 8 with no chunk in flight (R100). -/
theorem stepSoleWait_plain {k : RecordKey} {s : State} {r : Record} (h : s.record? k = some r) (hchunk : s.keep.chunk = none)
    (hacc : ∀ q < Config.ringCount, (s.ring q).accesses = []) : ∃ x, IssuedPlain k r s (stepSoleWait k s) x := by
  unfold stepSoleWait
  cases hk : k == RecordKey.sole
  · exact ⟨_, stepIssue_plain h hacc⟩
  · have hmark := record?_mapRecord_some (f := fun r => { r with standing := true }) (fun _ e => e) h
    dsimp only
    rw [cond_true]
    generalize hm : mapRecord k (fun r => { r with standing := true }) s = m at hmark ⊢
    have hrec : (withdrawRequest m).record? k = some { r with standing := true } :=
      (record?_congr (congrArg Tracker.records (withdrawRequest_tracker m)) k).trans hmark
    have hrings : (withdrawRequest m).rings = s.rings := (withdrawRequest_rings m).trans (by rw [← hm]; rfl)
    have hnone : (withdrawRequest m).keep.chunk.isSome = false := by
      rw [withdrawRequest_eq, ← hm]
      show s.keep.chunk.isSome = false
      rw [hchunk]
      rfl
    rw [hnone, cond_false]
    have hissued := stepIssue_plain hrec fun q hq => by rw [ring_congr hrings]; exact hacc q hq
    refine ⟨_, hissued.of_same ⟨rfl, rfl, rfl, rfl, rfl, rfl, rfl, rfl, rfl, rfl⟩ ?_ hrings ?_ ?_ ?_⟩
    · rw [withdrawRequest_regions, ← hm]; rfl
    · rw [withdrawRequest_keys, ← hm]; rfl
    · rw [withdrawRequest_sys, ← hm]; rfl
    · rw [withdrawRequest_drive, ← hm]; rfl

/-- Steps 5 to 9 of a record without a split, with no access on any list, no job and no chunk. -/
theorem stepRingOrder_plain {k : RecordKey} {s : State} {r : Record} (h : s.record? k = some r) (hsplit : r.split = none)
    (hqueue : s.keep.queue = []) (hchunk : s.keep.chunk = none) (hacc : ∀ q < Config.ringCount, (s.ring q).accesses = []) :
    ∃ x, IssuedPlain k r s (stepRingOrder k s) x := by
  have hconflicts : s.conflictsOf k = [] := by
    have hnil : (s.rings.toList.flatMap (Ring.conflictsOf k)) = [] := by
      rw [rings_toList, List.flatMap_map, List.flatMap_eq_nil_iff]
      intro q hq
      rw [Ring.conflictsOf, hacc q (List.mem_range.1 hq)]
      rfl
    rw [State.conflictsOf, hnil]
    rfl
  have hblocked : s.blocked k = false := by rw [State.blocked, hqueue]; rfl
  have hstep : stepRingOrder k s = stepSoleWait k s := by
    simp only [stepRingOrder, hconflicts, stepOverrun, hblocked, cond_false, stepTagWait, h, hsplit, Option.isSome_none,
      Bool.and_false]
  rw [hstep]
  exact stepSoleWait_plain h hchunk hacc

/-! ## The obligation -/

/-- The image of the one run of a plain command. -/
theorem imageOf_plainRun (s : State) (x n : Nat) :
    s.imageOf [plainRun x n] n = some { first := { start := x, count := n }, second := none } := rfl

/-- Steps 3 to 9 of a record with one plain run. -/
theorem stepLookup_plain {k : RecordKey} {s : State} {r : Record} {x n : Nat} (h : s.record? k = some r)
    (hruns : r.runs = [plainRun x n]) (hsplit : r.split = none)
    (hqueue : s.keep.queue = []) (hchunk : s.keep.chunk = none) (hacc : ∀ q < Config.ringCount, (s.ring q).accesses = []) :
    ∃ y, IssuedPlain k r s (stepLookup k s) y := by
  have hl : s.lookupRuns r.runs = .captured := by
    rw [hruns]
    exact lookupRuns_captured nofun
  have hcapture : s.captureRuns r.runs = r.runs := by
    rw [hruns]
    rfl
  rw [stepLookup_of_captured h hl]
  have hpass := captured_passes h
  rw [hcapture] at hpass
  have hstep : stepAccept k (endHold k (mapRecord k (fun r => { r with runs := s.captureRuns r.runs }) s))
      = stepRingOrder k (endHold k (mapRecord k (fun r => { r with runs := s.captureRuns r.runs }) s)) := by
    simp only [stepAccept, hpass.record, hruns]
    rfl
  rw [hstep]
  obtain ⟨y, hy⟩ := stepRingOrder_plain hpass.record hsplit hqueue hchunk hacc
  exact ⟨y, hy.of_same hpass.alike rfl rfl rfl rfl rfl⟩

/-- Settles O39: the command passes every step of R94 as it is. -/
theorem plainCommandIssued : Obligations.PlainCommandIssued := by
  intro c a s harr hlink hv hpass hqueue hchunk hmap hrings
  have hexec := exec_accepted harr hlink hv
  have hrec := record?_withArrival hv
  have hacc : ∀ q < Config.ringCount, (s.ring q).accesses = [] := fun q hq => (hrings q hq).2
  -- the walk ends at issue, and the record it ends with issues the command's own range
  have hwalk : ∃ (r x : Record), IssuedPlain a.key r s (startSteps a.key (s.withArrival a)) x ∧ r.split = none
      ∧ ∀ d, r.issues d → d = freshCommand a.tag (.hostFirst a.key) a.kind.downOp a.host a.count a.host a.frame := by
    cases hdata : a.kind.isData
    · have hstep : startSteps a.key (s.withArrival a) = stepSoleWait a.key (s.withArrival a) := by
        have hd : (s.arrivalRecord a).kind.isData = false := hdata
        simp only [startSteps, hrec, hd, cond_false]
      rw [hstep]
      obtain ⟨x, hx⟩ := stepSoleWait_plain hrec hchunk hacc
      refine ⟨_, x, hx.of_same (.refl _) rfl rfl rfl rfl rfl, rfl, fun d hd => ?_⟩
      rw [hd.2 hdata]
      show freshCommand (tagOf a.key) (.hostFirst a.key) a.kind.downOp 0 (if a.kind = .identify then 1 else 0) 0 a.frame = _
      rw [tagOf_key]
      cases c <;> cases harr <;> first | rfl | cases hdata
    · have hn := arrival_count_pos harr hdata
      have hf := classifyFailure_unmapped hmap hpass hqueue (fun q hq => (hrings q hq).1) a.kind.isWrite hn a.host
      rw [startSteps_passed hv hdata (not_drains_unmapped hmap _ _) hf]
      have hclassify := classify_unmapped hmap hpass a.host a.count
      have hruns : (s.arrivalClassified a).runs = [plainRun a.host a.count] := hclassify
      have himage : (s.arrivalClassified a).image = some { first := { start := a.host, count := a.count }, second := none } := by
        show s.imageOf (s.classify a.host a.count) a.count = _
        rw [hclassify]
        rfl
      have hsplit : (s.arrivalClassified a).split = none := by
        show (s.imageOf (s.classify a.host a.count) a.count).bind (splitOf a.host a.count) = none
        rw [hclassify]
        rfl
      have huncounted : (s.withArrival a).afterClassify a.key (s.arrivalRecord a)
          = mapRecord a.key (fun x => x.classified (s.withArrival a)) (s.withArrival a) := by
        have hcounted : ((s.arrivalRecord a).classified (s.withArrival a)).counted = [] := by
          rw [(sameView_withArrival s a).classified]
          exact matchedEntries_unmapped hmap _ _
        have hlive : ((s.arrivalRecord a).classified (s.withArrival a)).rings = [] := by
          rw [(sameView_withArrival s a).classified]
          show liveRings (s.classify a.host a.count) = []
          rw [hclassify]
          rfl
        rw [State.afterClassify, hcounted, hlive]
        rfl
      have hrec' := record?_arrivalClassified hv
      rw [huncounted] at hrec' ⊢
      obtain ⟨x, hx⟩ := stepLookup_plain hrec' hruns hsplit hqueue hchunk hacc
      refine ⟨_, x, hx.of_same (.refl _) rfl rfl rfl rfl rfl, hsplit, fun d hd => ?_⟩
      rw [hd.1 _ hdata himage]
      show freshCommand (tagOf a.key) (.hostFirst a.key) a.kind.downOp a.host a.count a.host a.frame = _
      rw [tagOf_key]
  obtain ⟨r, x, hx, hsplit, hissues⟩ := hwalk
  obtain ⟨d, hd, hdi⟩ := hx.command
  have hxsplit : x.split = none := by
    have := hx.alike.split
    rw [hsplit] at this
    exact Option.map_eq_none_iff.1 this
  exact ⟨_, x, hexec, hx.record, hx.state, hx.part, hxsplit, by rw [hd, hissues d hdi], hx.lowPower.trans (stirred_eq _),
    fun t ht => hx.tag t ((tagOf_key a).trans ht) (tag_lt_of_accepted hv ht), hx.undisturbed.sendOrder, hx.undisturbed.regions,
    hx.undisturbed.rings, hx.undisturbed.keys⟩

end Sys2Proof.Machine
end

section
/-! SUPPORT. What is given up: buffers released (R121, R129), counts taken back (R17, R46), and the ends of the chunk in flight
and of the Active job (R143, R144, R151). -/

namespace Sys2Proof.Machine

/-! ## Buffers released -/

theorem buffer_setBuffer (i : Nat) (b : Buffer) (s : State) (j : Nat) :
    (setBuffer i b s).buffer j = if j = i ∧ i < 64 then b else s.buffer j :=
  vector_getD_setIfInBounds_eq _ _ _ _ _

theorem inGrant_iff (s : State) (i : Nat) : s.inGrant i = true ↔ s.engine.grant.bind Grant.buffer = some i := by
  unfold State.inGrant
  cases s.engine.grant with
  | none => simp
  | some g => simp

/-- The ready queues of the one state are those of the other with buffers withdrawn. -/
structure QueuesShrink (s t : State) : Prop where
  readQ  : t.engine.readQ.Sublist s.engine.readQ
  writeQ : t.engine.writeQ.Sublist s.engine.writeQ
  keepQ  : t.engine.keepQ.Sublist s.engine.keepQ

theorem QueuesShrink.trans {s t u : State} (h : QueuesShrink s t) (g : QueuesShrink t u) : QueuesShrink s u :=
  ⟨g.readQ.trans h.readQ, g.writeQ.trans h.writeQ, g.keepQ.trans h.keepQ⟩

/-- The buffer stands in no ready queue. -/
def State.unqueued (s : State) (i : Nat) : Prop := i ∉ s.engine.readQ ∧ i ∉ s.engine.writeQ ∧ i ∉ s.engine.keepQ

theorem State.unqueued.mono {s t : State} {i : Nat} (h : s.unqueued i) (g : QueuesShrink s t) : t.unqueued i :=
  ⟨fun hi => h.1 (g.readQ.mem hi), fun hi => h.2.1 (g.writeQ.mem hi), fun hi => h.2.2 (g.keepQ.mem hi)⟩

/-- The buffer as a release leaves it: Free, or set aside for a keep request (R121). -/
def State.freedAs (s : State) (b : Buffer) : Prop := b = Buffer.empty ∨ b = Buffer.aside ∧ s.keep.request ≠ none

theorem unqueued_withdrawFromQueues (i : Nat) (s : State) : (withdrawFromQueues i s).unqueued i := by
  refine ⟨?_, ?_, ?_⟩ <;> simp [withdrawFromQueues]

theorem queuesShrink_withdrawFromQueues (i : Nat) (s : State) : QueuesShrink s (withdrawFromQueues i s) :=
  ⟨List.filter_sublist, List.filter_sublist, List.filter_sublist⟩

theorem wantsSetAside_request {s : State} (h : s.wantsSetAside = true) : s.keep.request ≠ none := by
  intro hnone
  rw [State.wantsSetAside, hnone] at h
  cases h

/-- One release (R121). -/
theorem releaseNow_spec (i : Nat) (s : State) :
    (releaseNow i s).engine.grant = s.engine.grant ∧ (∀ j, j ≠ i → (releaseNow i s).buffer j = s.buffer j)
      ∧ (i < 64 → s.freedAs ((releaseNow i s).buffer i)) ∧ (releaseNow i s).unqueued i ∧ QueuesShrink s (releaseNow i s) := by
  have hbase := unqueued_withdrawFromQueues i s
  have hshrink := queuesShrink_withdrawFromQueues i s
  have hother (t : State) (b : Buffer) (j : Nat) (hj : j ≠ i) : (setBuffer i b t).buffer j = t.buffer j := by
    rw [buffer_setBuffer, if_neg fun h => hj h.1]
  have hown (t : State) (b : Buffer) (hi : i < 64) : (setBuffer i b t).buffer i = b := by
    rw [buffer_setBuffer, if_pos ⟨rfl, hi⟩]
  unfold releaseNow
  dsimp only
  cases hw : (setBuffer i Buffer.empty (withdrawFromQueues i s)).wantsSetAside
  · exact ⟨rfl, fun j hj => hother _ _ j hj, fun hi => .inl (hown _ _ hi), hbase,
      ⟨hshrink.readQ, hshrink.writeQ, hshrink.keepQ⟩⟩
  · have hreq : s.keep.request ≠ none :=
      wantsSetAside_request (s := setBuffer i Buffer.empty (withdrawFromQueues i s)) hw
    exact ⟨rfl, fun j hj => (hother _ _ j hj).trans (hother _ _ j hj), fun hi => .inr ⟨hown _ _ hi, hreq⟩, hbase,
      ⟨hshrink.readQ, hshrink.writeQ, hshrink.keepQ⟩⟩

/-- Buffers of the owners `os` are released, one in the grant at its end; all others stay (R121, R129). -/
structure Releases (os : Owner → Prop) (s t : State) : Prop where
  grantBuffer : t.engine.grant.bind Grant.buffer = s.engine.grant.bind Grant.buffer
  fate        : t.engine.grant.map Grant.fate = s.engine.grant.map Grant.fate ∨ t.engine.grant.map Grant.fate = some .discard
  queues      : QueuesShrink s t
  request     : t.keep.request = s.keep.request
  kept        : ∀ i < Config.bufferCount, ¬ (os (s.buffer i).owner ∧ (s.buffer i).state ≠ .setAside) → t.buffer i = s.buffer i
  freed       : ∀ i < Config.bufferCount, os (s.buffer i).owner → (s.buffer i).state ≠ .setAside →
    s.engine.grant.bind Grant.buffer ≠ some i → s.freedAs (t.buffer i) ∧ t.unqueued i
  held        : ∀ i < Config.bufferCount, os (s.buffer i).owner → (s.buffer i).state ≠ .setAside →
    s.engine.grant.bind Grant.buffer = some i →
      (t.buffer i).owner = .ended ∧ t.engine.grant.map Grant.fate = some .discard

theorem Releases.of_engine {os : Owner → Prop} {s t : State} (hos : ∀ o, ¬ os o) (he : t.engine = s.engine)
    (hr : t.keep.request = s.keep.request) : Releases os s t where
  grantBuffer := by rw [he]
  fate := .inl (by rw [he])
  queues := ⟨by rw [he], by rw [he], by rw [he]⟩
  request := hr
  kept i _ _ := by unfold State.buffer; rw [he]
  freed i _ h := absurd h (hos _)
  held i _ h := absurd h (hos _)

theorem Releases.trans {os ps : Owner → Prop} {s t u : State} (h : Releases os s t) (g : Releases ps t u) (hnone : ¬ ps .none)
    (hended : ¬ ps .ended) : Releases (fun o => os o ∨ ps o) s u where
  grantBuffer := g.grantBuffer.trans h.grantBuffer
  fate := by
    obtain hg | hg := g.fate
    · rw [hg]
      exact h.fate
    · exact .inr hg
  queues := h.queues.trans g.queues
  request := g.request.trans h.request
  kept i hi hnot := by
    have hs := h.kept i hi fun hos => hnot ⟨.inl hos.1, hos.2⟩
    refine (g.kept i hi ?_).trans hs
    rw [hs]
    exact fun hps => hnot ⟨.inr hps.1, hps.2⟩
  freed i hi hos hstate hgrant := by
    by_cases ho : os (s.buffer i).owner
    · obtain ⟨hfreed, hun⟩ := h.freed i hi ho hstate hgrant
      refine ⟨?_, hun.mono g.queues⟩
      rw [g.kept i hi ?_]
      · exact hfreed
      · obtain hb | ⟨hb, -⟩ := hfreed
        · rw [hb]
          exact fun hps => hnone hps.1
        · rw [hb]
          exact fun hps => hps.2 rfl
    · have hs := h.kept i hi fun hos => ho hos.1
      have := g.freed i hi (by rw [hs]; exact hos.resolve_left ho) (by rw [hs]; exact hstate) (by rw [h.grantBuffer]; exact hgrant)
      unfold State.freedAs at this ⊢
      rw [h.request] at this
      exact this
  held i hi hos hstate hgrant := by
    by_cases ho : os (s.buffer i).owner
    · obtain ⟨howner, hfate⟩ := h.held i hi ho hstate hgrant
      refine ⟨?_, ?_⟩
      · rw [g.kept i hi]
        · exact howner
        · rw [howner]
          exact fun hps => hended hps.1
      · obtain hg | hg := g.fate
        · rw [hg, hfate]
        · exact hg
    · have hs := h.kept i hi fun hos => ho hos.1
      exact g.held i hi (by rw [hs]; exact hos.resolve_left ho) (by rw [hs]; exact hstate) (by rw [h.grantBuffer]; exact hgrant)

theorem Releases.congr {os ps : Owner → Prop} {s t : State} (h : Releases os s t) (hps : ∀ o, ps o ↔ os o) : Releases ps s t := by
  obtain rfl : ps = os := funext fun o => propext (hps o)
  exact h

/-- Beyond the engine and the request nothing of the states matters. -/
theorem Releases.of_same {os : Owner → Prop} {s s' t t' : State} (h : Releases os s t) (he : s'.engine = s.engine)
    (hr : s'.keep.request = s.keep.request) (he' : t'.engine = t.engine) (hr' : t'.keep.request = t.keep.request) :
    Releases os s' t' := by
  have hb (i : Nat) : s'.buffer i = s.buffer i := by unfold State.buffer; rw [he]
  have hb' (i : Nat) : t'.buffer i = t.buffer i := by unfold State.buffer; rw [he']
  constructor
  · rw [he, he']; exact h.grantBuffer
  · rw [he, he']; exact h.fate
  · exact ⟨by rw [he, he']; exact h.queues.readQ, by rw [he, he']; exact h.queues.writeQ, by rw [he, he']; exact h.queues.keepQ⟩
  · rw [hr, hr']; exact h.request
  · intro i hi
    rw [hb, hb']
    exact h.kept i hi
  · intro i hi
    unfold State.freedAs State.unqueued
    rw [hb, hb', he, he', hr]
    exact h.freed i hi
  · intro i hi
    rw [hb, hb', he, he']
    exact h.held i hi

theorem Releases.released {os : Owner → Prop} {s u : State} (h : Releases os s u) {o : Owner} (ho : os o) : s.released u o := by
  intro i hi howner hstate
  refine ⟨fun hgrant => h.held i hi (howner ▸ ho) hstate hgrant, fun hgrant => ?_⟩
  obtain ⟨hfreed, hun⟩ := h.freed i hi (howner ▸ ho) hstate hgrant
  refine ⟨?_, hun⟩
  obtain hb | ⟨hb, hreq⟩ := hfreed
  · rw [hb]
    exact .inl rfl
  · rw [hb]
    exact .inr ⟨rfl, hreq⟩

/-- What the release of one buffer of an owner that ends does (R121, R129). -/
def releaseEnded (s : State) (i : Nat) : State :=
  bif s.inGrant i then setGrantFate .discard (mapBuffer i (fun b => { b with owner := .ended }) s) else releaseNow i s

theorem releaseOwner_eq (o : Owner) (s : State) :
    releaseOwner o s = (s.buffersWhere fun b => b.owner == o && b.state != .setAside).foldl releaseEnded s := rfl

theorem engineOnly_releaseEnded (s : State) (i : Nat) : EngineOnly s (releaseEnded s i) := by
  unfold releaseEnded
  cases s.inGrant i
  · exact engineOnly_releaseNow i s
  · rfl

theorem engineOnly_releaseOwner (o : Owner) (s : State) : EngineOnly s (releaseOwner o s) :=
  EngineOnly.foldl engineOnly_releaseEnded _ _

theorem EngineOnly.request {s t : State} (h : EngineOnly s t) : t.keep.request = s.keep.request := by
  rw [h]

/-- Releasing the buffers of a list, each once (R121, R129). -/
theorem releaseList_spec {l : List Nat} (hnodup : l.Nodup) (hlt : ∀ i ∈ l, i < Config.bufferCount) (s : State) :
    (l.foldl releaseEnded s).engine.grant.bind Grant.buffer = s.engine.grant.bind Grant.buffer
      ∧ ((l.foldl releaseEnded s).engine.grant.map Grant.fate = s.engine.grant.map Grant.fate
        ∨ (l.foldl releaseEnded s).engine.grant.map Grant.fate = some .discard)
      ∧ QueuesShrink s (l.foldl releaseEnded s)
      ∧ (∀ i, i ∉ l → (l.foldl releaseEnded s).buffer i = s.buffer i)
      ∧ ∀ i ∈ l, (s.engine.grant.bind Grant.buffer ≠ some i →
          s.freedAs ((l.foldl releaseEnded s).buffer i) ∧ (l.foldl releaseEnded s).unqueued i)
        ∧ (s.engine.grant.bind Grant.buffer = some i → ((l.foldl releaseEnded s).buffer i).owner = .ended
          ∧ (l.foldl releaseEnded s).engine.grant.map Grant.fate = some .discard) := by
  induction l generalizing s with
  | nil => exact ⟨rfl, .inl rfl, ⟨.refl _, .refl _, .refl _⟩, fun _ _ => rfl, nofun⟩
  | cons a l ih =>
      obtain ⟨ha, hl⟩ := List.nodup_cons.1 hnodup
      have haltt := hlt a List.mem_cons_self
      obtain ⟨hbuf, hfate, hqueues, hkept, hdone⟩ := ih hl (fun i hi => hlt i (List.mem_cons_of_mem _ hi)) (releaseEnded s a)
      rw [List.foldl_cons]
      generalize hu : l.foldl releaseEnded (releaseEnded s a) = u at hbuf hfate hqueues hkept hdone ⊢
      have hreq : (releaseEnded s a).keep.request = s.keep.request := (engineOnly_releaseEnded s a).request
      -- the first buffer of the list, in the grant or not
      have hstep : (releaseEnded s a).engine.grant.bind Grant.buffer = s.engine.grant.bind Grant.buffer
          ∧ ((releaseEnded s a).engine.grant.map Grant.fate = s.engine.grant.map Grant.fate
            ∨ (releaseEnded s a).engine.grant.map Grant.fate = some .discard)
          ∧ QueuesShrink s (releaseEnded s a) ∧ (∀ j, j ≠ a → (releaseEnded s a).buffer j = s.buffer j)
          ∧ (s.engine.grant.bind Grant.buffer ≠ some a →
            s.freedAs ((releaseEnded s a).buffer a) ∧ (releaseEnded s a).unqueued a)
          ∧ (s.engine.grant.bind Grant.buffer = some a → ((releaseEnded s a).buffer a).owner = .ended
            ∧ (releaseEnded s a).engine.grant.map Grant.fate = some .discard) := by
        unfold releaseEnded
        cases hg : s.inGrant a
        · have hne : s.engine.grant.bind Grant.buffer ≠ some a := fun h => by rw [(inGrant_iff s a).2 h] at hg; cases hg
          obtain ⟨h1, h2, h3, h4, h5⟩ := releaseNow_spec a s
          rw [cond_false, h1]
          exact ⟨rfl, .inl rfl, h5, h2, fun _ => ⟨h3 haltt, h4⟩, fun h => absurd h hne⟩
        · have heq := (inGrant_iff s a).1 hg
          rw [cond_true]
          have hgrant : ∃ g, s.engine.grant = some g := by
            cases hsome : s.engine.grant with
            | none => rw [hsome] at heq; cases heq
            | some g => exact ⟨g, rfl⟩
          obtain ⟨g, hgrant⟩ := hgrant
          have hnew : (setGrantFate .discard (mapBuffer a (fun b => { b with owner := .ended }) s)).engine.grant
              = some { g with fate := .discard } := by
            show (s.engine.grant.map fun g => { g with fate := GrantFate.discard }) = _
            rw [hgrant]
            rfl
          refine ⟨by rw [hnew, hgrant]; rfl, .inr (by rw [hnew]; rfl), ⟨.refl _, .refl _, .refl _⟩, fun j hj => ?_,
            fun h => absurd heq h, fun _ => ⟨?_, by rw [hnew]; rfl⟩⟩
          · exact (buffer_setBuffer a _ s j).trans (if_neg fun h => hj h.1)
          · exact congrArg Buffer.owner ((buffer_setBuffer a _ s a).trans (if_pos ⟨rfl, haltt⟩))
      obtain ⟨sbuf, sfate, squeues, sother, sfreed, sheld⟩ := hstep
      refine ⟨hbuf.trans sbuf, ?_, squeues.trans hqueues, fun i hi => ?_, fun i hi => ?_⟩
      · obtain hf | hf := hfate
        · rw [hf]
          exact sfate
        · exact .inr hf
      · obtain ⟨hia, hil⟩ := not_or.1 (mt List.mem_cons.2 hi)
        exact (hkept i hil).trans (sother i hia)
      · obtain rfl | hil := List.mem_cons.1 hi
        · rw [hkept i ha]
          refine ⟨fun hne => ?_, fun heq => ?_⟩
          · obtain ⟨h1, h2⟩ := sfreed hne
            exact ⟨h1, h2.mono hqueues⟩
          · obtain ⟨h1, h2⟩ := sheld heq
            refine ⟨h1, ?_⟩
            obtain hf | hf := hfate
            · rw [hf, h2]
            · exact hf
        · have := hdone i hil
          unfold State.freedAs at this ⊢
          rw [hreq, sbuf] at this
          exact this

/-- The buffers of an owner that ends (R121, R129). -/
theorem releases_releaseOwner (o : Owner) (s : State) : Releases (fun p => p = o) s (releaseOwner o s) := by
  have hmem (i : Nat) : i ∈ (s.buffersWhere fun b => b.owner == o && b.state != .setAside) ↔
      i < Config.bufferCount ∧ (s.buffer i).owner = o ∧ (s.buffer i).state ≠ .setAside := by
    rw [mem_buffersWhere, Bool.and_eq_true, beq_iff_eq, bne_iff_ne]
  obtain ⟨hbuf, hfate, hqueues, hkept, hdone⟩ := releaseList_spec (buffersWhere_nodup s _) (fun i hi => ((hmem i).1 hi).1) s
  rw [releaseOwner_eq]
  refine ⟨hbuf, hfate, hqueues, (engineOnly_releaseOwner o s).request, fun i hi hnot => hkept i fun h => hnot ((hmem i).1 h).2,
    fun i hi ho hs hg => (hdone i ((hmem i).2 ⟨hi, ho, hs⟩)).1 hg, fun i hi ho hs hg => (hdone i ((hmem i).2 ⟨hi, ho, hs⟩)).2 hg⟩

end Sys2Proof.Machine
end

section
/-! SUPPORT. The end of the chunk in flight and of the Active job: the counts, the part tag and the buffers given up, and the
job's entry in the Outcome List (R17, R133, R143, R144, R151). -/

namespace Sys2Proof.Machine

/-! ## Counts taken back (R17, R46) -/

theorem countDown_eq (l : List Nat) (s : State) :
    countDown l s = { s with regions := { s.regions with entries := (countDown l s).regions.entries } } := by
  unfold countDown
  induction l generalizing s with
  | nil => rfl
  | cons i l ih =>
      rw [List.foldl_cons]
      exact ih _

theorem usersDown_eq (l : List Nat) (s : State) : usersDown l s = { s with rings := (usersDown l s).rings } := by
  unfold usersDown
  induction l generalizing s with
  | nil => rfl
  | cons i l ih =>
      rw [List.foldl_cons]
      exact ih _

theorem entry_countDown (l : List Nat) (s : State) {i : Nat} (hi : i < Config.regionCount) :
    (countDown l s).entry i = { s.entry i with inFlight := (s.entry i).inFlight - l.count i } := by
  induction l generalizing s with
  | nil => rfl
  | cons j l ih =>
      show (countDown l (mapEntry j (fun e => { e with inFlight := e.inFlight - 1 }) s)).entry i = _
      rw [ih, entry_mapEntry, List.count_cons]
      by_cases hij : i = j
      · subst hij
        simp only [show i < 64 from hi, and_self, if_true, beq_self_eq_true]
        rw [Nat.sub_sub, Nat.add_comm 1]
      · rw [if_neg (fun h => hij h.1), beq_eq_false_iff_ne.2 (Ne.symm hij)]
        rfl

theorem ring_usersDown (l : List Nat) (s : State) {q : Nat} (hq : q < Config.ringCount) :
    (usersDown l s).ring q = { s.ring q with users := (s.ring q).users - l.count q } := by
  induction l generalizing s with
  | nil => rfl
  | cons p l ih =>
      show (usersDown l (mapRing p (fun x => { x with users := x.users - 1 }) s)).ring q = _
      rw [ih, ring_mapRing, List.count_cons]
      by_cases hpq : q = p
      · subst hpq
        simp only [show q < 4 from hq, and_self, if_true, beq_self_eq_true]
        rw [Nat.sub_sub, Nat.add_comm 1]
      · rw [if_neg (fun h => hpq h.1), beq_eq_false_iff_ne.2 (Ne.symm hpq)]
        rfl

theorem entry_congr {s t : State} (h : t.regions.entries = s.regions.entries) (i : Nat) : t.entry i = s.entry i := by
  unfold State.entry
  rw [h]

/-! ## The end of the chunk in flight (R143, R144) -/

/-- What the end of the chunk `c` of the Active job `j` leaves. -/
structure ChunkEnded (s u : State) (c : Chunk) (j : Job) (rest : List Job) : Prop where
  keep     : u.keep = { s.keep with queue := { j with phase := .idle } :: rest, chunk := none }
  releases : Releases (fun o => o = .keep) s u
  drain    : u.regions.drain = s.regions.drain
  entry    : ∀ i < Config.regionCount, u.entry i = { s.entry i with inFlight := (s.entry i).inFlight - c.counted.count i }
  ring     : ∀ q < Config.ringCount, u.ring q = { s.ring q with users := (s.ring q).users - if q = j.ring then 1 else 0 }
  tag      : ∀ t, u.tagUser t = if t = c.tag then none else s.tagUser t
  drive    : u.drive = { s.drive with tags := u.drive.tags }
  keys     : u.keys = s.keys
  tracker  : u.tracker = s.tracker
  sys      : u.sys = s.sys
  clock    : u.clock = s.clock
  line     : u.line = s.line
  wires    : u.wires = s.wires

theorem tagUser_of_le (s : State) {t : Nat} (h : 32 ≤ t) : s.tagUser t = none := vector_getD_of_le _ _ h

theorem endChunk_spec {s : State} {c : Chunk} {j : Job} {rest : List Job} (hq : s.keep.queue = j :: rest)
    (hc : s.keep.chunk = some c) : ChunkEnded s (endChunk s) c j rest := by
  have hend : endChunk s = mapActive (fun j => { j with phase := .idle })
      (setChunk none (setTag c.tag none (usersDown [j.ring] (countDown c.counted (releaseOwner .keep s))))) := by
    simp only [endChunk, hc, State.activeJob, hq, List.head?_cons]
  have hrelease := engineOnly_releaseOwner .keep s
  have hreleases := releases_releaseOwner .keep s
  rw [hend]
  generalize releaseOwner .keep s = t at hrelease hreleases ⊢
  have hframe : t = { s with engine := t.engine } := hrelease
  have hkeep : t.keep = s.keep := by rw [hframe]
  rw [usersDown_eq]
  have hentry := fun (i : Nat) (hi : i < Config.regionCount) => entry_countDown c.counted t hi
  have hring := fun (q : Nat) (hq : q < Config.ringCount) => ring_usersDown [j.ring] (countDown c.counted t) hq
  have hrings : (countDown c.counted t).rings = t.rings := by rw [countDown_eq]
  have hregions := countDown_eq c.counted t
  generalize usersDown [j.ring] (countDown c.counted t) = v at hring ⊢
  generalize countDown c.counted t = w at hentry hrings hregions hring ⊢
  constructor
  · show ({ w.keep with chunk := none, queue := match w.keep.queue with | j :: rest => _ :: rest | [] => [] } : KeepUnit) = _
    rw [hregions]
    show ({ t.keep with chunk := none, queue := match t.keep.queue with | j :: rest => _ :: rest | [] => [] } : KeepUnit) = _
    rw [hkeep, hq]
  · refine hreleases.of_same rfl rfl ?_ ?_
    · show w.engine = t.engine
      rw [hregions]
    · show w.keep.request = t.keep.request
      rw [hregions]
  · show w.regions.drain = s.regions.drain
    rw [hregions, hframe]
  · intro i hi
    show w.entry i = _
    rw [hentry i hi, hframe]
    rfl
  · intro q hq
    have hv : (mapActive (fun j => { j with phase := .idle }) (setChunk none (setTag c.tag none { w with rings := v.rings }))).ring q
        = v.ring q := rfl
    rw [hv, hring q hq, ring_congr hrings, hframe]
    show ({ s.ring q with users := (s.ring q).users - [j.ring].count q } : Ring) = _
    rw [List.count_singleton]
    by_cases h : q = j.ring
    · simp [h]
    · rw [if_neg h, beq_eq_false_iff_ne.2 (Ne.symm h)]
      rfl
  · intro x
    have hw : w.drive = s.drive := by rw [hregions, hframe]
    have hbase : ({ w with rings := v.rings } : State).tagUser x = s.tagUser x := by
      show w.drive.tags.getD x none = _
      rw [hw]
      rfl
    refine (tagUser_setTag c.tag none { w with rings := v.rings } x).trans ?_
    rw [hbase]
    by_cases hx : x = c.tag
    · by_cases ht : c.tag < 32
      · rw [if_pos ⟨hx, ht⟩, if_pos hx]
      · rw [if_neg fun h => ht h.2, if_pos hx]
        exact tagUser_of_le s (by omega)
    · rw [if_neg fun h => hx h.1, if_neg hx]
  · show ({ w.drive with tags := _ } : DrivePort) = _
    rw [hregions, hframe]
    rfl
  · show w.keys = _
    rw [hregions, hframe]
  · show w.tracker = _
    rw [hregions, hframe]
  · show w.sys = _
    rw [hregions, hframe]
  · show w.clock = _
    rw [hregions, hframe]
  · show w.line = _
    rw [hregions, hframe]
  · show w.wires = _
    rw [hregions, hframe]

/-! ## The end of the Active job (R151) -/

theorem filter_ids_of_nodup {j : Job} {rest : List Job} (h : ((j :: rest).map Job.id).Nodup) :
    ((j :: rest).filter fun x => decide (x.id ≠ j.id)) = rest := by
  obtain ⟨hj, -⟩ := List.nodup_cons.1 h
  rw [List.filter_cons_of_neg (by simp)]
  refine List.filter_eq_self.2 fun x hx => ?_
  have : x.id ≠ j.id := fun he => hj (he ▸ List.mem_map_of_mem hx)
  simpa using this

/-- The Active job leaves the queue and enters the Outcome List (R133, R151). -/
theorem endActive_eq {s : State} {j : Job} {rest : List Job} (hq : s.keep.queue = j :: rest)
    (hnodup : (s.keep.queue.map Job.id).Nodup) (o : JobOutcome) : endActive o s =
    latch .keepEnded { s with keep := { s.keep with
      queue := rest, outcomes := (j.entry o :: s.keep.outcomes).take Config.outcomePlaces } } := by
  have hfilter : (s.keep.queue.filter fun x => decide (x.id ≠ j.id)) = rest := by
    rw [hq] at hnodup ⊢
    exact filter_ids_of_nodup hnodup
  simp only [endActive, State.activeJob, hq, List.head?_cons, endJob]
  rw [← hq, hfilter]

end Sys2Proof.Machine
end

section
/-! SUPPORT. Link resets (R73, R88): the abandoned host commands, the dropped chunk and its job (R114, R152). -/

namespace Sys2Proof.Machine

/-! ## Giving records up (R114) -/

/-- What giving up the records of a list leaves of counts, users and buffers; nothing else changes. -/
structure GivenUp (l : List Record) (s t : State) : Prop where
  frame    : t = { s with
    regions := { s.regions with entries := t.regions.entries }, rings := t.rings, engine := t.engine }
  releases : Releases (fun o => ∃ r ∈ l, o = .record r.key) s t
  entry    : ∀ i < Config.regionCount, t.entry i =
    { s.entry i with inFlight := (s.entry i).inFlight - (l.map fun r => r.counted.count i).sum }
  ring     : ∀ q < Config.ringCount, t.ring q =
    { s.ring q with users := (s.ring q).users - (l.map fun r => r.rings.count q).sum }

theorem giveUp_spec (s : State) (r : Record) : GivenUp [r] s (giveUp s r) := by
  have hdown := countDown_eq r.counted s
  have hentry := fun (i : Nat) (hi : i < Config.regionCount) => entry_countDown r.counted s hi
  have hrings := congrArg State.rings hdown
  have husers := usersDown_eq r.rings (countDown r.counted s)
  have hring := fun (q : Nat) (hq : q < Config.ringCount) => ring_usersDown r.rings (countDown r.counted s) hq
  unfold giveUp
  generalize usersDown r.rings (countDown r.counted s) = v at husers hring ⊢
  generalize countDown r.counted s = w at hdown hentry hrings husers hring
  have hframe : v = { s with regions := { s.regions with entries := v.regions.entries }, rings := v.rings } := by
    rw [husers, hdown]
  have hengine := engineOnly_releaseOwner (.record r.key) v
  have hreleases := releases_releaseOwner (.record r.key) v
  generalize releaseOwner (.record r.key) v = u at hengine hreleases ⊢
  have hentries : u.regions.entries = w.regions.entries := by rw [hengine, husers]
  have hurings : u.rings = v.rings := by rw [hengine]
  refine ⟨?_, ?_, fun i hi => ?_, fun q hq => ?_⟩
  · rw [hengine, hframe]
  · refine (hreleases.of_same (s' := s) (t' := u) ?_ ?_ rfl rfl).congr fun o => by simp
    · rw [hframe]
    · rw [hframe]
  · rw [entry_congr hentries, hentry i hi]
    simp
  · have hsame : w.ring q = s.ring q := ring_congr hrings q
    rw [ring_congr hurings, hring q hq, hsame]
    simp

theorem GivenUp.trans {l m : List Record} {s t u : State} (h : GivenUp l s t) (g : GivenUp m t u) : GivenUp (l ++ m) s u where
  frame := by rw [g.frame, h.frame]
  releases := by
    refine (h.releases.trans g.releases (by rintro ⟨r, -, hr⟩; cases hr) (by rintro ⟨r, -, hr⟩; cases hr)).congr fun o => ?_
    simp only [List.mem_append, or_and_right, exists_or]
  entry i hi := by
    rw [g.entry i hi, h.entry i hi, List.map_append, List.sum_append, Nat.sub_sub]
  ring q hq := by
    rw [g.ring q hq, h.ring q hq, List.map_append, List.sum_append, Nat.sub_sub]

theorem giveUps_spec (l : List Record) (s : State) : GivenUp l s (l.foldl giveUp s) := by
  induction l generalizing s with
  | nil =>
      exact ⟨rfl, .of_engine (by simp) rfl rfl, fun _ _ => rfl, fun _ _ => rfl⟩
  | cons r l ih => exact (giveUp_spec s r).trans (ih (giveUp s r))

/-! ## Every host command abandoned (R88 step 1) -/

/-- What abandoning every host command leaves. -/
structure HostAbandoned (s t : State) : Prop where
  tracker  : t.tracker = Tracker.none
  drain    : t.regions.drain = []
  keys     : t.keys = { s.keys with missList := [] }
  sys      : t.sys = { s.sys with sendOrder := [], lastServed := none }
  ring     : ∀ q < Config.ringCount, t.ring q = { s.ring q with
    accesses := [], users := (s.ring q).users - (s.tracker.records.map fun r => r.rings.count q).sum }
  entry    : ∀ i < Config.regionCount, t.entry i =
    { s.entry i with inFlight := (s.entry i).inFlight - (s.tracker.records.map fun r => r.counted.count i).sum }
  releases : Releases (fun o => ∃ r ∈ s.tracker.records, o = .record r.key) s t
  keep     : t.keep = s.keep
  down     : ∀ c ∈ t.drive.issueOrder ++ t.drive.outstanding, c.user = .keep
  tag      : ∀ x k, t.tagUser x ≠ some (.hostFirst k) ∧ t.tagUser x ≠ some (.hostSecond k)
  link     : t.drive.link = s.drive.link
  wires    : t.wires = s.wires
  clock    : t.clock = s.clock
  line     : t.line = s.line

theorem not_isHost_iff (u : TagUser) : u.isHost = false ↔ u = .keep := by
  cases u <;> simp [TagUser.isHost, TagUser.record?]

theorem abandonHost_spec (s : State) : HostAbandoned s (abandonHost (clearDisk s)) := by
  have hgiven := giveUps_spec s.tracker.records (clearDisk s)
  unfold abandonHost
  change HostAbandoned s (clearTables (freeHostUsers (removeDown (fun c => c.user.isHost)
    (mapRings (fun q => { q with accesses := [] }) (s.tracker.records.foldl giveUp (clearDisk s))))))
  generalize s.tracker.records.foldl giveUp (clearDisk s) = g at hgiven ⊢
  obtain ⟨hframe, hreleases, hentry, hring⟩ := hgiven
  refine ⟨rfl, rfl, ?_, ?_, fun q hq => ?_, hentry, hreleases.of_same rfl rfl rfl rfl, ?_, fun c hc => ?_, fun x k => ?_, ?_, ?_, ?_, ?_⟩
  · show { g.keys with missList := [] } = _
    rw [hframe]
    rfl
  · show { g.sys with sendOrder := [], lastServed := none } = _
    rw [hframe]
    rfl
  · refine (ring_mapRings (fun q => { q with accesses := [] }) g q).trans ?_
    rw [if_pos (show q < 4 from hq), hring q hq]
    rfl
  · show g.keep = _
    rw [hframe]
    rfl
  · have hkept : c ∈ g.drive.issueOrder.filter (fun c => !c.user.isHost) ++ g.drive.outstanding.filter (fun c => !c.user.isHost) := hc
    rw [← List.filter_append] at hkept
    exact (not_isHost_iff _).1 (by simpa using (List.mem_filter.1 hkept).2)
  · have htag : (clearTables (freeHostUsers (removeDown (fun c => c.user.isHost)
        (mapRings (fun q => { q with accesses := [] }) g)))).tagUser x = if x < 32 then (g.tagUser x).filter fun u => !u.isHost else none := by
      show (mapVector (fun u : Option TagUser => u.filter fun u => !u.isHost) g.drive.tags).getD x none = _
      rw [mapVector_eq_map, vector_getD_map_eq]
      rfl
    rw [htag]
    split
    · cases g.tagUser x with
      | none => exact ⟨nofun, nofun⟩
      | some u => cases u <;> simp [Option.filter, TagUser.isHost, TagUser.record?]
    · exact ⟨nofun, nofun⟩
  · show g.drive.link = _
    rw [hframe]
    rfl
  · show g.wires = _
    rw [hframe]
    rfl
  · show g.clock = _
    rw [hframe]
    rfl
  · show g.line = _
    rw [hframe]
    rfl

/-! ## The chunk dropped (R88 step 2, R152) -/

theorem dropChunk_none {s : State} (h : s.keep.chunk = none) : dropChunk s = s := by
  unfold dropChunk
  rw [h]
  cases s.activeJob <;> rfl

/-- The state in which the dropped chunk has ended and its job has not yet met its fate. -/
def State.chunkDropped (s : State) : State := endChunk (removeDown (fun c => c.user == .keep) s)

theorem chunkDropped_spec {s : State} {c : Chunk} {j : Job} {rest : List Job} (hq : s.keep.queue = j :: rest)
    (hc : s.keep.chunk = some c) : ChunkEnded (removeDown (fun c => c.user == .keep) s) s.chunkDropped c j rest :=
  endChunk_spec hq hc

section Dropped
variable {s : State} {c : Chunk} {j : Job} {rest : List Job} (hq : s.keep.queue = j :: rest) (hc : s.keep.chunk = some c)
include hq hc

theorem dropChunk_of_stopping {o : JobOutcome} (h : j.stopOutcome = some o) : dropChunk s = endActive o s.chunkDropped := by
  simp only [dropChunk, State.activeJob, hq, List.head?_cons, hc, h]
  rfl

theorem dropChunk_of_lowered (h : j.stopOutcome = none) (hphase : j.phase ≠ .reading) (hend : j.upto ≠ j.acceptedUpto)
    (hchunk : j.upto = j.cursor + c.count) : dropChunk s = endActive .truncated (lowerEnd j.id j.cursor s.chunkDropped) := by
  have hp : (j.phase != .reading) = true := bne_iff_ne.2 hphase
  simp only [dropChunk, State.activeJob, hq, List.head?_cons, hc, h, hp, decide_eq_true hend, decide_eq_true hchunk,
    Bool.and_self, cond_true]
  rfl

theorem dropChunk_of_running (h : j.stopOutcome = none)
    (hcase : j.phase = .reading ∨ j.upto = j.acceptedUpto ∨ j.upto ≠ j.cursor + c.count) : dropChunk s = s.chunkDropped := by
  have hcond : (j.phase != .reading && decide (j.upto ≠ j.acceptedUpto) && decide (j.upto = j.cursor + c.count)) = false := by
    obtain h | h | h := hcase
    · rw [h]; rfl
    · rw [decide_eq_false (p := j.upto ≠ j.acceptedUpto) (not_not.2 h), Bool.and_false, Bool.false_and]
    · rw [decide_eq_false h, Bool.and_false]
  simp only [dropChunk, State.activeJob, hq, List.head?_cons, hc, h, hcond, cond_false]
  rfl

end Dropped

/-- The ended head of the queue, as `jobsEnded` says it. -/
theorem jobsEnded_head {s u : State} {j : Job} {rest : List Job} {o : JobOutcome} (hq : s.keep.queue = j :: rest)
    (hnodup : (s.keep.queue.map Job.id).Nodup) (hqueue : u.keep.queue = rest)
    (houtcomes : u.keep.outcomes = (j.entry o :: s.keep.outcomes).take 4)
    (hline : u.line = { s.line with latched := s.line.latched ||| 0x04#8 }) : s.jobsEnded [j] o 0x00#8 u := by
  rw [hq, List.map_cons, List.nodup_cons] at hnodup
  refine ⟨?_, fun x hx => ?_, ?_, ?_⟩
  · rw [hq]
    exact List.singleton_sublist.2 List.mem_cons_self
  · rw [hqueue, List.mem_singleton]
    rw [hq] at hx
    constructor
    · rintro rfl y hy he
      exact hnodup.1 (he ▸ List.mem_map_of_mem hy)
    · intro hall
      obtain rfl | hx := List.mem_cons.1 hx
      · rfl
      · exact absurd rfl (hall x hx)
  · rw [houtcomes]
    rfl
  · rw [hline, if_neg nofun, BitVec.or_zero]

/-- The job of a dropped chunk, by what `dropChunk` makes of the Keep Unit and the causes (R152). -/
structure JobFate (s : State) (j : Job) (rest : List Job) (c : Chunk) (kp : KeepUnit) (ln : Line) : Prop where
  chunk    : kp.chunk = none
  request  : kp.request = s.keep.request
  line     : ln = { s.line with latched := ln.latched }
  stopping : ∀ o, j.stopOutcome = some o → kp.queue = rest ∧ kp.outcomes = (j.entry o :: s.keep.outcomes).take 4
    ∧ ln = { s.line with latched := s.line.latched ||| 0x04#8 }
  lowered  : j.stopOutcome = none → j.phase ≠ .reading → j.upto ≠ j.acceptedUpto → j.upto = j.cursor + c.count →
    kp.queue = rest ∧ kp.outcomes = (j.entry .truncated :: s.keep.outcomes).take 4
      ∧ ln = { s.line with latched := s.line.latched ||| 0x04#8 }
  running  : j.stopOutcome = none → j.phase = .reading ∨ j.upto = j.acceptedUpto ∨ j.upto ≠ j.cursor + c.count →
    kp = { s.keep with queue := { j with phase := .idle } :: rest, chunk := none } ∧ ln = s.line

theorem map_lowerEnd {j : Job} {rest : List Job} (h : ((j :: rest).map Job.id).Nodup) (f : Job → Job) :
    ((j :: rest).map fun x => bif x.id == j.id then f x else x) = f j :: rest := by
  obtain ⟨hj, -⟩ := List.nodup_cons.1 h
  rw [List.map_cons, beq_self_eq_true, cond_true]
  refine congrArg _ ((List.map_congr_left fun x hx => ?_).trans (List.map_id rest))
  have hne : x.id ≠ j.id := fun he => hj (he ▸ List.mem_map_of_mem hx)
  rw [beq_eq_false_iff_ne.2 hne]
  rfl

/-- The Active job ends in a state whose Keep Unit and causes are known. -/
theorem endActive_of_keep {v : State} {kp : KeepUnit} {ln : Line} {j : Job} {rest : List Job} (hk : v.keep = kp) (hl : v.line = ln)
    (hq : kp.queue = j :: rest) (hnodup : (kp.queue.map Job.id).Nodup) (o : JobOutcome) : endActive o v =
    { v with
      keep := { kp with queue := rest, outcomes := (j.entry o :: kp.outcomes).take 4 }
      line := { ln with latched := ln.latched ||| 0x04#8 } } := by
  subst hk hl
  exact endActive_eq hq hnodup o

theorem dropChunk_spec {s : State} {c : Chunk} {j : Job} {rest : List Job} (hq : s.keep.queue = j :: rest)
    (hc : s.keep.chunk = some c) (hnodup : (s.keep.queue.map Job.id).Nodup) :
    ∃ kp ln, dropChunk s = { s.chunkDropped with keep := kp, line := ln } ∧ JobFate s j rest c kp ln := by
  have hended := chunkDropped_spec hq hc
  have hkeep : s.chunkDropped.keep = { s.keep with queue := { j with phase := .idle } :: rest, chunk := none } := hended.keep
  have hline : s.chunkDropped.line = s.line := hended.line
  have hids : ((({ j with phase := .idle } : Job) :: rest).map Job.id).Nodup := by
    rw [hq] at hnodup
    exact hnodup
  cases hstop : j.stopOutcome with
  | some o =>
      refine ⟨_, _, (dropChunk_of_stopping hq hc hstop).trans (endActive_of_keep hkeep hline rfl hids o), rfl, rfl, rfl,
        fun p hp => ?_, fun h => ?_, fun h => ?_⟩
      · obtain rfl := Option.some.inj (hstop.symm.trans hp)
        exact ⟨rfl, rfl, rfl⟩
      · exact absurd (hstop.symm.trans h) nofun
      · exact absurd (hstop.symm.trans h) nofun
  | none =>
      have hnotStopping : ∀ o, j.stopOutcome ≠ some o := fun o h => absurd (hstop.symm.trans h) nofun
      by_cases hcase : j.phase = .reading ∨ j.upto = j.acceptedUpto ∨ j.upto ≠ j.cursor + c.count
      · refine ⟨s.chunkDropped.keep, s.chunkDropped.line, dropChunk_of_running hq hc hstop hcase, congrArg KeepUnit.chunk hkeep,
          (congrArg KeepUnit.request hkeep).trans rfl, ?_, fun o h => absurd h (hnotStopping o), fun _ h1 h2 h3 => ?_, fun _ _ => ⟨hkeep, hline⟩⟩
        · rw [hline]
        obtain h | h | h := hcase
        · exact absurd h h1
        · exact absurd h h2
        · exact absurd h3 h
      · obtain ⟨hphase, h⟩ := not_or.1 hcase
        obtain ⟨hend, hchunk⟩ := not_or.1 h
        have hlow : (lowerEnd j.id j.cursor s.chunkDropped).keep = { s.keep with
            queue := { j with phase := .idle, upto := min j.upto j.cursor } :: rest, chunk := none } := by
          show ({ s.chunkDropped.keep with queue := s.chunkDropped.keep.queue.map fun x =>
            bif x.id == j.id then { x with upto := min x.upto j.cursor } else x } : KeepUnit) = _
          rw [hkeep]
          show ({ s.keep with queue := ({ j with phase := .idle } :: rest).map _, chunk := none } : KeepUnit) = _
          rw [map_lowerEnd hids fun x => { x with upto := min x.upto j.cursor }]
        exact ⟨_, _, (dropChunk_of_lowered hq hc hstop hphase hend (not_not.1 hchunk)).trans
          (endActive_of_keep hlow hline rfl hids .truncated), rfl, rfl, rfl, fun o h => absurd h (hnotStopping o),
          fun _ _ _ _ => ⟨rfl, rfl, rfl⟩, fun _ h => absurd h hcase⟩

/-! ## The reset -/

/-- What dropping the chunk leaves of the counts, the buffers, the tags and the Drive Port. -/
structure ChunkDropped (s v : State) : Prop where
  tracker  : v.tracker = s.tracker
  drain    : v.regions.drain = s.regions.drain
  keys     : v.keys = s.keys
  sys      : v.sys = s.sys
  clock    : v.clock = s.clock
  wires    : v.wires = s.wires
  line     : v.line = { s.line with latched := v.line.latched }
  link     : v.drive.link = s.drive.link
  entry    : ∀ i < Config.regionCount, v.entry i =
    { s.entry i with inFlight := (s.entry i).inFlight - s.keep.chunk.elim 0 fun c => c.counted.count i }
  ring     : ∀ q < Config.ringCount, v.ring q = { s.ring q with
    users := (s.ring q).users - s.keep.chunk.elim 0 fun _ => if s.keep.queue.head?.map Job.ring = some q then 1 else 0 }
  releases : Releases (fun o => o = .keep ∧ s.keep.chunk ≠ none) s v
  chunk    : v.keep.chunk = none
  tag      : ∀ x, v.tagUser x = s.tagUser x ∨ v.tagUser x = none
  freed    : ∀ c, s.keep.chunk = some c → v.tagUser c.tag = none
  down     : ∀ c ∈ v.drive.issueOrder ++ v.drive.outstanding, c ∈ s.drive.issueOrder ++ s.drive.outstanding
    ∧ (s.keep.chunk ≠ none → c.user ≠ .keep)

theorem dropChunk_dropped {s : State} (law : s.keep.Law) : ChunkDropped s (dropChunk s) := by
  obtain ⟨-, -, -, -, hnodup, -, -, hempty, -⟩ := law
  cases hc : s.keep.chunk with
  | none =>
      rw [dropChunk_none hc]
      refine ⟨rfl, rfl, rfl, rfl, rfl, rfl, rfl, rfl, fun i _ => ?_, fun q _ => ?_, .of_engine (fun o h => h.2 hc) rfl rfl, hc,
        fun _ => .inl rfl, fun c h => absurd (hc.symm.trans h) nofun, fun c h => ⟨h, fun hne => absurd hc hne⟩⟩
      · rw [hc]; rfl
      · rw [hc]; rfl
  | some c =>
      cases hq : s.keep.queue with
      | nil => exact absurd (hc.symm.trans (hempty hq).1) nofun
      | cons j rest =>
          obtain ⟨kp, ln, hdrop, hfate⟩ := dropChunk_spec hq hc hnodup
          have hended := chunkDropped_spec hq hc
          rw [hdrop]
          refine ⟨hended.tracker, hended.drain, hended.keys, hended.sys, hended.clock, hended.wires, hfate.line, ?_,
            fun i hi => ?_, fun q hq' => ?_, ?_, hfate.chunk, fun x => ?_, fun d hd => ?_, fun d hd => ?_⟩
          · exact (congrArg DrivePort.link hended.drive).trans rfl
          · rw [hc]
            exact hended.entry i hi
          · rw [hc, hq]
            refine (hended.ring q hq').trans ?_
            show _ = ({ s.ring q with users := (s.ring q).users - if some j.ring = some q then 1 else 0 } : Ring)
            simp only [Option.some.injEq, eq_comm (a := q)]
            rfl
          · refine (hended.releases.of_same (s' := s) (t' := { s.chunkDropped with keep := kp, line := ln }) rfl rfl rfl ?_).congr
              fun o => ⟨fun h => h.1, fun h => ⟨h, by rw [hc]; nofun⟩⟩
            rw [hfate.request, hended.keep]
            rfl
          · have htag : ({ s.chunkDropped with keep := kp, line := ln } : State).tagUser x
                = if x = c.tag then none else s.tagUser x := hended.tag x
            rw [htag]
            split
            · exact .inr rfl
            · exact .inl rfl
          · obtain rfl := Option.some.inj (hc.symm.trans hd)
            exact (hended.tag c.tag).trans (if_pos rfl)
          · have hdrive : s.chunkDropped.drive = _ := hended.drive
            change d ∈ s.chunkDropped.drive.issueOrder ++ s.chunkDropped.drive.outstanding at hd
            rw [hdrive] at hd
            have hd : d ∈ (s.drive.issueOrder.filter fun c => !(c.user == .keep)) ++ s.drive.outstanding.filter fun c => !(c.user == .keep) := hd
            rw [← List.filter_append] at hd
            obtain ⟨hmem, huser⟩ := List.mem_filter.1 hd
            exact ⟨hmem, fun _ => by simpa using huser⟩

end Sys2Proof.Machine
end

section
/-! SUPPORT. The statement on link resets (R73, R88, R114, R152). -/

namespace Sys2Proof.Machine

theorem resetDownstream_eq (s : State) : resetDownstream s = { s with
    drive := { s.drive with link := if s.drive.link = .down then .down else .starting }
    wires := { s.wires with down := s.wires.down ++ if s.drive.link = .down then [] else [.linkReset] } } := by
  unfold resetDownstream
  cases h : s.drive.link with
  | down =>
      show s = _
      rw [if_pos rfl, if_pos rfl, List.append_nil, ← h]
  | starting => rfl
  | ready => rfl
  | asleep => rfl

/-- The state that a link reset or the loss of the upstream link settles. -/
def State.cutOff (l : SysLink) (s : State) : State := setSysLink l (resetDownstream (abandonWork s))

theorem exec_linkReset (s : State) : exec .linkReset s = .next (bif s.sys.link == .down then s else settle (s.cutOff .notReady)) := rfl

theorem exec_upstreamLinkLost (s : State) : exec .upstreamLinkLost s = .next (bif s.sys.link == .down then s else settle (s.cutOff .down)) := rfl

/-- The host commands are abandoned, then the chunk. -/
structure WorkAbandoned (s v : State) : Prop where
  host    : HostAbandoned s (abandonHost (clearDisk s))
  dropped : ChunkDropped (abandonHost (clearDisk s)) v

theorem abandonWork_spec {s : State} (law : s.keep.Law) : WorkAbandoned s (abandonWork s) :=
  ⟨abandonHost_spec s, dropChunk_dropped ((abandonHost_spec s).keep.symm ▸ law)⟩

section
variable {s v : State} (h : WorkAbandoned s v)
include h

theorem WorkAbandoned.entry : ∀ i < Config.regionCount, v.entry i = { s.entry i with
    inFlight := (s.entry i).inFlight - ((s.tracker.records.map fun x => x.counted.count i).sum
      + s.keep.chunk.elim 0 fun k => k.counted.count i) } := by
  intro i hi
  rw [h.dropped.entry i hi, h.host.entry i hi, h.host.keep, Nat.sub_sub]

theorem WorkAbandoned.users : ∀ r < Config.ringCount, (v.ring r).users = (s.ring r).users
    - ((s.tracker.records.map fun x => x.rings.count r).sum
      + s.keep.chunk.elim 0 fun _ => if s.keep.queue.head?.map Job.ring = some r then 1 else 0) := by
  intro r hr
  rw [h.dropped.ring r hr, h.host.ring r hr, h.host.keep, Nat.sub_sub]

theorem WorkAbandoned.ring : ∀ r < Config.ringCount, v.ring r = { s.ring r with accesses := [], users := (v.ring r).users } := by
  intro r hr
  rw [h.dropped.ring r hr, h.host.ring r hr]

theorem WorkAbandoned.releases :
    Releases (fun o => (∃ r ∈ s.tracker.records, o = .record r.key) ∨ o = .keep ∧ s.keep.chunk ≠ none) s v := by
  have hdropped := h.dropped.releases
  rw [h.host.keep] at hdropped
  exact h.host.releases.trans hdropped (by rintro ⟨he, -⟩; cases he) (by rintro ⟨he, -⟩; cases he)

theorem WorkAbandoned.down : ∀ x ∈ v.drive.issueOrder ++ v.drive.outstanding, x.user = .keep ∧ s.keep.chunk = none := by
  intro x hx
  obtain ⟨hmem, huser⟩ := h.dropped.down x hx
  rw [h.host.keep] at huser
  have hkeep := h.host.down x hmem
  exact ⟨hkeep, by_contra fun hne => huser hne hkeep⟩

theorem WorkAbandoned.tags (t : Nat) (k : RecordKey) : v.tagUser t ≠ some (.hostFirst k) ∧ v.tagUser t ≠ some (.hostSecond k) := by
  obtain ht | ht := h.dropped.tag t
  · rw [ht]
    exact h.host.tag t k
  · rw [ht]
    exact ⟨nofun, nofun⟩

theorem WorkAbandoned.link : v.drive.link = s.drive.link := h.dropped.link.trans h.host.link

theorem WorkAbandoned.wires : v.wires = s.wires := h.dropped.wires.trans h.host.wires

theorem WorkAbandoned.sys : v.sys = { s.sys with sendOrder := [], lastServed := none } := h.dropped.sys.trans h.host.sys

theorem WorkAbandoned.line : v.line = { s.line with latched := v.line.latched } := by
  rw [← h.host.line]
  exact h.dropped.line

end

theorem abandonWork_keep_of_none {s : State} (h : s.keep.chunk = none) : (abandonWork s).keep = s.keep := by
  have hkeep := (abandonHost_spec s).keep
  have hnone : (abandonHost (clearDisk s)).keep.chunk = none := by rw [hkeep, h]
  rw [abandonWork, dropChunk_none hnone, hkeep]

/-- The fate of the dropped chunk's job, over the state before the host commands were abandoned. -/
theorem abandonWork_fate {s : State} {j : Job} {rest : List Job} {c : Chunk} (law : s.keep.Law) (hq : s.keep.queue = j :: rest)
    (hc : s.keep.chunk = some c) : JobFate s j rest c (abandonWork s).keep (abandonWork s).line := by
  have hkeep := (abandonHost_spec s).keep
  have hline := (abandonHost_spec s).line
  obtain ⟨-, -, -, -, hnodup, -, -, -, -⟩ := law
  obtain ⟨kp, ln, hdrop, hfate⟩ := dropChunk_spec (s := abandonHost (clearDisk s)) (hkeep.symm ▸ hq) (hkeep.symm ▸ hc)
    (hkeep.symm ▸ hnodup)
  rw [abandonWork, hdrop]
  obtain ⟨hchunk, hrequest, hln, hstopping, hlowered, hrunning⟩ := hfate
  rw [hkeep] at hrequest hstopping hlowered hrunning
  rw [hline] at hln hstopping hlowered hrunning
  exact ⟨hchunk, hrequest, hln, hstopping, hlowered, hrunning⟩

/-- Every link reset abandons all work; only the link state it leaves differs (R73, R88). -/
theorem cutOff_spec {s : State} (law : s.keep.Law) (l : SysLink) : ∃ d w, WorkAbandoned s (abandonWork s)
    ∧ s.cutOff l = { abandonWork s with
        sys := { (abandonWork s).sys with link := l }, drive := { (abandonWork s).drive with link := d }, wires := w }
    ∧ d = (if s.drive.link = .down then .down else .starting)
    ∧ w = { s.wires with down := s.wires.down ++ if s.drive.link = .down then [] else [.linkReset] } := by
  have habandoned := abandonWork_spec law
  refine ⟨_, _, habandoned, ?_, rfl, rfl⟩
  rw [State.cutOff, resetDownstream_eq, habandoned.link, habandoned.wires]
  rfl

theorem exec_cutOff {c : Instr} {l : SysLink} (s : State) (h : (c, l) ∈ [(Instr.linkReset, SysLink.notReady), (.upstreamLinkLost, .down)]) :
    exec c s = .next (bif s.sys.link == .down then s else settle (s.cutOff l)) := by
  simp only [List.mem_cons, List.not_mem_nil, or_false, Prod.mk.injEq] at h
  obtain ⟨rfl, rfl⟩ | ⟨rfl, rfl⟩ := h
  · exact exec_linkReset s
  · exact exec_upstreamLinkLost s

/-- Settles O34: the host commands are abandoned, then the chunk, each step giving up what it holds. -/
theorem linkResets : Obligations.LinkResets := by
  intro c l s hcl law
  rw [exec_cutOff s hcl]
  refine ⟨fun hdown => by rw [hdown]; rfl, fun hup => ⟨s.cutOff l, ?_⟩⟩
  obtain ⟨d, w, h, hcut, hd, hw⟩ := cutOff_spec law l
  have hnone := abandonWork_keep_of_none (s := s)
  have hfate := fun j rest k => abandonWork_fate (s := s) (j := j) (rest := rest) (c := k) law
  have hline := h.line
  rw [hcut]
  generalize abandonWork s = v at h hnone hfate hline ⊢
  have hreleases : Releases (fun o => (∃ r ∈ s.tracker.records, o = .record r.key) ∨ o = .keep ∧ s.keep.chunk ≠ none) s
      { v with sys := { v.sys with link := l }, drive := { v.drive with link := d }, wires := w } :=
    h.releases.of_same rfl rfl rfl rfl
  have htracker : v.tracker = Tracker.none := h.dropped.tracker.trans h.host.tracker
  have hids : (s.keep.queue.map Job.id).Nodup := by
    obtain ⟨-, -, -, -, hnodup, -, -, -, -⟩ := law
    exact hnodup
  refine ⟨by rw [beq_eq_false_iff_ne.2 hup]; rfl, ?_, ?_, ?_, ?_, ?_, h.dropped.drain.trans h.host.drain,
    h.dropped.keys.trans h.host.keys, ?_, h.ring, h.entry, h.users, fun x hx => hreleases.released (.inl ⟨x, hx, rfl⟩),
    fun k hk => ⟨h.dropped.freed k (h.host.keep.symm ▸ hk), hreleases.released (.inr ⟨rfl, by rw [hk]; nofun⟩)⟩,
    h.dropped.chunk, h.down, h.tags, hd, by rw [hw], by rw [hw], h.dropped.clock.trans h.host.clock, hline, hnone,
    fun j rest k hq hk => ?_⟩
  · exact congrArg Tracker.records htracker
  · exact congrArg Tracker.keyWait htracker
  · exact congrArg Tracker.ringOrder htracker
  · exact congrArg Tracker.overrun htracker
  · exact congrArg Tracker.tagWait htracker
  · show { v.sys with link := l } = _
    rw [h.sys]
  · have f := hfate j rest k hq hk
    refine ⟨fun o ho => ?_, fun h1 h2 h3 h4 => ?_, f.running⟩
    · obtain ⟨hqueue, houtcomes, hln⟩ := f.stopping o ho
      exact ⟨jobsEnded_head hq hids hqueue houtcomes hln, hqueue⟩
    · obtain ⟨hqueue, houtcomes, hln⟩ := f.lowered h1 h2 h3 h4
      exact ⟨jobsEnded_head hq hids hqueue houtcomes hln, hqueue⟩

end Sys2Proof.Machine
end

section
/-! SUPPORT. A chunk marked zero source (R123, R145): its buffers take the treatment and rejoin the Keep queue. -/

namespace Sys2Proof.Machine

/-- A buffer of a chunk that is marked zero source. -/
def Buffer.zeroed (b : Buffer) : Buffer := { b with state := .queued, treatment := .zeroSource, data := zeroSector }

/-- A buffer rejoins the Keep queue, one in the grant at the grant's end. -/
def rejoinKeep (s : State) (i : Nat) : State :=
  bif s.inGrant i then setGrantFate .requeue s else joinQueue .keep i (withdrawFromQueues i s)

/-- Changing each buffer of a list once leaves all else alone. -/
theorem mapBuffers_spec {l : List Nat} (hnodup : l.Nodup) (hlt : ∀ i ∈ l, i < Config.bufferCount) (f : Buffer → Buffer) (s : State) :
    (∃ p, l.foldl (fun s i => mapBuffer i f s) s = { s with engine := { s.engine with pool := p } })
      ∧ ∀ i, (l.foldl (fun s i => mapBuffer i f s) s).buffer i = if i ∈ l then f (s.buffer i) else s.buffer i := by
  induction l generalizing s with
  | nil => exact ⟨⟨_, rfl⟩, fun i => (if_neg List.not_mem_nil).symm⟩
  | cons a l ih =>
      obtain ⟨ha, hl⟩ := List.nodup_cons.1 hnodup
      have hlta := hlt a List.mem_cons_self
      obtain ⟨⟨p, hp⟩, hbuffer⟩ := ih hl (fun i hi => hlt i (List.mem_cons_of_mem _ hi)) (mapBuffer a f s)
      rw [List.foldl_cons]
      refine ⟨⟨p, hp⟩, fun i => ?_⟩
      have hfirst : (mapBuffer a f s).buffer i = if i = a ∧ a < 64 then f (s.buffer a) else s.buffer i := buffer_setBuffer a _ s i
      rw [hbuffer i, hfirst]
      by_cases hi : i = a
      · subst hi
        rw [if_neg ha, if_pos ⟨rfl, hlta⟩, if_pos List.mem_cons_self]
      · rw [if_neg (c := i = a ∧ a < 64) fun h => hi h.1]
        simp only [List.mem_cons, hi, false_or]

theorem filter_notMem_nil (q : List Nat) : q.filter (fun x => decide (x ∉ ([] : List Nat))) ++ [] = q := by
  simp

/-- Rejoining one buffer and then those of a list. -/
theorem filter_ne_append (q m : List Nat) {a : Nat} (h : a ∉ m) :
    (q.filter (· != a) ++ [a]).filter (fun x => decide (x ∉ m)) ++ m = q.filter (fun x => decide (x ∉ a :: m)) ++ a :: m := by
  rw [List.filter_append, List.filter_filter, List.append_assoc]
  have hone : [a].filter (fun x => decide (x ∉ m)) ++ m = a :: m := by
    rw [List.filter_cons_of_pos (by simpa using h)]
    rfl
  rw [hone]
  congr 1
  refine List.filter_congr fun x _ => ?_
  rw [Bool.eq_iff_iff]
  simp only [Bool.and_eq_true, decide_eq_true_eq, bne_iff_ne, List.mem_cons, not_or]
  exact And.comm

/-- The buffers of a list rejoin the Keep queue's tail in the list's order. -/
theorem rejoinKeep_spec {l : List Nat} (hnodup : l.Nodup) (s : State) :
    (∃ e, l.foldl rejoinKeep s = { s with engine := e } ∧ e.pool = s.engine.pool)
      ∧ (∀ g, s.engine.grant = some g → (l.foldl rejoinKeep s).engine.grant
        = some { g with fate := if ∃ i ∈ l, g.buffer = some i then .requeue else g.fate })
      ∧ ∃ own, own = l.filter (fun i => decide (s.engine.grant.bind Grant.buffer ≠ some i))
        ∧ (l.foldl rejoinKeep s).engine.keepQ = s.engine.keepQ.filter (fun x => decide (x ∉ own)) ++ own := by
  induction l generalizing s with
  | nil =>
      refine ⟨⟨_, rfl, rfl⟩, fun g hg => ?_, ⟨_, rfl, (filter_notMem_nil s.engine.keepQ).symm⟩⟩
      rw [if_neg nofun]
      exact hg
  | cons a l ih =>
      obtain ⟨ha, hl⟩ := List.nodup_cons.1 hnodup
      obtain ⟨⟨e, he, hpool⟩, hgrant, own, hown, hqueue⟩ := ih hl (rejoinKeep s a)
      rw [List.foldl_cons]
      cases hin : s.inGrant a with
      | false =>
          have hstep : rejoinKeep s a = joinQueue .keep a (withdrawFromQueues a s) := by rw [rejoinKeep, hin]; rfl
          have hne : s.engine.grant.bind Grant.buffer ≠ some a := fun h => by
            rw [(inGrant_iff s a).2 h] at hin
            cases hin
          rw [hstep] at he hpool hgrant hown hqueue ⊢
          refine ⟨⟨e, he, hpool⟩, fun g hg => ?_, a :: own, ?_, ?_⟩
          · have hga : ¬ g.buffer = some a := fun h => hne (by rw [hg]; exact h)
            rw [hgrant g hg]
            simp only [List.mem_cons, exists_eq_or_imp, hga, false_or]
          · rw [List.filter_cons_of_pos (by simpa using hne)]
            exact congrArg _ hown
          · rw [hqueue]
            refine filter_ne_append s.engine.keepQ own fun h => ha ?_
            rw [hown] at h
            exact (List.mem_filter.1 h).1
      | true =>
          have hstep : rejoinKeep s a = setGrantFate .requeue s := by rw [rejoinKeep, hin]; rfl
          have heq := (inGrant_iff s a).1 hin
          have hbind : (setGrantFate .requeue s).engine.grant.bind Grant.buffer = s.engine.grant.bind Grant.buffer := by
            show (s.engine.grant.map fun g => { g with fate := GrantFate.requeue }).bind Grant.buffer = _
            cases s.engine.grant <;> rfl
          rw [hstep] at he hpool hgrant hown hqueue ⊢
          rw [hbind] at hown
          refine ⟨⟨e, he, hpool⟩, fun g hg => ?_, own, ?_, hqueue⟩
          · have hga : g.buffer = some a := by rw [hg] at heq; exact heq
            have hset : (setGrantFate .requeue s).engine.grant = some { g with fate := .requeue } := by
              show (s.engine.grant.map fun g => { g with fate := GrantFate.requeue }) = _
              rw [hg]
              rfl
            rw [hgrant _ hset, if_pos (c := ∃ i ∈ a :: l, g.buffer = some i) ⟨a, List.mem_cons_self, hga⟩]
            split <;> rfl
          · rw [List.filter_cons_of_neg (by simpa using heq)]
            exact hown

/-- What marking the chunk zero source leaves. -/
structure ZeroSourced (s u : State) : Prop where
  frame  : u = { s with
    engine := u.engine, keep := { s.keep with chunk := s.keep.chunk.map fun c => { c with zeroSource := true } } }
  buffer : ∀ i < Config.bufferCount, u.buffer i = if (s.buffer i).owner = .keep then (s.buffer i).zeroed else s.buffer i
  grant  : ∀ g i, s.engine.grant = some g → g.buffer = some i → i < Config.bufferCount →
    u.engine.grant = some { g with fate := if (s.buffer i).owner = .keep then .requeue else g.fate }
  queue  : ∃ own : List Nat, u.engine.keepQ = s.engine.keepQ.filter (fun x => decide (x ∉ own)) ++ own ∧ own.Pairwise (· < ·)
    ∧ ∀ i, i ∈ own ↔ i < Config.bufferCount ∧ (s.buffer i).owner = .keep ∧ s.engine.grant.bind Grant.buffer ≠ some i

theorem markZeroSource_eq (s : State) : markZeroSource s =
    setChunk (s.keep.chunk.map fun c => { c with zeroSource := true })
      ((s.buffersWhere fun b => b.owner == .keep).foldl rejoinKeep
        ((s.buffersWhere fun b => b.owner == .keep).foldl (fun s i => mapBuffer i Buffer.zeroed s) s)) := by
  have hmem (i : Nat) (hi : i ∈ s.buffersWhere fun b => b.owner == .keep) : i < Config.bufferCount := (mem_buffersWhere.1 hi).1
  have hnodup := buffersWhere_nodup s fun b => b.owner == .keep
  obtain ⟨⟨p, hp⟩, -⟩ := mapBuffers_spec hnodup hmem Buffer.zeroed s
  obtain ⟨⟨e, he, -⟩, -⟩ := rejoinKeep_spec hnodup
    ((s.buffersWhere fun b => b.owner == .keep).foldl (fun s i => mapBuffer i Buffer.zeroed s) s)
  have hkeep : ((s.buffersWhere fun b => b.owner == .keep).foldl rejoinKeep
      ((s.buffersWhere fun b => b.owner == .keep).foldl (fun s i => mapBuffer i Buffer.zeroed s) s)).keep = s.keep := by
    rw [he, hp]
  exact congrArg (fun k : KeepUnit => setChunk (k.chunk.map fun c => { c with zeroSource := true }) _) hkeep

theorem markZeroSource_spec (s : State) : ZeroSourced s (markZeroSource s) := by
  have hmem (i : Nat) : i ∈ (s.buffersWhere fun b => b.owner == .keep) ↔ i < Config.bufferCount ∧ (s.buffer i).owner = .keep := by
    rw [mem_buffersWhere, beq_iff_eq]
  have hnodup := buffersWhere_nodup s fun b => b.owner == .keep
  have hsorted := buffersWhere_pairwise s fun b => b.owner == .keep
  rw [markZeroSource_eq]
  generalize (s.buffersWhere fun b => b.owner == .keep) = l at hmem hnodup hsorted ⊢
  obtain ⟨⟨p, hp⟩, hbuffer⟩ := mapBuffers_spec hnodup (fun i hi => ((hmem i).1 hi).1) Buffer.zeroed s
  generalize l.foldl (fun s i => mapBuffer i Buffer.zeroed s) s = t at hp hbuffer ⊢
  obtain ⟨⟨e, he, hpool⟩, hgrant, own, hown, hqueue⟩ := rejoinKeep_spec hnodup t
  generalize l.foldl rejoinKeep t = u at he hgrant hqueue ⊢
  have hgrants : t.engine.grant = s.engine.grant := by rw [hp]
  have hkeepQ : t.engine.keepQ = s.engine.keepQ := by rw [hp]
  rw [hgrants] at hgrant hown
  refine ⟨?_, fun i hi => ?_, fun g i hg hgi hi => ?_, own, ?_, ?_, fun i => ?_⟩
  · rw [he, hp]
    rfl
  · have hu : u.buffer i = t.buffer i := by
      rw [he]
      show e.pool.getD i Buffer.empty = _
      rw [hpool]
      rfl
    refine hu.trans ((hbuffer i).trans (if_congr ?_ rfl rfl))
    rw [hmem]
    exact and_iff_right hi
  · refine (hgrant g hg).trans ?_
    have hiff : (∃ m ∈ l, g.buffer = some m) ↔ (s.buffer i).owner = .keep := by
      constructor
      · rintro ⟨m, hm, hgm⟩
        obtain rfl := Option.some.inj (hgi.symm.trans hgm)
        exact ((hmem i).1 hm).2
      · exact fun h => ⟨i, (hmem i).2 ⟨hi, h⟩, hgi⟩
    simp only [hiff]
  · rw [← hkeepQ]
    exact hqueue
  · rw [hown]
    exact hsorted.filter _
  · rw [hown, List.mem_filter, hmem, decide_eq_true_eq, and_assoc]

end Sys2Proof.Machine
end

section
/-! SUPPORT. The ends of the keep chunk's commands (R84, R142 to R145, R147, R151). -/

namespace Sys2Proof.Machine

/-! ## The end of a command at the Drive Port (R84) -/

/-- The state that a keep command's end is passed on in: the command has left the Drive Port. -/
def State.commandGone (s : State) (c : DownCmd) : State :=
  stopSending c.tag { setInbox [] s with
    drive := { s.drive with inbox := [], outstanding := s.drive.outstanding.filter fun x => !(x.tag == c.tag) } }

theorem commandGone_eq (s : State) (c : DownCmd) : ∃ d : DrivePort, s.commandGone c = { s with drive := d }
    ∧ d.tags = s.drive.tags ∧ d.outstanding = s.drive.outstanding.filter fun x => !(x.tag == c.tag) := by
  unfold State.commandGone stopSending
  split
  · rename_i x hx
    cases x.tag == c.tag
    · exact ⟨_, rfl, rfl, rfl⟩
    · exact ⟨_, rfl, rfl, rfl⟩
  · exact ⟨_, rfl, rfl, rfl⟩

theorem result_good_iff (c : DownCmd) (good : Bool) (e : Byte) (lba : Nat) :
    (c.result good e lba == .good) = true ↔ good = true ∧ c.count ≤ c.passed ∧ c.broken = false := by
  unfold DownCmd.result
  cases c.broken
  · by_cases h : c.passed < c.count
    · rw [decide_eq_true h]
      refine ⟨fun hg => ?_, fun hg => absurd hg.2.1 (Nat.not_le.2 h)⟩
      cases hg
    · rw [decide_eq_false h]
      cases good
      · exact ⟨(by intro hg; cases hg), fun hg => absurd hg.1 nofun⟩
      · exact ⟨fun _ => ⟨rfl, Nat.not_lt.1 h, rfl⟩, fun _ => rfl⟩
  · exact ⟨(by intro hg; cases hg), fun hg => absurd hg.2.2 nofun⟩

/-- What the Keep Unit makes of the end of its read or of its write. -/
def keepEnded (read good : Bool) (s : State) : State := bif read then keepReadEnded good s else keepWriteEnded good s

/-- Both commands that report the end of the keep chunk's command pass it to the Keep Unit. -/
theorem diskFrame_commandEnd {s : State} {c : DownCmd} {read : Bool} (good : Bool) (e : Byte) (lba : Nat)
    (hlink : s.drive.link = .ready) (hin : s.drive.inbox = []) (hout : s.outstandingOn c.tag = some c) (huser : c.user = .keep)
    (hop : c.op = if read then .read else .write) : diskFrame (.commandEnd c.tag good e lba) s
      = settle (keepEnded read (c.result good e lba == .good) (s.commandGone c)) := by
  have harrives : frameArrives (.commandEnd c.tag good e lba) s = takeEnd c.tag good e lba (setInbox [] s) := by
    rw [frameArrives, hin]
    rfl
  have htake : takeEnd c.tag good e lba (setInbox [] s) = endDown c (c.result good e lba) (setInbox [] s) := by
    have hout' : (setInbox [] s).outstandingOn c.tag = some c := hout
    rw [takeEnd, hout']
  have htell (t : State) (st : PartStatus) : endToUser c st t = keepEnded read (st == .good) t := by
    rw [endToUser, huser, hop]
    cases read <;> rfl
  have hfree (t : State) : freeEndedTag c t = t := by
    rw [freeEndedTag, huser]
    rfl
  rw [diskFrame, hlink, harrives, htake, endDown, htell, hfree]
  rfl

/-! ## The chunk and the job end (R143, R144, R151) -/

/-- The Active job as it stands when its chunk has ended: `n` sectors further and `m` more skipped. -/
def Job.after (j : Job) (n m : Nat) : Job := { j with phase := .idle, cursor := j.cursor + n, skipped := j.skipped + m }

/-- The chunk of the Active job has ended; the Drive Port's commands stay. -/
structure ChunkOver (s u : State) (k : Chunk) (j : Job) : Prop where
  given       : s.chunkGivenUp u k j
  outstanding : u.drive.outstanding = s.drive.outstanding

/-- The Active job has ended as well, `n` sectors further and with `m` more skipped. -/
structure JobOver (s u : State) (k : Chunk) (j : Job) (rest : List Job) (o : JobOutcome) (n m : Nat) : Prop where
  ended    : ChunkOver s u k j
  queue    : u.keep.queue = rest
  outcomes : u.keep.outcomes = (outcomeEntry j.id j.ring o (j.cursor + n) (j.skipped + m) :: s.keep.outcomes).take 4
  line     : u.line = { s.line with latched := s.line.latched ||| 0x04#8 }

/-- The Active job goes on without a chunk. -/
structure JobOn (s u : State) (k : Chunk) (j : Job) (rest : List Job) (n m : Nat) : Prop where
  ended    : ChunkOver s u k j
  queue    : u.keep.queue = j.after n m :: rest
  outcomes : u.keep.outcomes = s.keep.outcomes
  line     : u.line = s.line

theorem ChunkEnded.over {s e : State} {k : Chunk} {j : Job} {rest : List Job} (h : ChunkEnded s e k j rest) {kp : KeepUnit}
    (ln : Line) (hchunk : kp.chunk = none) (hrequest : kp.request = s.keep.request) :
    ChunkOver s { e with keep := kp, line := ln } k j where
  given := by
    have hreleases : Releases (fun o => o = .keep) s { e with keep := kp, line := ln } := by
      refine h.releases.of_same rfl rfl rfl ?_
      rw [h.keep]
      exact hrequest
    exact ⟨hchunk, (h.tag k.tag).trans (if_pos rfl), hreleases.released rfl, fun i hi => congrArg RegionEntry.inFlight (h.entry i hi),
      fun q hq => congrArg Ring.users (h.ring q hq)⟩
  outstanding := (congrArg DrivePort.outstanding h.drive).trans rfl

theorem mapActive_id (s : State) : mapActive id s = s := by
  have hqueue : (match s.keep.queue with | j :: rest => id j :: rest | [] => []) = s.keep.queue := by
    cases s.keep.queue <;> rfl
  exact congrArg (fun q => ({ s with keep := { s.keep with queue := q } } : State)) hqueue

section Ends
variable {s : State} {j : Job} {rest : List Job} {k : Chunk} (hq : s.keep.queue = j :: rest) (hc : s.keep.chunk = some k)
include hq hc

theorem mapActive_endChunk {f : Job → Job} {n m : Nat} (hf : f { j with phase := .idle } = j.after n m) :
    mapActive f (endChunk s) = { endChunk s with keep := { s.keep with queue := j.after n m :: rest, chunk := none } } := by
  have hkeep := (endChunk_spec hq hc).keep
  unfold mapActive
  rw [hkeep]
  show ({ endChunk s with keep := { s.keep with queue := f { j with phase := .idle } :: rest, chunk := none } } : State) = _
  rw [hf]

theorem jobOn_of_mapActive {f : Job → Job} {n m : Nat} (hf : f { j with phase := .idle } = j.after n m) :
    JobOn s (mapActive f (endChunk s)) k j rest n m := by
  have hend := endChunk_spec hq hc
  rw [mapActive_endChunk hq hc hf]
  exact ⟨hend.over (endChunk s).line rfl rfl, rfl, rfl, hend.line⟩

theorem jobOver_of_endActive {f : Job → Job} {n m : Nat} (hf : f { j with phase := .idle } = j.after n m)
    (hids : (s.keep.queue.map Job.id).Nodup) (o : JobOutcome) :
    JobOver s (endActive o (mapActive f (endChunk s))) k j rest o n m := by
  have hend := endChunk_spec hq hc
  have hnodup : ((j.after n m :: rest).map Job.id).Nodup := by
    rw [hq] at hids
    exact hids
  rw [endActive_of_keep (congrArg State.keep (mapActive_endChunk hq hc hf))
    ((congrArg State.line (mapActive_endChunk hq hc hf)).trans hend.line) rfl hnodup o, mapActive_endChunk hq hc hf]
  exact ⟨hend.over _ rfl rfl, rfl, rfl, rfl⟩

/-- The chunk of a job ends and the job with it, where nothing moves the cursor. -/
theorem jobOver_of_endChunk (hids : (s.keep.queue.map Job.id).Nodup) (o : JobOutcome) :
    JobOver s (endActive o (endChunk s)) k j rest o 0 0 := by
  have hjob : JobOver s (endActive o (mapActive id (endChunk s))) k j rest o 0 0 := jobOver_of_endActive hq hc rfl hids o
  rw [mapActive_id] at hjob
  exact hjob

/-! ## The end of the source read (R142, R144, R145) -/

theorem keepReadEnded_of_stopping {o : JobOutcome} (hstop : j.stopOutcome = some o) (good : Bool) :
    keepReadEnded good s = endActive o (endChunk s) := by
  simp only [keepReadEnded, State.activeJob, hq, List.head?_cons, hc, hstop]

theorem keepReadEnded_of_good (hstop : j.stopOutcome = none) : keepReadEnded true s = readDone s := by
  simp only [keepReadEnded, State.activeJob, hq, List.head?_cons, hc, hstop, cond_true]

theorem keepReadEnded_of_halt (hstop : j.stopOutcome = none) (hpolicy : j.policy = .halt) :
    keepReadEnded false s = endActive (.failed .diskError) (endChunk s) := by
  simp only [keepReadEnded, State.activeJob, hq, List.head?_cons, hc, hstop, hpolicy, cond_false]

theorem keepReadEnded_of_skip (hstop : j.stopOutcome = none) (hpolicy : j.policy = .skip) :
    keepReadEnded false s = markZeroSource (readDone s) := by
  simp only [keepReadEnded, State.activeJob, hq, List.head?_cons, hc, hstop, hpolicy, cond_false]

theorem readDone_eq : readDone s = { s with
    keep := { s.keep with queue := { j with phase := .transforming } :: rest, chunk := some { k with readEnded := true } } } := by
  unfold readDone mapActive setChunk
  rw [hc]
  show ({ s with keep := { s.keep with
    queue := match s.keep.queue with | j :: rest => { j with phase := .transforming } :: rest | [] => []
    chunk := some { k with readEnded := true } } } : State) = _
  rw [hq]

/-- What the end of the source read does to the chunk and the job. -/
theorem keepCommandEnds_keepReadEnded (hids : (s.keep.queue.map Job.id).Nodup) (good : Bool) :
    s.keepCommandEnds (keepReadEnded good s) true good j rest k
      ∧ (keepReadEnded good s).drive.outstanding = s.drive.outstanding := by
  cases hstop : j.stopOutcome with
  | some o =>
      have h := jobOver_of_endChunk hq hc hids o
      rw [keepReadEnded_of_stopping hq hc hstop]
      refine ⟨⟨fun _ => h.ended.given, fun _ => h.line, fun hne => absurd h.queue hne, fun p hp => ⟨h.ended.given.1, h.queue, ?_⟩,
        fun hnone => absurd (hstop.symm.trans hnone) nofun, fun hnone => absurd (hstop.symm.trans hnone) nofun⟩,
        h.ended.outstanding⟩
      obtain rfl := Option.some.inj (hstop.symm.trans hp)
      rintro n m rfl rfl
      exact h.outcomes
  | none =>
      have hne : ∀ o, j.stopOutcome ≠ some o := fun o h => absurd (hstop.symm.trans h) nofun
      cases good with
      | true =>
          rw [keepReadEnded_of_good hq hc hstop, readDone_eq hq hc]
          refine ⟨⟨nofun, fun h => ?_, fun _ => rfl, fun o h => absurd h (hne o), fun _ _ => ⟨fun _ => ⟨rfl, ?_⟩, nofun, nofun⟩,
            nofun⟩, rfl⟩
          · exact absurd h (List.cons_ne_self _ _)
          · show some _ = some { k with readEnded := true, zeroSource := k.zeroSource || false }
            rw [Bool.or_false]
      | false =>
          cases hpolicy : j.policy with
          | halt =>
              have h := jobOver_of_endChunk hq hc hids (.failed .diskError)
              rw [keepReadEnded_of_halt hq hc hstop hpolicy]
              refine ⟨⟨fun _ => h.ended.given, fun _ => h.line, fun hn => absurd h.queue hn, fun o ho => absurd ho (hne o),
                fun _ _ => ⟨fun hgood => ?_, fun _ hskip => ?_, fun _ _ => ⟨h.ended.given.1, h.queue, h.outcomes⟩⟩, nofun⟩,
                h.ended.outstanding⟩
              · obtain hgood | hskip := hgood
                · cases hgood
                · cases hpolicy.symm.trans hskip
              · cases hpolicy.symm.trans hskip
          | skip =>
              have h := markZeroSource_spec (readDone s)
              have hframe := h.frame
              have hbuffer := h.buffer
              rw [keepReadEnded_of_skip hq hc hstop hpolicy]
              generalize markZeroSource (readDone s) = u at hframe hbuffer ⊢
              rw [readDone_eq hq hc] at hframe hbuffer
              have hkeep : u.keep = { s.keep with queue := { j with phase := .transforming } :: rest
                                                  chunk := some { k with readEnded := true, zeroSource := true } } := by
                rw [hframe]
                rfl
              have hline : u.line = s.line := by rw [hframe]
              refine ⟨⟨fun hnone => ?_, fun hrest => ?_, fun _ => hline, fun o ho => absurd ho (hne o),
                fun _ _ => ⟨fun _ => ⟨congrArg KeepUnit.queue hkeep, ?_⟩, fun _ _ i hi howner => ?_, fun _ hhalt => ?_⟩, nofun⟩, ?_⟩
              · rw [hkeep] at hnone
                cases hnone
              · rw [hkeep] at hrest
                exact absurd hrest (List.cons_ne_self _ _)
              · rw [hkeep]
                show _ = some { k with readEnded := true, zeroSource := k.zeroSource || true }
                rw [Bool.or_true]
              · exact (hbuffer i hi).trans (if_pos howner)
              · cases hpolicy.symm.trans hhalt
              · rw [hframe]

/-! ## The end of the destination write (R143 to R145) -/

omit hq hc in
theorem afterWrite_of_stopping {o : JobOutcome} {t : State} {x : Job} (hx : t.activeJob = some x) (hstop : x.stopOutcome = some o)
    (good : Bool) : afterWrite good t = endActive o t := by
  simp only [afterWrite, hx, hstop]

omit hq hc in
theorem afterWrite_of_halt {t : State} {x : Job} (hx : t.activeJob = some x) (hstop : x.stopOutcome = none)
    (hpolicy : x.policy = .halt) : afterWrite false t = endActive (.failed .diskError) t := by
  simp only [afterWrite, hx, hstop, hpolicy]
  rfl

omit hq hc in
theorem afterWrite_of_end {t : State} {x : Job} {good : Bool} (hx : t.activeJob = some x) (hstop : x.stopOutcome = none)
    (hgood : good = true ∨ x.policy = .skip) (hend : x.cursor = x.upto) :
    afterWrite good t = endActive (if x.upto = x.acceptedUpto then .finished else .truncated) t := by
  have hfails : (!good && x.policy == .halt) = false := by
    obtain h | h := hgood
    · rw [h]; rfl
    · rw [h, Bool.and_eq_false_iff]; exact .inr rfl
  simp only [afterWrite, hx, hstop, hfails, decide_eq_true hend, cond_false, cond_true]

omit hq hc in
theorem afterWrite_of_more {t : State} {x : Job} {good : Bool} (hx : t.activeJob = some x) (hstop : x.stopOutcome = none)
    (hgood : good = true ∨ x.policy = .skip) (hend : x.cursor ≠ x.upto) : afterWrite good t = t := by
  have hfails : (!good && x.policy == .halt) = false := by
    obtain h | h := hgood
    · rw [h]; rfl
    · rw [h, Bool.and_eq_false_iff]; exact .inr rfl
  simp only [afterWrite, hx, hstop, hfails, decide_eq_false hend, cond_false]

/-- The sectors by which the write's end moves the cursor of a job of the given policy. -/
def Chunk.moved (k : Chunk) (good : Bool) (p : ErrorPolicy) : Nat := if good = true ∨ p = .skip then k.count else 0

/-- The sectors by which it raises the skipped count. -/
def Chunk.skips (k : Chunk) (good : Bool) (p : ErrorPolicy) : Nat :=
  if k.zeroSource = true ∨ good = false ∧ p = .skip then k.count else 0

/-- The cursor and the skipped count at the write's end, as `keepWriteEnded` sets them. -/
def Chunk.movePast (k : Chunk) (good : Bool) (p : ErrorPolicy) (j : Job) : Job :=
  { j with
    cursor := bif good || p == .skip then j.cursor + k.count else j.cursor
    skipped := bif k.zeroSource || (!good && p == .skip) then j.skipped + k.count else j.skipped }

omit hq hc in
theorem Chunk.movePast_idle (k : Chunk) (good : Bool) (p : ErrorPolicy) (j : Job) :
    k.movePast good p { j with phase := .idle } = j.after (k.moved good p) (k.skips good p) := by
  have hmoved : (bif good || p == .skip then j.cursor + k.count else j.cursor) = j.cursor + k.moved good p := by
    unfold Chunk.moved
    cases good <;> cases p <;> rfl
  have hskips : (bif k.zeroSource || (!good && p == .skip) then j.skipped + k.count else j.skipped) = j.skipped + k.skips good p := by
    unfold Chunk.skips
    cases k.zeroSource <;> cases good <;> cases p <;> rfl
  unfold Chunk.movePast Job.after
  rw [hmoved, hskips]

theorem keepWriteEnded_eq (good : Bool) :
    keepWriteEnded good s = afterWrite good (mapActive (k.movePast good j.policy) (endChunk s)) := by
  simp only [keepWriteEnded, State.activeJob, hq, List.head?_cons, hc]
  rfl

/-- What the end of the destination write does to the chunk and the job. -/
theorem keepCommandEnds_keepWriteEnded (hids : (s.keep.queue.map Job.id).Nodup) (good : Bool) :
    s.keepCommandEnds (keepWriteEnded good s) false good j rest k
      ∧ (keepWriteEnded good s).drive.outstanding = s.drive.outstanding := by
  have hf := k.movePast_idle good j.policy j
  have hactive : (mapActive (k.movePast good j.policy) (endChunk s)).activeJob
      = some (j.after (k.moved good j.policy) (k.skips good j.policy)) := by
    rw [mapActive_endChunk hq hc hf]
    rfl
  rw [keepWriteEnded_eq hq hc]
  cases hstop : j.stopOutcome with
  | some o =>
      have h := jobOver_of_endActive hq hc hf hids o
      rw [afterWrite_of_stopping hactive hstop]
      refine ⟨⟨fun _ => h.ended.given, fun _ => h.line, fun hne => absurd h.queue hne, fun p hp => ⟨h.ended.given.1, h.queue, ?_⟩,
        fun hnone => absurd (hstop.symm.trans hnone) nofun, fun hnone => absurd (hstop.symm.trans hnone) nofun⟩,
        h.ended.outstanding⟩
      obtain rfl := Option.some.inj (hstop.symm.trans hp)
      rintro n m rfl rfl
      simp only [true_and]
      exact h.outcomes
  | none =>
      have hne : ∀ o, j.stopOutcome ≠ some o := fun o h => absurd (hstop.symm.trans h) nofun
      by_cases hgoes : good = true ∨ j.policy = .skip
      · have hmoved : k.moved good j.policy = k.count := if_pos hgoes
        have hskips : k.skips good j.policy = if k.zeroSource = true ∨ good = false then k.count else 0 := by
          unfold Chunk.skips
          refine if_congr (or_congr_right (and_iff_left_of_imp fun hbad => hgoes.resolve_left ?_)) rfl rfl
          rw [hbad]
          nofun
        rw [hmoved, hskips] at hactive hf
        have hnotHalt : good = false → j.policy ≠ .halt := by
          rintro rfl hhalt
          obtain h | h := hgoes
          · cases h
          · cases hhalt.symm.trans h
        by_cases hend : j.cursor + k.count = j.upto
        · have h := jobOver_of_endActive hq hc hf hids (if j.upto = j.acceptedUpto then .finished else .truncated)
          rw [afterWrite_of_end hactive hstop hgoes hend]
          refine ⟨⟨fun _ => h.ended.given, fun _ => h.line, fun hn => absurd h.queue hn, fun o ho => absurd ho (hne o), nofun,
            fun _ _ => ⟨h.ended.given.1, fun _ n hn => ?_, fun hbad hhalt => absurd hhalt (hnotHalt hbad)⟩⟩, h.ended.outstanding⟩
          subst hn
          rw [if_pos hend]
          refine ⟨h.queue, ?_⟩
          have houtcomes := h.outcomes
          rw [hend] at houtcomes
          exact houtcomes
        · have h := jobOn_of_mapActive hq hc hf
          rw [afterWrite_of_more hactive hstop hgoes hend]
          refine ⟨⟨fun _ => h.ended.given, fun hrest => ?_, fun _ => h.line, fun o ho => absurd ho (hne o), nofun,
            fun _ _ => ⟨h.ended.given.1, fun _ n hn => ?_, fun hbad hhalt => absurd hhalt (hnotHalt hbad)⟩⟩, h.ended.outstanding⟩
          · rw [h.queue] at hrest
            exact absurd hrest (List.cons_ne_self _ _)
          · subst hn
            rw [if_neg hend]
            exact ⟨h.outcomes, h.queue⟩
      · have hgood : good = false := Bool.eq_false_iff.2 fun h => hgoes (.inl h)
        have hpolicy : j.policy = .halt := by
          cases hp : j.policy with
          | halt => rfl
          | skip => exact absurd (.inr hp) hgoes
        subst hgood
        have hmoved : k.moved false j.policy = 0 := if_neg hgoes
        have hskips : k.skips false j.policy = if k.zeroSource = true then k.count else 0 := by
          unfold Chunk.skips
          refine if_congr (or_iff_left fun h => hgoes (.inr h.2)) rfl rfl
        have h := jobOver_of_endActive hq hc hf hids (.failed .diskError)
        rw [afterWrite_of_halt hactive hstop hpolicy]
        rw [hmoved, hskips] at h
        exact ⟨⟨fun _ => h.ended.given, fun _ => h.line, fun hn => absurd h.queue hn, fun o ho => absurd ho (hne o), nofun,
          fun _ _ => ⟨h.ended.given.1, fun h => absurd h hgoes, fun _ _ => ⟨h.queue, h.outcomes⟩⟩⟩, h.ended.outstanding⟩

end Ends

/-- Both ends, as the Keep Unit takes them. -/
theorem keepCommandEnds_keepEnded {s : State} {j : Job} {rest : List Job} {k : Chunk} (hq : s.keep.queue = j :: rest)
    (hc : s.keep.chunk = some k) (hids : (s.keep.queue.map Job.id).Nodup) (read good : Bool) :
    s.keepCommandEnds (keepEnded read good s) read good j rest k
      ∧ (keepEnded read good s).drive.outstanding = s.drive.outstanding := by
  cases read
  · exact keepCommandEnds_keepWriteEnded hq hc hids good
  · exact keepCommandEnds_keepReadEnded hq hc hids good

/-- Settles O48: the end leaves the Drive Port and is passed to the Keep Unit. -/
theorem keepCommandEnds : Obligations.KeepCommandEnds := by
  intro good e lba read c j rest k s hlink hin law hq hc hfind hop hout
  have hids : (s.keep.queue.map Job.id).Nodup := by
    obtain ⟨-, -, -, -, hnodup, -, -, -, -⟩ := law
    exact hnodup
  have huser : c.user = .keep := by
    have := List.find?_some hfind
    rw [Bool.and_eq_true, beq_iff_eq] at this
    exact this.1
  have hframe := diskFrame_commandEnd good e lba hlink hin hout huser hop
  obtain ⟨d, hgone, -, hleft⟩ := commandGone_eq s c
  rw [hgone] at hframe
  have hends := keepCommandEnds_keepEnded (s := { s with drive := d }) hq hc hids read (c.result good e lba == .good)
  refine ⟨_, _, ?_, congrArg Host.Outcome.next hframe, result_good_iff c good e lba, ?_, hends.1, fun hstop hread hbad hskip => ?_⟩
  · have hkeep : keepEnd (if read then .read else .write) good e lba s = diskFrame (.commandEnd c.tag good e lba) s := by
      rw [keepEnd, hfind]
    rw [← hframe, ← hkeep]
    cases read <;> rfl
  · rw [State.outstandingOn, hends.2]
    show d.outstanding.find? _ = none
    rw [hleft, List.find?_eq_none]
    intro x hx
    simpa using (List.mem_filter.1 hx).2
  · subst hread
    rw [hbad]
    have hzero : keepEnded true false { s with drive := d } = markZeroSource (readDone { s with drive := d }) :=
      keepReadEnded_of_skip (s := { s with drive := d }) hq hc hstop hskip
    have h := markZeroSource_spec (readDone { s with drive := d })
    rw [hzero]
    obtain ⟨-, hbuffer, hgrant, own, hqueue, hsorted, hmem⟩ := h
    refine ⟨fun i hi hother => (hbuffer i hi).trans (if_neg hother), fun g i hg hgi hi => hgrant g i hg hgi hi, fun hlba => ?_⟩
    refine ⟨own, hqueue, hmem, hsorted.imp_of_mem fun {i m} hi hm hlt => ?_⟩
    exact hlba m ((hmem m).1 hm).1 i hlt ((hmem i).1 hi).2.1 ((hmem m).1 hm).2.1

end Sys2Proof.Machine
end

section
/-! SUPPORT. What the internal steps do to the Miss List and to the engine: `Tended s t` holds between a state and the state
after any of the shared operations. The Miss List keeps its law (R36, R37, R40); no protected sector becomes Done, and no grant
begins (R115). -/

namespace Sys2Proof.Machine

/-! ## The relation -/

/-- The Miss List keeps its law and, in Lockdown, stays empty; a buffer that is Done with a protected sector was so before, with
the same data; and a grant in progress was in progress before, with the same result. -/
structure Tended (s t : State) : Prop where
  lockdown  : t.keys.lockdown = s.keys.lockdown
  missLaw   : s.MissListLaw → t.MissListLaw
  missEmpty : s.keys.lockdown = true → s.keys.missList = [] → t.keys.missList = []
  done      : ∀ i, (t.buffer i).state = .done → (t.buffer i).treatment = .protect →
    (s.buffer i).state = .done ∧ (s.buffer i).treatment = .protect ∧ (t.buffer i).data = (s.buffer i).data
  grant     : ∀ g, t.engine.grant = some g →
    ∃ b, s.engine.grant = some b ∧ g.result = b.result ∧ (g.buffer = b.buffer ∨ g.buffer = none)

theorem missListLaw_congr {s t : State} (h : t.keys = s.keys) : s.MissListLaw → t.MissListLaw := by
  unfold State.MissListLaw State.slotOf
  rw [h]
  exact id

theorem Tended.of_eq {s t : State} (hk : t.keys = s.keys) (he : t.engine = s.engine) : Tended s t where
  lockdown := by rw [hk]
  missLaw := missListLaw_congr hk
  missEmpty _ h := by rw [hk]; exact h
  done i hs ht := by
    have hb : t.buffer i = s.buffer i := by rw [State.buffer, he]; rfl
    rw [hb] at hs ht ⊢
    exact ⟨hs, ht, rfl⟩
  grant g hg := ⟨g, he ▸ hg, rfl, .inl rfl⟩

theorem Tended.refl (s : State) : Tended s s := .of_eq rfl rfl

theorem Tended.trans {s t u : State} (h : Tended s t) (k : Tended t u) : Tended s u where
  lockdown := k.lockdown.trans h.lockdown
  missLaw l := k.missLaw (h.missLaw l)
  missEmpty l e := k.missEmpty (h.lockdown.trans l) (h.missEmpty l e)
  done i hs ht := by
    obtain ⟨hs', ht', hd⟩ := k.done i hs ht
    obtain ⟨hs'', ht'', hd'⟩ := h.done i hs' ht'
    exact ⟨hs'', ht'', hd.trans hd'⟩
  grant g hg := by
    obtain ⟨b, hb, hr, hbuf⟩ := k.grant g hg
    obtain ⟨c, hc, hr', hbuf'⟩ := h.grant b hb
    refine ⟨c, hc, hr.trans hr', ?_⟩
    rcases hbuf with e | e
    · exact e ▸ hbuf'
    · exact .inr e

/-- The same, read backwards from the later state. -/
theorem Tended.after {s t u : State} (k : Tended t u) (h : Tended s t) : Tended s u := h.trans k

/-- The same, before a change of neither the Key Table nor the engine. -/
theorem Tended.and {s t u : State} (h : Tended s t) (hk : u.keys = t.keys) (he : u.engine = t.engine) : Tended s u :=
  h.trans (.of_eq hk he)

theorem Tended.foldl {α : Type} (f : State → α → State) (hf : ∀ s a, Tended s (f s a)) (l : List α) (s : State) :
    Tended s (l.foldl f s) := by
  induction l generalizing s with
  | nil => exact .refl s
  | cons a l ih => exact (hf s a).trans (ih (f s a))

theorem Tended.cond (b : Bool) {s t u : State} (h : Tended s t) (k : Tended s u) : Tended s (bif b then t else u) := by
  cases b <;> assumption

/-! ## Buffers, queues and the grant -/

/-- A buffer is written that is not Done with a protected sector, or was so before. -/
theorem tended_setBuffer {i : Nat} {b : Buffer} {s : State} (h : b.state = .done → b.treatment = .protect →
    (s.buffer i).state = .done ∧ (s.buffer i).treatment = .protect ∧ b.data = (s.buffer i).data) :
    Tended s (setBuffer i b s) where
  lockdown := rfl
  missLaw := missListLaw_congr rfl
  missEmpty _ e := e
  done j := by
    rw [buffer_setBuffer]
    split
    · rename_i hj
      rw [hj.1]
      exact h
    · exact fun hs ht => ⟨hs, ht, rfl⟩
  grant g hg := ⟨g, hg, rfl, .inl rfl⟩

/-- A change of the engine that leaves its buffers as they are, and of the grant at most the fate. -/
theorem tended_engine (e : Engine) (s : State) (hp : e.pool = s.engine.pool) (hg : ∀ g, e.grant = some g →
    ∃ b, s.engine.grant = some b ∧ g.result = b.result ∧ (g.buffer = b.buffer ∨ g.buffer = none)) :
    Tended s { s with engine := e } where
  lockdown := rfl
  missLaw := missListLaw_congr rfl
  missEmpty _ h := h
  done i hs ht := by
    have hb : ({ s with engine := e } : State).buffer i = s.buffer i := by simp only [State.buffer, hp]
    rw [hb] at hs ht ⊢
    exact ⟨hs, ht, rfl⟩
  grant := hg

theorem tended_joinQueue (c : BufClass) (i : Nat) (s : State) : Tended s (joinQueue c i s) := by
  cases c <;> exact tended_engine _ s rfl fun g h => ⟨g, h, rfl, .inl rfl⟩

theorem tended_withdrawFromQueues (i : Nat) (s : State) : Tended s (withdrawFromQueues i s) :=
  tended_engine _ s rfl fun g h => ⟨g, h, rfl, .inl rfl⟩

theorem tended_setGrantFate (f : GrantFate) (s : State) : Tended s (setGrantFate f s) := by
  refine tended_engine _ s rfl fun g h => ?_
  obtain ⟨b, hb, rfl⟩ := Option.map_eq_some_iff.mp h
  exact ⟨b, hb, rfl, .inl rfl⟩

theorem tended_releaseNow (i : Nat) (s : State) : Tended s (releaseNow i s) := by
  have h : Tended s (setBuffer i Buffer.empty (withdrawFromQueues i s)) :=
    Tended.after (tended_setBuffer nofun) (tended_withdrawFromQueues i s)
  exact Tended.cond _ (Tended.after (tended_setBuffer nofun) h) h

theorem tended_releaseBuffer (i : Nat) (s : State) : Tended s (releaseBuffer i s) :=
  Tended.cond _ (tended_setGrantFate _ s) (tended_releaseNow i s)

theorem tended_releaseWhere (p : Buffer → Bool) (s : State) : Tended s (releaseWhere p s) :=
  Tended.foldl _ (fun s i => tended_releaseBuffer i s) _ s

/-- A change of a buffer that keeps its state, treatment and data. -/
theorem tended_mapBuffer_same {f : Buffer → Buffer} (h : ∀ b, (f b).state = b.state ∧ (f b).treatment = b.treatment
    ∧ (f b).data = b.data) (i : Nat) (s : State) : Tended s (mapBuffer i f s) := by
  obtain ⟨hs, ht, hd⟩ := h (s.buffer i)
  exact tended_setBuffer fun hs' ht' => ⟨hs ▸ hs', ht ▸ ht', hd⟩

theorem tended_releaseOwner (o : Owner) (s : State) : Tended s (releaseOwner o s) := by
  unfold releaseOwner
  refine Tended.foldl _ (fun s i => Tended.cond _ (Tended.after (tended_setGrantFate _ _) ?_) (tended_releaseNow i s)) _ s
  refine tended_mapBuffer_same (fun _ => ?_) i s
  exact ⟨rfl, rfl, rfl⟩

theorem tended_withdrawRequest (s : State) : Tended s (withdrawRequest s) := by
  unfold withdrawRequest
  split
  · exact .refl s
  · exact Tended.after (Tended.foldl _ (fun s i => tended_releaseNow i s) _ _) (.of_eq rfl rfl)

/-- Buffers take a content that is not a Done protected sector. -/
theorem tended_setBuffers (b : Buffer) (h : b.state ≠ .done) (l : List Nat) (s : State) :
    Tended s (l.foldl (fun s i => setBuffer i b s) s) :=
  Tended.foldl _ (fun _ _ => tended_setBuffer fun hs => absurd hs h) l s

/-! ## The Miss List -/

/-- The Miss List loses ids. -/
theorem tended_dropMisses (p : ProgId → Bool) (s : State) : Tended s (setMissList (s.keys.missList.filter p) s) where
  lockdown := rfl
  missLaw := by
    rintro ⟨hlen, hnodup, hall⟩
    refine ⟨(List.length_filter_le _ _).trans hlen, hnodup.filter _, ?_⟩
    exact List.all_eq_true.mpr fun id hid => List.all_eq_true.mp hall id (List.mem_of_mem_filter hid)
  missEmpty _ e := by
    show s.keys.missList.filter p = []
    rw [e]; rfl
  done _ hs ht := ⟨hs, ht, rfl⟩
  grant g hg := ⟨g, hg, rfl, .inl rfl⟩

theorem tended_dropUnwaited (ids : List ProgId) (s : State) : Tended s (dropUnwaited ids s) := tended_dropMisses _ s

theorem tended_refuse (k : RecordKey) (why : HostReason) (s : State) : Tended s (refuse k why s) := .of_eq rfl rfl

theorem tended_refuseKey (k : RecordKey) (why : HostReason) (s : State) : Tended s (refuseKey k why s) :=
  Tended.after (tended_dropUnwaited _ _) (tended_refuse k why s)

/-- New ids that have no slot join the Miss List where it has room for them. -/
theorem tended_addMisses {new : List ProgId} {s : State} (hroom : new.length ≤ Config.missPlaces - s.keys.missList.length)
    (hnodup : new.Nodup) (hnew : ∀ id ∈ new, id ∉ s.keys.missList ∧ s.slotOf id = none)
    (hopen : s.keys.lockdown = true → new = []) : Tended s (setMissList (s.keys.missList ++ new) s) where
  lockdown := rfl
  missLaw := by
    rintro ⟨hlen, hnodup', hall⟩
    refine ⟨?_, ?_, ?_⟩
    · show (s.keys.missList ++ new).length ≤ Config.missPlaces
      rw [List.length_append]
      omega
    · exact hnodup'.append hnodup fun id h h' => (hnew id h').1 h
    · refine List.all_eq_true.mpr fun id hid => ?_
      rcases List.mem_append.mp hid with h | h
      · exact List.all_eq_true.mp hall id h
      · exact Option.isNone_iff_eq_none.mpr (hnew id h).2
  missEmpty l e := by
    show s.keys.missList ++ new = []
    rw [e, hopen l]; rfl
  done _ hs ht := ⟨hs, ht, rfl⟩
  grant g hg := ⟨g, hg, rfl, .inl rfl⟩

theorem tended_enterKeyWait (k : RecordKey) (ids : List ProgId) (s : State) : Tended s (enterKeyWait k ids s) := by
  rw [enterKeyWait_eq]
  exact .of_eq rfl rfl

theorem tended_latchIf (b : Bool) (c : Cause) (s : State) : Tended s (latchIf b c s) := by
  rw [latchIf_eq]
  exact .of_eq rfl rfl

/-- Miss handling of ids that a lookup found missing (R36). -/
theorem tended_missHandling (k : RecordKey) {ids : List ProgId} {s : State} (hnodup : ids.Nodup)
    (hmiss : ∀ id ∈ ids, s.lookup id = .miss) : Tended s (missHandling k ids s) := by
  unfold missHandling
  dsimp only [cond]
  split
  · exact tended_refuseKey k _ s
  rename_i hroom
  refine Tended.after (tended_enterKeyWait _ _ _) (Tended.after (tended_latchIf _ _ _) (tended_addMisses ?_ (hnodup.filter _) ?_ ?_))
  · simpa using hroom
  · intro id hid
    obtain ⟨hmem, hnot⟩ := List.mem_filter.mp hid
    exact ⟨by simpa using hnot, (slotOf_eq_none_iff s id).mpr (lookup_eq_miss_iff.mp (hmiss id hmem)).1⟩
  · intro hlocked
    refine List.filter_eq_nil_iff.mpr fun id hid => ?_
    have := (lookup_eq_miss_iff.mp (hmiss id hid)).2
    rw [hlocked] at this
    cases this

/-- What a command that misses waits for (R35). -/
theorem lookupRuns_misses_eq {s : State} {l : List Run} {ids : List ProgId} (h : s.lookupRuns l = .misses ids) :
    ids = (protectedIds l).filter fun id => s.lookup id == .miss := by
  unfold State.lookupRuns at h
  dsimp only [cond] at h
  split at h
  · cases h
  split at h
  · cases h
  split at h
  · cases h
  · injection h with h
    exact h.symm

/-! ## The steps of a record -/

theorem tended_stepIssue (k : RecordKey) (s : State) : Tended s (stepIssue k s) := by
  unfold stepIssue
  split
  · exact .refl s
  · refine Tended.after (t := takeHostTag k _) (.of_eq rfl rfl) ?_
    rw [takeHostTag_eq]
    exact .of_eq rfl rfl

theorem tended_stepSoleWait (k : RecordKey) (s : State) : Tended s (stepSoleWait k s) := by
  unfold stepSoleWait
  have h : Tended s (withdrawRequest (mapRecord k (fun r => { r with standing := true }) s)) :=
    Tended.after (tended_withdrawRequest _) (.of_eq rfl rfl)
  exact Tended.cond _ (Tended.cond _ (h.and rfl rfl) (h.trans (tended_stepIssue _ _))) (tended_stepIssue k s)

theorem tended_stepTagWait (k : RecordKey) (s : State) : Tended s (stepTagWait k s) := by
  unfold stepTagWait
  split
  · exact .refl s
  · refine Tended.cond _ ?_ (tended_stepSoleWait k s)
    split
    · exact Tended.after (tended_stepSoleWait _ _) (.of_eq rfl rfl)
    · exact .of_eq rfl rfl

theorem tended_stepOverrun (k : RecordKey) (s : State) : Tended s (stepOverrun k s) :=
  Tended.cond _ (.of_eq rfl rfl) (tended_stepTagWait k s)

theorem tended_stepRingOrder (k : RecordKey) (s : State) : Tended s (stepRingOrder k s) := by
  unfold stepRingOrder
  split
  · exact tended_stepOverrun k s
  · exact .of_eq rfl rfl

theorem tended_stepAccept (k : RecordKey) (s : State) : Tended s (stepAccept k s) := by
  unfold stepAccept
  split
  · exact .refl s
  · dsimp only
    split
    · exact tended_refuse k _ s
    · refine Tended.after (tended_stepRingOrder _ _) (Tended.foldl _ (fun _ _ => ?_) _ s)
      exact .of_eq rfl rfl

theorem tended_stepLookup (k : RecordKey) (s : State) : Tended s (stepLookup k s) := by
  unfold stepLookup
  split
  · exact .refl s
  split
  · exact Tended.after (tended_refuseKey _ _ _) (.of_eq rfl rfl)
  · rename_i ids hl
    have hids := lookupRuns_misses_eq hl
    refine Tended.after (tended_missHandling k ?_ fun id hid => ?_) (.of_eq rfl rfl)
    · exact hids ▸ (protectedIds_nodup _).filter _
    · rw [hids] at hid
      rw [lookup_congr rfl]
      exact beq_iff_eq.mp (List.mem_filter.mp hid).2
  · exact Tended.after (tended_stepAccept _ _) (.of_eq rfl rfl)

theorem tended_stepClassify (k : RecordKey) (s : State) : Tended s (stepClassify k s) := by
  unfold stepClassify
  split
  · exact .refl s
  · dsimp only
    split
    · exact tended_refuse k _ s
    · refine Tended.after (tended_stepLookup _ _) ?_
      rw [usersUp_eq, countUp_eq]
      exact .of_eq rfl rfl

theorem tended_stepDrain (k : RecordKey) (s : State) : Tended s (stepDrain k s) := by
  unfold stepDrain
  split
  · exact .refl s
  · exact Tended.cond _ (.of_eq rfl rfl) (tended_stepClassify k s)

theorem tended_startSteps (k : RecordKey) (s : State) : Tended s (startSteps k s) := by
  unfold startSteps
  split
  · exact .refl s
  · exact Tended.cond _ (tended_stepDrain k s) (tended_stepSoleWait k s)

/-! ## The Keep Unit -/

theorem tended_endActive (o : JobOutcome) (s : State) : Tended s (endActive o s) := by
  unfold endActive
  split <;> exact .of_eq rfl rfl

theorem tended_endChunk (s : State) : Tended s (endChunk s) := by
  unfold endChunk
  split
  · refine Tended.after (t := releaseOwner .keep s) ?_ (tended_releaseOwner _ s)
    rw [usersDown_eq, countDown_eq]
    exact .of_eq rfl rfl
  · exact .refl s

theorem tended_mapDown (p : DownCmd → Bool) (f : DownCmd → DownCmd) (s : State) : Tended s (mapDown p f s) := .of_eq rfl rfl

theorem tended_stopActive (o : JobOutcome) (s : State) : Tended s (stopActive o s) := by
  unfold stopActive
  split
  · exact .refl s
  · refine Tended.cond _ (.refl s) ?_
    split
    · exact Tended.after (tended_mapDown _ _ _) (Tended.after (tended_releaseOwner _ _) (.of_eq rfl rfl))
    · exact Tended.after (tended_endActive _ _) (tended_endChunk s)
    · exact .of_eq rfl rfl
    · exact Tended.after (tended_endActive _ _) (tended_withdrawRequest s)

theorem tended_stopJob (o : JobOutcome) (s : State) (id : Nat) : Tended s (stopJob o s id) := by
  unfold stopJob
  split
  · exact .refl s
  · refine Tended.cond _ (tended_stopActive o s) ?_
    split <;> exact .of_eq rfl rfl

theorem tended_stopJobs (p : Job → Bool) (o : JobOutcome) (s : State) : Tended s (stopJobs p o s) :=
  Tended.foldl _ (tended_stopJob o) _ s

theorem tended_truncateJob (s : State) (id : Nat) : Tended s (truncateJob s id) := by
  unfold truncateJob
  split
  · exact .refl s
  · refine Tended.cond _ (Tended.cond _ (.refl s) ?_) ?_
    · split
      · exact Tended.after (tended_stopActive _ _) (.of_eq rfl rfl)
      · exact .of_eq rfl rfl
      · exact .of_eq rfl rfl
      · exact Tended.after (tended_stopActive _ _) (.of_eq rfl rfl)
    · split <;> exact .of_eq rfl rfl

theorem tended_markZeroSource (s : State) : Tended s (markZeroSource s) := by
  unfold markZeroSource
  dsimp only
  refine Tended.and (Tended.after (Tended.foldl _ (fun s i => ?_) _ _) (Tended.foldl _ (fun s i => ?_) _ s)) rfl rfl
  · exact Tended.cond _ (tended_setGrantFate _ _) (Tended.after (tended_joinQueue _ _ _) (tended_withdrawFromQueues _ _))
  · exact tended_setBuffer nofun

theorem tended_keepReadEnded (good : Bool) (s : State) : Tended s (keepReadEnded good s) := by
  unfold keepReadEnded
  split
  · split
    · exact Tended.after (tended_endActive _ _) (tended_endChunk s)
    · refine Tended.cond _ (.of_eq rfl rfl) ?_
      split
      · exact Tended.after (tended_endActive _ _) (tended_endChunk s)
      · exact Tended.after (tended_markZeroSource _) (.of_eq rfl rfl)
  · exact .refl s

theorem tended_afterWrite (good : Bool) (s : State) : Tended s (afterWrite good s) := by
  unfold afterWrite
  split
  · exact .refl s
  · split
    · exact tended_endActive _ s
    · exact Tended.cond _ (tended_endActive _ s) (Tended.cond _ (tended_endActive _ s) (.refl s))

theorem tended_keepWriteEnded (good : Bool) (s : State) : Tended s (keepWriteEnded good s) := by
  unfold keepWriteEnded
  split
  · exact Tended.after (tended_afterWrite _ _) ((tended_endChunk s).and rfl rfl)
  · exact .refl s

theorem tended_dropChunk (s : State) : Tended s (dropChunk s) := by
  unfold dropChunk
  split
  · have h : Tended s (endChunk (removeDown (fun c => c.user == .keep) s)) :=
      Tended.after (tended_endChunk _) (.of_eq rfl rfl)
    dsimp only
    split
    · exact Tended.after (tended_endActive _ _) h
    · exact Tended.cond _ (Tended.after (tended_endActive _ _) (h.and rfl rfl)) h
  · exact .refl s

/-- What a partial operation answers is tended from its argument. -/
def TendedBy (f : State → Option State) : Prop := ∀ s t, f s = some t → Tended s t

theorem tendedBy_placeRequest : TendedBy placeRequest? := by
  intro s t h
  unfold placeRequest? at h
  split at h
  · cases h
  · dsimp only [cond] at h
    split at h <;> cases h
    refine Tended.after (tended_setBuffers _ ?_ _ _) (.of_eq rfl rfl)
    nofun

theorem tendedBy_requestMet : TendedBy requestMet? := by
  intro s t h
  unfold requestMet? at h
  split at h
  · cases h
  · dsimp only [cond] at h
    split at h <;> cases h
    refine Tended.after (tended_setBuffers _ ?_ _ _) (.of_eq rfl rfl)
    nofun

theorem tended_placeBuffers (j : Job) (h : Nat) (sources : List (Nat × Capture)) (l : List Nat) (p : Nat) (s : State) :
    Tended s (placeBuffers j h sources p l s) := by
  induction l generalizing p s with
  | nil => exact .refl s
  | cons i rest ih => exact Tended.after (ih _ _) (tended_setBuffer nofun)

theorem tended_startChunk (j : Job) (n t : Nat) (s : State) : Tended s (startChunk j n t s) := by
  unfold startChunk
  split
  · exact Tended.after (tended_endActive _ _) (tended_withdrawRequest s)
  · split
    · exact Tended.after (tended_endActive _ _) (tended_withdrawRequest s)
    · dsimp only
      rw [usersUp_eq, countUp_eq]
      exact (tended_placeBuffers j _ _ _ 0 s).and rfl rfl

theorem tendedBy_chunkStart : TendedBy chunkStart? := by
  intro s t h
  unfold chunkStart? at h
  split at h
  · dsimp only [cond] at h
    split at h <;> cases h
    exact tended_startChunk _ _ _ s
  · cases h

theorem tendedBy_destinationWrite : TendedBy destinationWrite? := by
  intro s t h
  unfold destinationWrite? at h
  split at h
  · split at h
    · dsimp only [cond] at h
      split at h <;> cases h
      exact .of_eq rfl rfl
    · cases h
  · cases h

/-! ## Transfers -/

theorem tended_discardInvited (k : RecordKey) (lo hi : Nat) (s : State) : Tended s (discardInvited k lo hi s) := by
  unfold discardInvited
  refine Tended.foldl _ (fun s i => ?_) _ s
  refine tended_mapBuffer_same (fun _ => ?_) i s
  exact ⟨rfl, rfl, rfl⟩

theorem tended_dropFailedData (k : RecordKey) (second : Bool) (s : State) : Tended s (dropFailedData k second s) := by
  unfold dropFailedData
  split
  · exact .refl s
  · refine Tended.cond _ (Tended.after (tended_releaseWhere _ _) (.of_eq rfl rfl)) (Tended.after (tended_releaseWhere _ _)
      (Tended.after (tended_discardInvited _ _ _ _) (.of_eq rfl rfl)))

theorem tended_freeTag (t : Option Nat) (s : State) : Tended s (freeTag t s) := by
  cases t <;> exact .of_eq rfl rfl

theorem tended_releaseSplitTag (k : RecordKey) (s : State) : Tended s (releaseSplitTag k s) := by
  unfold releaseSplitTag
  split
  · split
    · exact (tended_freeTag _ s).and rfl rfl
    · exact .refl s
  · exact .refl s

theorem tended_partEnded (k : RecordKey) (second : Bool) (st : PartStatus) (s : State) : Tended s (partEnded k second st s) := by
  unfold partEnded
  dsimp only
  split
  · cases second
    · exact Tended.after (tended_releaseSplitTag _ _) (Tended.after (tended_dropFailedData _ _ _) (.of_eq rfl rfl))
    · exact Tended.after (tended_dropFailedData _ _ _) (.of_eq rfl rfl)
  · exact .of_eq rfl rfl

theorem tended_endToUser (c : DownCmd) (st : PartStatus) (s : State) : Tended s (endToUser c st s) := by
  unfold endToUser
  split
  · exact tended_partEnded _ _ _ s
  · exact tended_partEnded _ _ _ s
  · cases c.op == .read
    · exact tended_keepWriteEnded _ s
    · exact tended_keepReadEnded _ s

theorem tended_stopSending (tag : Option Nat) (s : State) : Tended s (stopSending tag s) := by
  unfold stopSending
  split
  · exact Tended.cond _ (.of_eq rfl rfl) (.refl s)
  · exact .refl s

theorem tended_endDown (c : DownCmd) (st : PartStatus) (s : State) : Tended s (endDown c st s) :=
  Tended.after (tended_endToUser _ _ _) (Tended.after (Tended.cond _ (.refl _) (tended_freeTag _ _))
    (Tended.after (tended_stopSending _ _) (.of_eq rfl rfl)))

theorem tended_failAll (error : Byte) (s : State) : Tended s (failAll error s) :=
  Tended.foldl _ (fun _ _ => tended_endDown _ _ _) _ s

theorem tended_breakCommand (tag : Option Nat) (s : State) : Tended s (breakCommand tag s) :=
  (tended_stopSending tag s).and rfl rfl

/-- A protected sector of a host read is queued; a Clear one is Done (R118). -/
theorem tended_takeReadSector (k : RecordKey) (lba : Nat) (data : Sector) (i : Nat) (r : Record) (s : State) :
    Tended s (takeReadSector k lba data i r s) := by
  unfold takeReadSector
  refine Tended.cond _ (.refl s) ?_
  dsimp only
  split
  · exact Tended.after (tended_joinQueue _ _ _) (tended_setBuffer nofun)
  · exact tended_setBuffer nofun

theorem tended_takeKeepSector (lba : Nat) (data : Sector) (s : State) : Tended s (takeKeepSector lba data s) := by
  unfold takeKeepSector
  split
  · exact Tended.after (tended_joinQueue _ _ _) (tended_setBuffer nofun)
  · exact .refl s

theorem tended_takeSector {c : DownCmd} {data : Sector} {s t : State} (h : takeSector c data s = some t) : Tended s t := by
  unfold takeSector at h
  split at h
  · cases h
    exact Tended.after (tended_takeKeepSector _ _ _) (.of_eq rfl rfl)
  · split at h
    · dsimp only [cond] at h
      split at h <;> cases h
      exact Tended.after (tended_takeReadSector _ _ _ _ _ _) (.of_eq rfl rfl)
    · cases h
      exact .of_eq rfl rfl
    · cases h

theorem tended_takeData {tag : Option Nat} {offset : Nat} {sectors : List Sector} {rest : List DiskFrame} {s t : State}
    (h : takeData tag offset sectors rest s = some t) : Tended s t := by
  unfold takeData at h
  split at h
  · cases h
    exact .of_eq rfl rfl
  · cases h
    exact .of_eq rfl rfl
  · dsimp only [cond] at h
    split at h
    · cases h
      exact .of_eq rfl rfl
    · split at h
      · cases h
        exact (tended_breakCommand tag s).and rfl rfl
      · obtain ⟨u, hu, rfl⟩ := Option.map_eq_some_iff.mp h
        exact (tended_takeSector hu).and rfl rfl

theorem tended_takeWriteRequest (tag : Option Nat) (n : Nat) (s : State) : Tended s (takeWriteRequest tag n s) := by
  unfold takeWriteRequest
  split
  · exact .refl s
  · refine Tended.cond _ (.refl s) (Tended.cond _ (tended_breakCommand tag s) (Tended.cond _ (.refl s) ?_))
    dsimp only
    split <;> exact .of_eq rfl rfl

theorem tended_takeEnd (tag : Option Nat) (good : Bool) (error : Byte) (lba : Nat) (s : State) :
    Tended s (takeEnd tag good error lba s) := by
  unfold takeEnd
  split
  · exact .refl s
  · exact tended_endDown _ _ s

theorem tended_takeOne {f : DiskFrame} {rest : List DiskFrame} {s t : State} (h : takeOne f rest s = some t) : Tended s t := by
  cases f with
  | data tag offset sectors => exact tended_takeData h
  | writeRequest tag n => cases h; exact Tended.after (tended_takeWriteRequest _ _ _) (.of_eq rfl rfl)
  | commandEnd tag good error lba => cases h; exact Tended.after (tended_takeEnd _ _ _ _ _) (.of_eq rfl rfl)
  | failure error => cases h; exact Tended.after (tended_failAll _ _) (.of_eq rfl rfl)

theorem tendedBy_takeFrame : TendedBy takeFrame? := by
  intro s t h
  unfold takeFrame? at h
  split at h
  · cases h
  · exact tended_takeOne h

theorem tendedBy_wakeDrive : TendedBy wakeDrive? := by
  intro s t h
  unfold wakeDrive? at h
  split at h <;> cases h
  exact .of_eq rfl rfl

theorem tendedBy_sendCommand : TendedBy sendCommand? := by
  intro s t h
  unfold sendCommand? at h
  split at h
  · dsimp only [cond] at h
    split at h <;> cases h
    exact .of_eq rfl rfl
  · cases h

theorem tended_countDownData (k : RecordKey) (s : State) : Tended s (countDownData k s) := .of_eq rfl rfl

theorem tendedBy_sendSector : TendedBy sendSector? := by
  intro s t h
  unfold sendSector? at h
  dsimp only [cond] at h
  split at h
  · split at h
    · cases h
    · cases h
      split
      · exact Tended.after (tended_countDownData _ _) (Tended.after (tended_releaseBuffer _ _) (.of_eq rfl rfl))
      · exact Tended.after (tended_releaseBuffer _ _) (.of_eq rfl rfl)
  · cases h

theorem tendedBy_secondPart (k : RecordKey) : TendedBy (secondPart? k) := by
  intro s t h
  unfold secondPart? at h
  split at h
  · cases h
  · split at h
    · cases h
    · dsimp only [cond] at h
      split at h <;> cases h
      exact .of_eq rfl rfl

theorem tendedBy_decide (k : RecordKey) : TendedBy (decide? k) := by
  intro s t h
  unfold decide? at h
  split at h
  · cases h
  · dsimp only [cond] at h
    split at h <;> cases h
    exact .of_eq rfl rfl

/-! ## The internal steps -/

theorem tendedBy_applyPending (i : Nat) : TendedBy (applyPending? i) := by
  intro s t h
  unfold applyPending? at h
  dsimp only [cond] at h
  split at h <;> cases h
  exact .of_eq rfl rfl

theorem tendedBy_drainRelease (k : RecordKey) : TendedBy (drainRelease? k) := by
  intro s t h
  unfold drainRelease? at h
  split at h
  · cases h
  · dsimp only [cond] at h
    split at h <;> cases h
    exact Tended.after (tended_stepClassify _ _) (.of_eq rfl rfl)

theorem tendedBy_keywaitRecheck (k : RecordKey) : TendedBy (keywaitRecheck? k) := by
  intro s t h
  unfold keywaitRecheck? at h
  split at h
  · cases h
  · dsimp only [cond] at h
    split at h <;> cases h
    exact tended_stepLookup k s

theorem tendedBy_ringorderRelease (k : RecordKey) : TendedBy (ringorderRelease? k) := by
  intro s t h
  unfold ringorderRelease? at h
  split at h
  · cases h
  · dsimp only [cond] at h
    split at h <;> cases h
    exact Tended.after (tended_stepOverrun _ _) (.of_eq rfl rfl)

theorem tendedBy_overrunRelease (k : RecordKey) : TendedBy (overrunRelease? k) := by
  intro s t h
  unfold overrunRelease? at h
  split at h
  · cases h
  · dsimp only [cond] at h
    split at h <;> cases h
    exact Tended.after (tended_stepTagWait _ _) (.of_eq rfl rfl)

theorem tendedBy_tagwaitGrant : TendedBy tagwaitGrant? := by
  intro s t h
  unfold tagwaitGrant? at h
  split at h <;> cases h
  exact Tended.after (tended_stepSoleWait _ _) (.of_eq rfl rfl)

theorem tendedBy_solewaitRelease : TendedBy solewaitRelease? := by
  intro s t h
  unfold solewaitRelease? at h
  split at h
  · cases h
  · dsimp only [cond] at h
    split at h <;> cases h
    exact Tended.after (tended_stepIssue _ _) (.of_eq rfl rfl)

theorem tendedBy_systemPortReady : TendedBy systemPortReady? := by
  intro s t h
  unfold systemPortReady? at h
  dsimp only [cond] at h
  split at h <;> cases h
  exact .of_eq rfl rfl

theorem tendedBy_wakeSystem : TendedBy wakeSystem? := by
  intro s t h
  unfold wakeSystem? at h
  split at h
  · dsimp only [cond] at h
    split at h <;> cases h
    exact .of_eq rfl rfl
  · cases h

theorem TendedBy.orElse {f g : State → Option State} (hf : TendedBy f) (hg : TendedBy g) : TendedBy fun s => f s <|> g s := by
  intro s t h
  cases hs : f s with
  | none => exact hg s t (by simpa [hs] using h)
  | some u =>
      have : u = t := by simpa [hs] using h
      exact this ▸ hf s u hs

theorem TendedBy.findSome {α : Type} {f : α → State → Option State} (l : State → List α) (hf : ∀ a, TendedBy (f a)) :
    TendedBy fun s => (l s).findSome? (f · s) := by
  intro s t h
  obtain ⟨a, _, ha⟩ := List.exists_of_findSome?_eq_some h
  exact hf a s t ha

/-- The result of one internal step is tended from the state it is taken in. -/
theorem tendedBy_internalStep : TendedBy internalStep :=
  .orElse (.findSome (fun _ => List.range Config.regionCount) tendedBy_applyPending) <|
  .orElse (.findSome (fun s => s.tracker.records.map Record.key)
    fun k => .orElse (tendedBy_drainRelease k) (tendedBy_decide k)) <|
  .orElse (.findSome (fun s => s.tracker.keyWait) tendedBy_keywaitRecheck) <|
  .orElse (.findSome (fun s => s.tracker.ringOrder) tendedBy_ringorderRelease) <|
  .orElse (.findSome (fun s => s.tracker.overrun) tendedBy_overrunRelease) <|
  .orElse tendedBy_tagwaitGrant <|
  .orElse tendedBy_solewaitRelease <|
  .orElse (.findSome (fun s => s.tracker.records.map Record.key) tendedBy_secondPart) <|
  .orElse tendedBy_destinationWrite <|
  .orElse tendedBy_requestMet <|
  .orElse tendedBy_chunkStart <|
  .orElse tendedBy_takeFrame <|
  .orElse tendedBy_placeRequest <|
  .orElse tendedBy_wakeDrive <|
  .orElse tendedBy_sendCommand <|
  .orElse tendedBy_sendSector <|
  .orElse tendedBy_systemPortReady tendedBy_wakeSystem

/-- What `settle` does to the Miss List and to the engine. -/
theorem settle_tended (s : State) : Tended s (settle s) :=
  settle_keeps (Tended s) (fun t u h k => h.trans (tendedBy_internalStep t u k)) s (.refl s)

end Sys2Proof.Machine
end

section
/-! SUPPORT. What every command leaves of the latched causes, the enable set, the profile, the clock, the Key Table, the Miss List
and the grant, but for those with an effect of their own on one of them. -/

namespace Sys2Proof.Machine

/-! ## The relations -/

/-- Latched causes stay latched, and what MASK ALERTS and the profile gave stays (R170, R171, R173). -/
structure LineKept (s t : State) : Prop where
  latched : t.line.latched ||| s.line.latched = t.line.latched
  enabled : t.line.enabled = s.line.enabled
  profile : t.line.profile = s.line.profile

/-- No protected sector becomes Done and no grant begins; one in progress keeps its result (R115). -/
structure EngineKept (s t : State) : Prop where
  done  : ∀ i, (t.buffer i).state = .done → (t.buffer i).treatment = .protect →
    (s.buffer i).state = .done ∧ (s.buffer i).treatment = .protect ∧ (t.buffer i).data = (s.buffer i).data
  grant : ∀ g, t.engine.grant = some g →
    ∃ b, s.engine.grant = some b ∧ g.result = b.result ∧ (g.buffer = b.buffer ∨ g.buffer = none)

/-- The clock, the slots and the Lockdown flag stay, the Miss List keeps its law, and no ring becomes Live. -/
structure TablesKept (s t : State) : Prop where
  clock     : t.clock = s.clock
  slots     : t.keys.slots = s.keys.slots
  lockdown  : t.keys.lockdown = s.keys.lockdown
  missLaw   : s.MissListLaw → t.MissListLaw
  missEmpty : s.keys.lockdown = true → s.keys.missList = [] → t.keys.missList = []
  idle      : ∀ r, (s.ring r).live = false → (t.ring r).live = false

/-- All three. -/
structure Steady (s t : State) : Prop where
  line   : LineKept s t
  engine : EngineKept s t
  tables : TablesKept s t

theorem LineKept.of_eq {s t : State} (h : t.line = s.line) : LineKept s t := by
  constructor <;> rw [h]
  exact BitVec.or_self

theorem LineKept.trans {s t u : State} (h : LineKept s t) (k : LineKept t u) : LineKept s u :=
  ⟨by rw [← k.latched, BitVec.or_assoc, h.latched], k.enabled.trans h.enabled, k.profile.trans h.profile⟩

theorem LineKept.of_settled {s t : State} (h : Settled s t) : LineKept s t := ⟨h.latched, h.enabled, h.profile⟩

theorem Tended.engine {s t : State} (h : Tended s t) : EngineKept s t := ⟨h.done, h.grant⟩

theorem EngineKept.of_eq {s t : State} (h : t.engine = s.engine) : EngineKept s t :=
  ⟨fun i hs ht => by
    have hb : t.buffer i = s.buffer i := by simp only [State.buffer, h]
    rw [hb] at hs ht ⊢
    exact ⟨hs, ht, rfl⟩, fun g hg => ⟨g, h ▸ hg, rfl, .inl rfl⟩⟩

theorem EngineKept.trans {s t u : State} (h : EngineKept s t) (k : EngineKept t u) : EngineKept s u := by
  refine ⟨fun i hs ht => ?_, fun g hg => ?_⟩
  · obtain ⟨hs', ht', hd⟩ := k.done i hs ht
    obtain ⟨hs'', ht'', hd'⟩ := h.done i hs' ht'
    exact ⟨hs'', ht'', hd.trans hd'⟩
  · obtain ⟨b, hb, hr, hbuf⟩ := k.grant g hg
    obtain ⟨c, hc, hr', hbuf'⟩ := h.grant b hb
    exact ⟨c, hc, hr.trans hr', hbuf.elim (fun e => e ▸ hbuf') .inr⟩

theorem ring_idle_of_eq {s t : State} (h : t.rings = s.rings) (r : Nat) (hr : (s.ring r).live = false) :
    (t.ring r).live = false := by
  rw [ring_congr h]
  exact hr

theorem TablesKept.of_eq {s t : State} (hk : t.keys = s.keys) (hc : t.clock = s.clock) (hr : t.rings = s.rings) :
    TablesKept s t :=
  ⟨hc, by rw [hk], by rw [hk], missListLaw_congr hk, fun _ h => by rw [hk]; exact h, ring_idle_of_eq hr⟩

theorem TablesKept.trans {s t u : State} (h : TablesKept s t) (k : TablesKept t u) : TablesKept s u :=
  ⟨k.clock.trans h.clock, k.slots.trans h.slots, k.lockdown.trans h.lockdown, fun l => k.missLaw (h.missLaw l),
    fun l e => k.missEmpty (h.lockdown.trans l) (h.missEmpty l e), fun r l => k.idle r (h.idle r l)⟩

theorem TablesKept.of_settled {s t : State} (h : Settled s t) (k : Tended s t) : TablesKept s t :=
  ⟨h.clock, h.slots, h.lockdown, k.missLaw, k.missEmpty, fun r l => (h.rings r).live.trans l⟩

theorem Steady.of_settled {s t : State} (h : Settled s t) (k : Tended s t) : Steady s t := ⟨.of_settled h, k.engine, .of_settled h k⟩

theorem Steady.of_eq {s t : State} (hk : t.keys = s.keys) (he : t.engine = s.engine) (hl : t.line = s.line)
    (hc : t.clock = s.clock) (hr : t.rings = s.rings) : Steady s t := ⟨.of_eq hl, .of_eq he, .of_eq hk hc hr⟩

theorem Steady.refl (s : State) : Steady s s := .of_eq rfl rfl rfl rfl rfl

theorem Steady.trans {s t u : State} (h : Steady s t) (k : Steady t u) : Steady s u :=
  ⟨h.line.trans k.line, h.engine.trans k.engine, h.tables.trans k.tables⟩

/-- The same, before a change of none of the blocks concerned. -/
theorem Steady.and {s t u : State} (h : Steady s t) (hk : u.keys = t.keys) (he : u.engine = t.engine) (hl : u.line = t.line)
    (hc : u.clock = t.clock) (hr : u.rings = t.rings) : Steady s u := h.trans (.of_eq hk he hl hc hr)

theorem Steady.cond {s x y : State} (b : Bool) (hx : Steady s x) (hy : Steady s y) : Steady s (bif b then x else y) := by
  cases b <;> assumption

theorem steady_settle (s : State) : Steady s (settle s) := .of_settled (settle_settled s) (settle_tended s)

theorem Steady.settle {s u : State} (h : Steady s u) : Steady s (settle u) := h.trans (steady_settle u)

/-- A command that takes a step where it is due, and settles. -/
theorem Steady.settle_getD {s : State} {o : Option State} (h : ∀ t, o = some t → Steady s t) :
    Steady s (Sys2Proof.Machine.settle (o.getD s)) := by
  cases o with
  | none => exact (Steady.refl s).settle
  | some t => exact (h t rfl).settle

theorem Steady.foldl {α : Type} (f : State → α → State) (hf : ∀ s a, Steady s (f s a)) (l : List α) (s : State) :
    Steady s (l.foldl f s) := by
  induction l generalizing s with
  | nil => exact .refl s
  | cons a l ih => exact (hf s a).trans (ih (f s a))

/-- A step that is settled and tended, where it is due. -/
theorem steady_step {f : State → Option State} (h : SettledBy f) (k : TendedBy f) (s : State) :
    Steady s (settle ((f s).getD s)) :=
  .settle_getD fun t ht => .of_settled (h s t ht) (k s t ht)

/-- A change of the ring table under which no ring becomes Live. -/
theorem steady_mapRings (f : Ring → Ring) (hf : ∀ q : Ring, q.live = false → (f q).live = false) (s : State) :
    Steady s (mapRings f s) := by
  refine ⟨.of_eq rfl, .of_eq rfl, rfl, rfl, rfl, missListLaw_congr rfl, fun _ h => h, fun r hr => ?_⟩
  rw [ring_mapRings]
  split
  · exact hf _ hr
  · exact hr

/-- A change of one ring under which it does not become Live. -/
theorem steady_mapRing (r : Nat) (f : Ring → Ring) (s : State) (hf : (s.ring r).live = false → (f (s.ring r)).live = false) :
    Steady s (mapRing r f s) := by
  refine ⟨.of_eq rfl, .of_eq rfl, rfl, rfl, rfl, missListLaw_congr rfl, fun _ h => h, fun q hq => ?_⟩
  rw [ring_mapRing]
  split
  · rename_i h
    rw [h.1] at hq
    exact hf hq
  · exact hq

theorem vector_getD_replicate {α : Type} (n : Nat) (d : α) (i : Nat) : (Vector.replicate n d).getD i d = d := by
  by_cases h : i < n <;> simp [Vector.getD, h]

/-! ## Resets, links and Lockdown -/

theorem steady_clearMisses (s : State) : Steady s (setMissList [] s) := by
  have h := tended_dropMisses (fun _ => false) s
  rw [List.filter_eq_nil_iff.mpr (by simp)] at h
  exact .of_settled (settled_setMissList _ _) h

theorem steady_abandonHost (s : State) : Steady s (abandonHost s) := by
  have h1 : ∀ u : State, Steady u (u.tracker.records.foldl giveUp u) := by
    refine fun u => Steady.foldl _ (fun v r => ?_) _ u
    have hsettled : Settled v (usersDown r.rings (countDown r.counted v)) :=
      Settled.after (settled_usersDown _ _) (settled_countDown _ v)
    have htended : Tended v (usersDown r.rings (countDown r.counted v)) := by
      rw [usersDown_eq, countDown_eq]
      exact .of_eq rfl rfl
    exact .of_settled (Settled.after (settled_releaseOwner _ _) hsettled) (Tended.after (tended_releaseOwner _ _) htended)
  have h2 : ∀ u : State, Steady u (mapRings (fun q => { q with accesses := [] }) u) := fun u =>
    steady_mapRings (fun q => { q with accesses := [] }) (fun _ h => h) u
  have h3 : ∀ u : State, Steady u (clearTables (freeHostUsers (removeDown (fun c => c.user.isHost) u))) := by
    refine fun u => Steady.trans (u := clearTables _) ?_ (steady_clearMisses _)
    exact .of_eq rfl rfl rfl rfl rfl
  exact (h1 s).trans ((h2 _).trans (h3 _))

theorem steady_abandonWork (s : State) : Steady s (abandonWork s) := by
  have h : Steady s (abandonHost (clearDisk s)) :=
    Steady.trans (t := clearDisk s) (.of_eq rfl rfl rfl rfl rfl) (steady_abandonHost _)
  exact h.trans (.of_settled (settled_dropChunk _) (tended_dropChunk _))

/-- Steps 1, 2 and 4 of R88, with the System Port's link. -/
theorem steady_linkGone (l : SysLink) (s : State) : Steady s (setSysLink l (resetDownstream (abandonWork s))) := by
  have h : Steady s (resetDownstream (abandonWork s)) :=
    (steady_abandonWork s).trans (.cond _ (.refl _) (.of_eq rfl rfl rfl rfl rfl))
  exact h.and rfl rfl rfl rfl rfl

/-- A line reset clears the pool and takes the buffer of the grant in progress (R130). -/
theorem engineKept_lineReset (s : State) : EngineKept s (lineResetBlocks s) := by
  refine ⟨fun i hs _ => ?_, fun g hg => ?_⟩
  · have : (lineResetBlocks s).buffer i = Buffer.empty := by
      simp only [State.buffer, lineResetBlocks, clearTables, Engine.lineReset, setMissList, setDrain]
      exact vector_getD_replicate _ _ _
    rw [this] at hs
    exact nomatch hs
  · obtain ⟨b, hb, rfl⟩ := Option.map_eq_some_iff.mp hg
    exact ⟨b, hb, rfl, .inr rfl⟩

theorem steady_lineResetBlocks (s : State) : Steady s (lineResetBlocks s) := by
  refine ⟨.of_eq rfl, engineKept_lineReset s, ?_⟩
  have hrings : TablesKept s (setMissList [] (mapRings (fun q => { q with accesses := [], users := 0 }) s)) :=
    ((steady_mapRings (fun q => { q with accesses := [], users := 0 }) (fun _ h => h) s).trans (steady_clearMisses _)).tables
  exact hrings.trans (.of_eq rfl rfl rfl)

theorem steady_loseDisk (l : DriveLink) (s : State) : Steady s (loseDisk l s) := by
  have hcut : ∀ u : State, Steady u (failLost u) := by
    refine fun u => Steady.foldl _ (fun v c => ?_) _ u
    exact Steady.trans (t := { v with fresh := v.fresh + 1 }) (.of_eq rfl rfl rfl rfl rfl)
      (.of_settled (settled_endDown _ _ _) (tended_endDown _ _ _))
  have h : Steady s (failLost (clearDisk s)) :=
    Steady.trans (t := clearDisk s) (.of_eq rfl rfl rfl rfl rfl) (hcut _)
  exact (h.and (u := setDriveLink l _) rfl rfl rfl rfl rfl).settle

/-! ## Host commands, disk frames and data -/

theorem steady_arrive (tag : Option Nat) (unsupported : Bool) (kind : HostKind) (host count : Nat) (frame : List Byte)
    (s : State) : Steady s (arrive tag unsupported kind host count frame s) := by
  unfold arrive
  split
  · refine Steady.settle (Steady.trans (t := closeGate s) (.of_eq rfl rfl rfl rfl rfl) ?_)
    unfold takeArrival
    split
    · exact .of_eq rfl rfl rfl rfl rfl
    · exact Steady.trans (t := addRecord _ _ _ _ _ (closeGate s)) (.of_eq rfl rfl rfl rfl rfl)
        (.of_settled (settled_startSteps _ _) (tended_startSteps _ _))
  · exact .of_eq rfl rfl rfl rfl rfl
  · exact .refl s
  · exact .refl s

theorem tended_frameArrives (f : DiskFrame) (s : State) : Tended s (frameArrives f s) := by
  unfold frameArrives
  split
  · cases h : takeOne f [] s with
    | none => exact .of_eq rfl rfl
    | some t => exact tended_takeOne h
  · exact .of_eq rfl rfl

theorem steady_diskFrame (f : DiskFrame) (s : State) : Steady s (diskFrame f s) :=
  .cond _ (Steady.of_settled (settled_frameArrives f s) (tended_frameArrives f s)).settle (.refl s)

theorem steady_keepEnd (op : DownOp) (good : Bool) (error : Byte) (lba : Nat) (s : State) :
    Steady s (keepEnd op good error lba s) := by
  unfold keepEnd
  split
  · exact steady_diskFrame _ s
  · exact .refl s

/-- A protected sector that arrives is queued; a Clear one is Done (R119). -/
theorem tended_fillInvited (i : Nat) (data : Sector) (s : State) : Tended s (fillInvited i data s) := by
  unfold fillInvited
  refine Tended.cond _ (tended_releaseBuffer i s) ?_
  split
  · exact Tended.after (tended_joinQueue _ _ _) (tended_setBuffer nofun)
  · rename_i h
    exact tended_setBuffer fun _ ht => absurd ht h

theorem steady_takeWriteData {k : RecordKey} {data : Sector} {s t : State} (h : takeWriteData? k data s = some t) :
    Steady s t := by
  unfold takeWriteData? at h
  split at h
  · cases h
    exact .of_settled (Settled.after (settled_fillInvited _ _ _) (settled_record _ _ _ fun _ => rfl))
      (Tended.after (tended_fillInvited _ _ _) (.of_eq rfl rfl))
  · cases h

theorem tended_placeInvited (r : Record) (l : List Nat) (lba : Nat) (s : State) : Tended s (placeInvited r lba l s) := by
  induction l generalizing lba s with
  | nil => exact .refl s
  | cons i rest ih => exact Tended.after (ih _ _) (tended_setBuffer nofun)

theorem steady_writeRequest {s t : State} (h : writeRequest? s = some t) : Steady s t := by
  unfold writeRequest? at h
  split at h
  · split at h
    · dsimp only [cond] at h
      split at h <;> cases h
      exact (Steady.of_settled (settled_placeInvited _ _ _ s) (tended_placeInvited _ _ _ s)).and rfl rfl rfl rfl rfl
    · cases h
  · cases h

theorem steady_deliver (r : Record) (s : State) : Steady s (deliver r s) := by
  unfold deliver
  dsimp only
  refine Steady.and (t := List.foldl _ _ _) (Steady.trans ?_ (Steady.foldl _ (fun v i => ?_) _ _)) rfl rfl rfl rfl rfl
  · exact .of_eq rfl rfl rfl rfl rfl
  · exact .of_settled (settled_releaseBuffer i v) (tended_releaseBuffer i v)

theorem steady_readBurst {s t : State} (h : readBurst? s = some t) : Steady s t := by
  unfold readBurst? at h
  split at h
  · dsimp only [cond] at h
    split at h <;> cases h
    exact steady_deliver _ s
  · cases h

theorem steady_retire (r : Record) (s : State) : Steady s (retire r s) := by
  have hcounts : Steady s (usersDown r.rings (countDown r.counted s)) := by
    refine .of_settled (Settled.after (settled_usersDown _ _) (settled_countDown _ s)) ?_
    rw [usersDown_eq, countDown_eq]
    exact .of_eq rfl rfl
  exact (hcounts.trans (steady_mapRings (fun q => { q with accesses := q.accesses.filter fun a => !(a.record == r.key) })
    (fun _ h => h) _)).and rfl rfl rfl rfl rfl

theorem steady_completion {s t : State} (h : completion? s = some t) : Steady s t := by
  have sent : ∀ (x : UpItem) (l : List DueItem), Steady s (emitUp x { s with sys := { s.sys with sendOrder := l } }) :=
    fun _ _ => .of_eq rfl rfl rfl rfl rfl
  unfold completion? at h
  dsimp only [cond] at h
  split at h
  · cases h
  · split at h
    · cases h
    · cases h; exact sent _ _
    · split at h
      · cases h
      · split at h
        · cases h
        · cases h; exact (sent _ _).trans (steady_retire _ _)

theorem tendedBy_keywaitExpired (k : RecordKey) : TendedBy (keywaitExpired? k) := by
  intro s t h
  unfold keywaitExpired? at h
  dsimp only [cond] at h
  split at h <;> cases h
  exact tended_refuseKey _ _ _

theorem tendedBy_overrunExpired (k : RecordKey) : TendedBy (overrunExpired? k) := by
  intro s t h
  unfold overrunExpired? at h
  split at h
  · cases h
  · dsimp only [cond] at h
    split at h <;> cases h
    exact (Tended.foldl _ (fun _ _ => tended_truncateJob _ _) _ s).and rfl rfl

/-! ## Grants -/

/-- The start and the end of a grant leave all but the engine. -/
theorem kept_grantSector (c : Choice) (i : Nat) (s : State) :
    LineKept s (grantSector c i s) ∧ TablesKept s (grantSector c i s) := by
  have begun : ∀ e : Engine, LineKept s { s with engine := e } ∧ TablesKept s { s with engine := e } := fun e =>
    ⟨.of_eq rfl, .of_eq rfl rfl rfl⟩
  unfold grantSector
  dsimp only
  split
  · exact begun _
  · exact begun _
  · split
    · exact begun _
    · rename_i why _
      obtain ⟨hline, htables⟩ := begun (withdrawFromQueues i (countGrant c s)).engine
      have hstop := Steady.of_settled
        (settled_stopActive (.failed why.failReason) (withdrawFromQueues i (countGrant c s))) (tended_stopActive _ _)
      exact ⟨hline.trans hstop.line, htables.trans hstop.tables⟩

theorem kept_grantStart {s t : State} (h : grantStart? s = some t) : LineKept s t ∧ TablesKept s t := by
  unfold grantStart? at h
  split at h
  · split at h <;> cases h
    exact kept_grantSector _ _ s
  · cases h

theorem tables_mapBuffer (i : Nat) (f : Buffer → Buffer) (s : State) : TablesKept s (mapBuffer i f s) := .of_eq rfl rfl rfl

theorem tables_noteLost (b : Buffer) (lost : Option LostReason) (s : State) : TablesKept s (noteLost b lost s) := by
  unfold noteLost
  split <;> exact .of_eq rfl rfl rfl

theorem kept_endGrant (g : Grant) (s : State) : LineKept s (endGrant g s) ∧ TablesKept s (endGrant g s) := by
  have ended : ∀ u : State, Settled { s with engine := { s.engine with grant := none } } u →
      TablesKept { s with engine := { s.engine with grant := none } } u → LineKept s u ∧ TablesKept s u := fun u hu ht =>
    ⟨.trans (t := { s with engine := { s.engine with grant := none } }) (.of_eq rfl) (.of_settled hu),
      .trans (t := { s with engine := { s.engine with grant := none } }) (.of_eq rfl rfl rfl) ht⟩
  unfold endGrant
  dsimp only
  split
  · exact ended _ (.refl _) (.of_eq rfl rfl rfl)
  · split
    · exact ended _ (Settled.after (settled_noteLost _ _ _) (settled_mapBuffer _ _ _))
        ((tables_mapBuffer _ _ _).trans (tables_noteLost _ _ _))
    · exact ended _ (settled_releaseNow _ _) (.of_settled (settled_releaseNow _ _) (tended_releaseNow _ _))
    · exact ended _ (settled_joinQueue _ _ _) (.of_settled (settled_joinQueue _ _ _) (tended_joinQueue _ _ _))

/-! ## Link power -/

theorem steady_lowPowerAsked (d : Depth) (s : State) : Steady s (lowPowerAsked d s) := by
  unfold lowPowerAsked
  split
  · exact .refl s
  · exact .refl s
  · exact .cond _ (.of_eq rfl rfl rfl rfl rfl) (.of_eq rfl rfl rfl rfl rfl)

theorem steady_carryLowPower (s : State) : Steady s (carryLowPower s) := by
  unfold carryLowPower
  split
  · exact .cond _ (.of_eq rfl rfl rfl rfl rfl) (.refl s)
  · exact .refl s

theorem steady_lowPowerAnswered (accepted : Bool) (s : State) : Steady s (lowPowerAnswered accepted s) := by
  unfold lowPowerAnswered
  split
  · exact .cond _ (.of_eq rfl rfl rfl rfl rfl) (.of_eq rfl rfl rfl rfl rfl)
  · exact .refl s

/-! ## Requests -/

/-- A reply takes the line state, the request and the slot's content alone. -/
theorem steady_reply (f : List Byte) (a : Answer) (u : State) : Steady u (placeReply f a (settle u)) := by
  have h : Steady (settle u) (placeReply f a (settle u)) :=
    ⟨⟨BitVec.or_self, rfl, rfl⟩, .of_eq rfl, .of_eq rfl rfl rfl⟩
  exact (steady_settle u).trans h

theorem steady_takeRequest {row : RequestRow} {serve : Request → State → State × Answer} {s : State}
    (h : ∀ r, Steady s (serve r s).1) : Steady s (takeRequest row serve s) :=
  takeRequest_keeps (Steady s) (.refl s) (fun f a u hu => hu.trans (steady_reply f a u)) h

/-- What the requests of the Region Map serve. -/
def regionServers : List (Request → State → State × Answer) := [servePutNow, servePutBoundary, serveFreeNow, serveFreeBoundary]

/-- The requests of the Region Map change nothing but the Region Map. -/
theorem regionServers_regions (r : Request) (s : State) :
    ∀ serve ∈ regionServers, ∃ m, (serve r s).1 = { s with regions := m } := by
  have same : ∃ m, s = { s with regions := m } := ⟨s.regions, rfl⟩
  have put : ∀ i d, ∃ m, (putNow i d s).1 = { s with regions := m } := by
    intro i d
    unfold putNow
    split
    · exact same
    · exact ⟨_, rfl⟩
  have putLater : ∀ i d, ∃ m, (putBoundary i d s).1 = { s with regions := m } := by
    intro i d
    unfold putBoundary
    split
    · exact same
    · split <;> exact ⟨_, rfl⟩
  have free : ∀ i, ∃ m, (freeNow i s).1 = { s with regions := m } := by
    intro i
    unfold freeNow
    split
    · exact same
    · exact ⟨_, rfl⟩
  have freeLater : ∀ i, ∃ m, (freeBoundary i s).1 = { s with regions := m } := by
    intro i
    unfold freeBoundary
    split
    · exact same
    · dsimp only [cond]
      split
      · exact same
      · split <;> exact ⟨_, rfl⟩
  intro serve h
  simp only [regionServers, List.mem_cons, List.not_mem_nil, or_false] at h
  rcases h with rfl | rfl | rfl | rfl
  · unfold servePutNow
    split
    · exact put _ _
    · exact same
  · unfold servePutBoundary
    split
    · exact putLater _ _
    · exact same
  · unfold serveFreeNow
    split
    · exact free _
    · exact same
  · unfold serveFreeBoundary
    split
    · exact freeLater _
    · exact same

theorem steady_regions {row : RequestRow} {serve : Request → State → State × Answer} (s : State) (h : serve ∈ regionServers) :
    Steady s (takeRequest row serve s) := by
  refine steady_takeRequest fun r => ?_
  obtain ⟨m, hm⟩ := regionServers_regions r s serve h
  rw [hm]
  exact .of_eq rfl rfl rfl rfl rfl

theorem steady_status {row : RequestRow} {serve : Request → State → State × Answer} (s : State) (h : serve ∈ statusServers) :
    Steady s (takeRequest row serve s) :=
  steady_takeRequest fun r => by rw [statusServers_unchanged r s serve h]; exact .refl s

theorem steady_serveShapeRing (r : Request) (s : State) : Steady s (serveShapeRing r s).1 := by
  unfold serveShapeRing
  split
  · unfold shapeRingTo
    dsimp only [cond]
    repeat' split
    all_goals first | exact .refl s | (refine steady_mapRing _ (fun x => { x with base := _, span := _, trail := _ }) s ?_; exact id)
  · exact .refl s

theorem steady_switched (r : Nat) (x : Ring) (s : State) (h : x.live = (s.ring r).live) : Steady s (switched r x s).1 :=
  steady_mapRing r (fun _ => x) s fun h' => h.trans h'

theorem steady_switchLive (r : Nat) (id : ProgId) (s : State) : Steady s (switchLive r id s).1 := by
  unfold switchLive
  dsimp only [cond]
  split
  · exact steady_switched _ _ s rfl
  · split
    · exact steady_switched _ _ s rfl
    · split
      · split
        · exact .refl s
        · exact (Steady.of_settled (settled_latch .epochCut s) (.of_eq rfl rfl)).trans (steady_switched _ _ _ rfl)
      · exact .refl s

theorem steady_serveSwitchRing (r : Request) (s : State) : Steady s (serveSwitchRing r s).1 := by
  unfold serveSwitchRing
  split
  · unfold switchRingTo
    dsimp only [cond]
    split
    · exact .refl s
    · split
      · exact .refl s
      · exact steady_switchLive _ _ s
  · exact .refl s

theorem closed_live (r : Ring) : r.closed.live = false := by
  unfold Ring.closed
  cases h : r.live
  · exact h
  · rfl

theorem steady_serveCloseRing (r : Request) (s : State) : Steady s (serveCloseRing r s).1 := by
  unfold serveCloseRing
  split
  · unfold closeRingOf
    dsimp only [cond]
    split
    · exact .refl s
    · split
      · exact .refl s
      · exact (steady_mapRing _ _ s fun _ => closed_live _).trans (.of_settled (settled_stopJobs _ _ _) (tended_stopJobs _ _ _))
  · exact .refl s

theorem steady_serveSubmitKeep (r : Request) (s : State) : Steady s (serveSubmitKeep r s).1 := by
  unfold serveSubmitKeep
  split
  · unfold submitKeepOf
    split
    · exact .refl s
    · split
      · exact .refl s
      · split
        · exact .refl s
        · exact .of_eq rfl rfl rfl rfl rfl
  · exact .refl s

theorem steady_serveCancelKeep (r : Request) (s : State) : Steady s (serveCancelKeep r s).1 := by
  unfold serveCancelKeep
  split
  · unfold cancelKeepOf
    dsimp only [cond]
    split
    · exact .refl s
    · split
      · exact .refl s
      · exact .of_settled (settled_stopJob _ s _) (tended_stopJob _ s _)
  · exact .refl s

theorem steady_send (f : List Byte) (s : State) : Steady s (sendFrame f s) := by
  unfold sendFrame
  split
  · exact .of_settled (settled_latch _ s) (.of_eq rfl rfl)
  · exact ⟨⟨BitVec.or_self, rfl, rfl⟩, .of_eq rfl, .of_eq rfl rfl rfl⟩

/-! ## Every command -/

/-- The commands that change the clock, a key slot, the Lockdown flag, the state of a ring to Live, the profile, the enable set
or a latched cause by an effect of their own. -/
def ownEffect : Instr → Bool
  | .powerOnReset | .profileLoadEnd _ | .profileLoadTimeout | .lockdown | .setClock | .trimClock | .oscillatorCycle
  | .secondCounted | .minuteTick | .loadKey | .dropKey | .setDeadline | .openRing | .clearAlerts | .maskAlerts => true
  | _ => false

/-- The commands of the grant. -/
def grantEffect : Instr → Bool
  | .grantStart | .grantEnd => true
  | _ => false

/-- What every other command leaves. -/
theorem exec_steady {c : Instr} {s t : State} (h : exec c s = .next t) (hown : ownEffect c = false)
    (hgrant : grantEffect c = false) : Steady s t := by
  cases c <;> injection h with h <;> subst h
  case powerOnReset | profileLoadEnd | profileLoadTimeout | lockdown | setClock | trimClock | oscillatorCycle | secondCounted
      | minuteTick | loadKey | dropKey | setDeadline | openRing | clearAlerts | maskAlerts => cases hown
  case grantStart | grantEnd => cases hgrant
  case resetAsserted => exact .cond _ (.refl s) (steady_lineResetBlocks s).settle
  case linkReset | upstreamLinkLost => exact .cond _ (.refl s) (steady_linkGone _ s).settle
  case upstreamLinkEstablished | downstreamLinkUp | diskReadySignature =>
    refine .cond _ (Steady.settle ?_) (.refl s)
    exact .of_eq rfl rfl rfl rfl rfl
  case downstreamLinkLost => exact .cond _ (.refl s) (steady_loseDisk _ s)
  case diskSelfReset => exact .cond _ (steady_loseDisk _ s) (.refl s)
  case read | write | soleRead | soleWrite | flush | identify | passNoData | unknownCommand =>
    exact steady_arrive _ _ _ _ _ _ s
  case requestForWriteData | diskReadData | downstreamCommandEnd | diskFailure => exact steady_diskFrame _ s
  case keepReadEnd | keepWriteEnd => exact steady_keepEnd _ _ _ _ s
  case systemPortReady => exact steady_step settledBy_systemPortReady tendedBy_systemPortReady s
  case drainRelease k => exact steady_step (settledBy_drainRelease k) (tendedBy_drainRelease k) s
  case pendingDefinitionApplied i => exact steady_step (settledBy_applyPending i) (tendedBy_applyPending i) s
  case keywaitRecheck k => exact steady_step (settledBy_keywaitRecheck k) (tendedBy_keywaitRecheck k) s
  case keywaitTimerExpiry k => exact steady_step (settledBy_keywaitExpired k) (tendedBy_keywaitExpired k) s
  case ringorderRelease k => exact steady_step (settledBy_ringorderRelease k) (tendedBy_ringorderRelease k) s
  case overrunRelease k => exact steady_step (settledBy_overrunRelease k) (tendedBy_overrunRelease k) s
  case overrunTimerExpiry k => exact steady_step (settledBy_overrunExpired k) (tendedBy_overrunExpired k) s
  case tagwaitGrant => exact steady_step settledBy_tagwaitGrant tendedBy_tagwaitGrant s
  case solewaitRelease => exact steady_step settledBy_solewaitRelease tendedBy_solewaitRelease s
  case secondPartIssue k => exact steady_step (settledBy_secondPart k) (tendedBy_secondPart k) s
  case bufferRequestMet => exact steady_step settledBy_requestMet tendedBy_requestMet s
  case keepChunkStart => exact steady_step settledBy_chunkStart tendedBy_chunkStart s
  case hostWriteData => exact .settle_getD fun _ => steady_takeWriteData
  case writeDataRequest => exact .settle_getD fun _ => steady_writeRequest
  case readDataBurst => exact .settle_getD fun _ => steady_readBurst
  case completion => exact .settle_getD fun _ => steady_completion
  case idleGateOpen =>
    refine Steady.settle ?_
    exact .of_eq rfl rfl rfl rfl rfl
  case lowPowerRequest => exact (steady_lowPowerAsked _ s).settle
  case downstreamLowPower => exact (steady_carryLowPower s).settle
  case diskLowPowerAnswer => exact (steady_lowPowerAnswered _ s).settle
  case resetDeasserted | fetch => exact .of_eq rfl rfl rfl rfl rfl
  case diskLowPowerRequest => 
    refine .cond _ ?_ (.refl s)
    exact .of_eq rfl rfl rfl rfl rfl
  case hostWake | diskWake =>
    split
    · refine Steady.settle ?_
      exact .of_eq rfl rfl rfl rfl rfl
    · exact .refl s
  case send => exact steady_send _ s
  case malformedFrame | unknownRequest => exact steady_takeRequest fun _ => .refl s
  case putRegionNow | putRegionBoundary | freeRegionNow | freeRegionBoundary => exact steady_regions s (by simp [regionServers])
  case shapeRing => exact steady_takeRequest fun r => steady_serveShapeRing r s
  case switchRing => exact steady_takeRequest fun r => steady_serveSwitchRing r s
  case closeRing => exact steady_takeRequest fun r => steady_serveCloseRing r s
  case submitKeep => exact steady_takeRequest fun r => steady_serveSubmitKeep r s
  case cancelKeep => exact steady_takeRequest fun r => steady_serveCancelKeep r s
  case readStatusAlerts | readStatusClock | readStatusKeyTable | readStatusRegion | readStatusRing | readStatusKeepQueue
      | readStatusOutcomeList | readStatusMissList | readStatusProfileInUse =>
    exact steady_status s (by simp [statusServers])

/-- What the start and the end of a grant leave. -/
theorem exec_grant_kept {c : Instr} {s t : State} (h : exec c s = .next t) (hgrant : grantEffect c = true) :
    LineKept s t ∧ TablesKept s t := by
  have closed : ∀ u, LineKept s u ∧ TablesKept s u → LineKept s (settle u) ∧ TablesKept s (settle u) := fun u hu =>
    ⟨hu.1.trans (steady_settle u).line, hu.2.trans (steady_settle u).tables⟩
  have here : LineKept s s ∧ TablesKept s s := ⟨.of_eq rfl, .of_eq rfl rfl rfl⟩
  cases c <;> injection h with h <;> subst h
  case grantStart =>
    refine closed _ ?_
    cases hs : grantStart? s with
    | none => exact here
    | some u => exact kept_grantStart hs
  case grantEnd =>
    split
    · exact closed _ (kept_endGrant _ s)
    · exact here
  all_goals cases hgrant

end Sys2Proof.Machine
end

section
/-! SUPPORT. The laws of the tables (R26, R28, R37, R44) over the commands with an effect of their own, and the frames and laws over
every command. -/

namespace Sys2Proof.Machine

/-! ## The laws of the tables -/

/-- The laws of the Key Table, of deadlines, of the Miss List and of Lockdown are kept, and Lockdown stays. -/
structure LawsKept (s t : State) : Prop where
  keyTable : s.KeyTableLaw → t.KeyTableLaw
  deadline : s.DeadlineLaw → t.DeadlineLaw
  missList : s.MissListLaw → t.MissListLaw
  emptied  : s.LockdownLaw → t.LockdownLaw
  flag     : s.keys.lockdown = true → t.keys.lockdown = true

theorem LawsKept.trans {s t u : State} (h : LawsKept s t) (k : LawsKept t u) : LawsKept s u :=
  ⟨fun l => k.keyTable (h.keyTable l), fun l => k.deadline (h.deadline l), fun l => k.missList (h.missList l),
    fun l => k.emptied (h.emptied l), fun l => k.flag (h.flag l)⟩

theorem slot_of_slots {s t : State} (h : t.keys.slots = s.keys.slots) (i : Nat) : t.slot i = s.slot i := by
  unfold State.slot
  rw [h]

theorem keyTableLaw_of_slots {s t : State} (h : t.keys.slots = s.keys.slots) (law : s.KeyTableLaw) : t.KeyTableLaw := by
  intro i hi
  simp only [slot_of_slots h]
  exact law i hi

/-- The law of deadlines speaks of the slots, of the minute and of whether the clock is Set. -/
theorem deadlineLaw_of_eq {s t : State} (h : t.keys.slots = s.keys.slots) (hm : t.clock.minute = s.clock.minute)
    (hc : t.clock.set = s.clock.set) (law : s.DeadlineLaw) : t.DeadlineLaw := by
  intro i hi
  rw [slot_of_slots h, hm, hc]
  exact law i hi

theorem TablesKept.laws {s t : State} (h : TablesKept s t) : LawsKept s t where
  keyTable := keyTableLaw_of_slots h.slots
  deadline := deadlineLaw_of_eq h.slots (by rw [h.clock]) (by rw [h.clock])
  missList := h.missLaw
  emptied := fun law hl => by
    obtain ⟨hslots, hmiss, hrings⟩ := law (h.lockdown ▸ hl)
    exact ⟨fun i hi => by rw [slot_of_slots h.slots]; exact hslots i hi, h.missEmpty (h.lockdown ▸ hl) hmiss,
      fun r hr => h.idle r (hrings r hr)⟩
  flag := fun hl => h.lockdown.trans hl

/-- What the commands with an effect of their own on the tables leave of the line, of the engine and of the laws. -/
structure OwnKept (s t : State) : Prop where
  line   : LineKept s t
  engine : EngineKept s t
  laws   : LawsKept s t

theorem Steady.own {s t : State} (h : Steady s t) : OwnKept s t := ⟨h.line, h.engine, h.tables.laws⟩

theorem OwnKept.refl (s : State) : OwnKept s s := (Steady.refl s).own

theorem OwnKept.trans {s t u : State} (h : OwnKept s t) (k : OwnKept t u) : OwnKept s u :=
  ⟨h.line.trans k.line, h.engine.trans k.engine, h.laws.trans k.laws⟩

theorem OwnKept.cond {s x y : State} (b : Bool) (hx : OwnKept s x) (hy : OwnKept s y) : OwnKept s (bif b then x else y) := by
  cases b <;> assumption

theorem own_takeRequest {row : RequestRow} {serve : Request → State → State × Answer} {s : State}
    (h : ∀ r, OwnKept s (serve r s).1) : OwnKept s (takeRequest row serve s) :=
  takeRequest_keeps (OwnKept s) (.refl s) (fun f a u hu => hu.trans (steady_reply f a u).own) h

theorem own_latch (c : Cause) (s : State) : OwnKept s (latch c s) :=
  (Steady.of_settled (settled_latch c s) (.of_eq rfl rfl)).own

/-! ## The slots' changes -/

/-- The Miss List stays free of ids that have a slot when no new id gets a slot. -/
theorem missListLaw_of_holds {s t : State} (hm : t.keys.missList = s.keys.missList) (hh : ∀ id, t.holds id → s.holds id)
    (law : s.MissListLaw) : t.MissListLaw := by
  obtain ⟨hlen, hnodup, hnone⟩ := law
  refine ⟨hm ▸ hlen, hm ▸ hnodup, ?_⟩
  rw [hm]
  rw [List.all_eq_true] at hnone ⊢
  intro id hid
  have := hnone id hid
  rw [Option.isNone_iff_eq_none, slotOf_eq_none_iff] at this ⊢
  exact fun h => this (hh id h)

theorem keyTableLaw_setSlot {s : State} {i : Nat} {x : Slot} (hzero : x.content.id? ≠ some 0#32)
    (hother : ∀ j < Config.slotCount, j ≠ i → x.content.id? ≠ none → (s.slot j).content.id? ≠ x.content.id?)
    (law : s.KeyTableLaw) : (setSlot i x s).KeyTableLaw := by
  intro k hk
  rw [slot_setSlot]
  split
  · rename_i hki
    refine ⟨hzero, fun j hj hjk => ?_⟩
    rw [slot_setSlot, if_neg (fun h => hjk (h.1.trans hki.1.symm))]
    exact hother j hj (hki.1 ▸ hjk)
  · refine ⟨(law k hk).1, fun j hj hjk hne => ?_⟩
    rw [slot_setSlot]
    split
    · rename_i hki hji
      intro h
      exact hother k hk (fun e => hki ⟨e, hji.2⟩) (h ▸ hne) h.symm
    · exact (law k hk).2 j hj hjk hne

theorem holds_setSlot {s : State} {i : Nat} {x : Slot} {id : ProgId} (h : (setSlot i x s).holds id) :
    s.holds id ∨ x.content.id? = some id := by
  obtain ⟨j, hj, hid⟩ := h
  rw [slot_setSlot] at hid
  split at hid
  · exact .inr hid
  · exact .inl ⟨j, hj, hid⟩

theorem deadlineLaw_setSlot {s : State} {i : Nat} {x : Slot} (hover : x.overdue s.clock.minute = false)
    (hset : s.clock.set = false → x.content.deadline? = none) (law : s.DeadlineLaw) : (setSlot i x s).DeadlineLaw := by
  intro k hk
  rw [slot_setSlot]
  split
  · exact ⟨hover, hset⟩
  · exact law k hk

theorem lockdownLaw_setSlot {s : State} {i : Nat} {x : Slot} (hempty : s.keys.lockdown = true → x.content = .empty)
    (law : s.LockdownLaw) : (setSlot i x s).LockdownLaw := by
  intro hl
  obtain ⟨hslots, hmiss, hrings⟩ := law hl
  refine ⟨fun k hk => ?_, hmiss, hrings⟩
  rw [slot_setSlot]
  split
  · exact hempty hl
  · exact hslots k hk

theorem own_of_laws {s t : State} (hl : t.line = s.line) (he : t.engine = s.engine) (h : LawsKept s t) : OwnKept s t :=
  ⟨.of_eq hl, .of_eq he, h⟩

/-! ## LOAD KEY, DROP KEY, SET DEADLINE -/

theorem overdue_false_of_deadline_none {x : Slot} (h : x.content.deadline? = none) (m : Nat) : x.overdue m = false := by
  unfold Slot.overdue
  split
  · rename_i hx
    rw [hx] at h
    cases h
  · rfl

/-- A deadline that LOAD KEY takes is to come, on a clock that is Set (R29). -/
theorem deadlineFailure_eq_none {s : State} {d : Option Nat} {m : Nat} (h : s.deadlineFailure d = none) (hd : d = some m) :
    s.clock.set = true ∧ s.clock.minute < m := by
  subst hd
  unfold State.deadlineFailure at h
  dsimp only at h
  split at h
  · rename_i hs
    split at h
    · cases h
    · rename_i hm
      exact ⟨hs, Nat.not_le.mp hm⟩
  · cases h

/-- A new key goes to an id that no slot holds, and its deadline is to come. -/
theorem own_loadSlot {s : State} {i : Nat} {id : ProgId} {key : Key} {cls : KeepClass} {d : Option Nat}
    (hlock : s.keys.lockdown = false) (hzero : id ≠ 0#32) (hnew : s.slotOf id = none) (hd : s.deadlineFailure d = none) :
    OwnKept s (setMissList (s.keys.missList.filter (· != id)) (setSlot i ((s.slot i).loaded id key cls d) s)) := by
  have hfree := (slotOf_eq_none_iff s id).mp hnew
  refine own_of_laws rfl rfl ⟨?_, ?_, ?_, fun _ hl => ?_, fun hl => hl⟩
  · refine fun law => keyTableLaw_of_slots (s := setSlot i _ s) rfl (keyTableLaw_setSlot ?_ ?_ law)
    · exact fun h => hzero (Option.some.inj h)
    · exact fun j hj _ _ h => hfree ⟨j, hj, h⟩
  · refine fun law => deadlineLaw_of_eq (s := setSlot i ((s.slot i).loaded id key cls d) s) rfl rfl rfl
      (deadlineLaw_setSlot ?_ (fun hs => ?_) law)
    · cases d with
      | none => rfl
      | some m => exact decide_eq_false (Nat.not_le.mpr (deadlineFailure_eq_none hd rfl).2)
    · cases d with
      | none => rfl
      | some m => exact absurd (hs.symm.trans (deadlineFailure_eq_none hd rfl).1) (by decide)
  · rintro ⟨hlen, hnodup, hnone⟩
    refine ⟨(List.length_filter_le _ _).trans hlen, hnodup.filter _, ?_⟩
    rw [List.all_eq_true] at hnone ⊢
    intro m hm
    obtain ⟨hmem, hne⟩ := List.mem_filter.mp hm
    have hfree := hnone m hmem
    rw [Option.isNone_iff_eq_none, slotOf_eq_none_iff] at hfree ⊢
    intro h
    rcases holds_setSlot (x := (s.slot i).loaded id key cls d) h with h | h
    · exact hfree h
    · exact (bne_iff_ne.mp hne) (Option.some.inj h).symm
  · exact absurd (hlock.symm.trans hl) (by decide)

theorem own_loadKeyInto (id : ProgId) (key : Key) (cls : Byte) (d : Option Nat) (s : State) :
    OwnKept s (loadKeyInto id key cls d s).1 := by
  unfold loadKeyInto
  dsimp only [cond]
  split
  · exact .refl s
  · rename_i hlock
    split
    · exact .refl s
    · rename_i hzero
      split
      · exact .refl s
      · split
        · exact .refl s
        · rename_i hnew
          split
          · exact .refl s
          · split
            · exact .refl s
            · rename_i hd
              exact own_loadSlot hlock hzero (Option.not_isSome_iff_eq_none.mp (by rw [hnew]; decide)) hd

/-- A slot that becomes Empty. -/
theorem own_wipeSlot (i : Nat) (s : State) : OwnKept s (setSlot i (s.slot i).wiped s) := by
  refine own_of_laws rfl rfl ⟨keyTableLaw_setSlot nofun (fun _ _ _ h => absurd rfl h),
    deadlineLaw_setSlot rfl (fun _ => rfl), missListLaw_of_holds rfl fun id h => ?_, lockdownLaw_setSlot fun _ => rfl, fun h => h⟩
  exact (holds_setSlot h).resolve_right nofun

theorem own_dropKeyOf (id : ProgId) (s : State) : OwnKept s (dropKeyOf id s).1 := by
  unfold dropKeyOf
  split
  · exact .refl s
  · split
    · exact .refl s
    · rename_i i x h
      obtain ⟨-, rfl, -⟩ := slotOf_eq_some h
      exact own_wipeSlot i s

/-- A slot that keeps its id, with a deadline that is to come. -/
theorem own_setSlot_sameId {s : State} {i : Nat} {x : Slot} (hid : x.content.id? = (s.slot i).content.id?)
    (hi : i < Config.slotCount) (hover : x.overdue s.clock.minute = false)
    (hset : s.clock.set = false → x.content.deadline? = none) : OwnKept s (setSlot i x s) := by
  refine own_of_laws rfl rfl ⟨fun law => keyTableLaw_setSlot ?_ ?_ law, deadlineLaw_setSlot hover hset,
    missListLaw_of_holds rfl fun id h => ?_, fun law => lockdownLaw_setSlot (fun hl => ?_) law, fun h => h⟩
  · rw [hid]; exact (law i hi).1
  · intro j hj hji hne
    rw [hid] at hne ⊢
    exact (law i hi).2 j hj hji hne
  · exact (holds_setSlot h).elim (fun h => h) fun h => ⟨i, hi, hid ▸ h⟩
  · have := (law hl).1 i hi
    rw [this] at hid
    cases hx : x.content <;> rw [hx] at hid <;> first | rfl | cases hid

theorem withDeadline_content {x : Slot} {id : ProgId} {key : Key} {cls : KeepClass} {e : Option Nat}
    (h : x.content = .live id key cls e) (d : Option Nat) : (x.withDeadline d).content = .live id key cls d := by
  unfold Slot.withDeadline
  rw [h]

theorem own_giveDeadline {s : State} {i : Nat} {id : ProgId} {key : Key} {cls : KeepClass} {e d : Option Nat}
    (hi : i < Config.slotCount) (hx : (s.slot i).content = .live id key cls e) (hd : d.isSome = true → s.clock.set = true) :
    OwnKept s (giveDeadline i (s.slot i) d s).1 := by
  have hlive := withDeadline_content hx d
  have hset : s.clock.set = false → d = none := fun h => by
    cases d with
    | none => rfl
    | some m => exact absurd (h.symm.trans (hd rfl)) (by decide)
  unfold giveDeadline
  dsimp only [cond]
  split
  · have hexp : ((s.slot i).withDeadline d).expire.content = .expired id cls d := by
      unfold Slot.expire
      rw [hlive]
    refine (own_setSlot_sameId ?_ hi ?_ ?_).trans (own_latch .keyExpiry _)
    · rw [hexp, hx]; rfl
    · unfold Slot.overdue; rw [hexp]
    · rw [hexp]; exact hset
  · rename_i hnot
    refine own_setSlot_sameId ?_ hi hnot ?_
    · rw [hlive, hx]; rfl
    · rw [hlive]; exact hset

theorem own_setDeadlineOf (id : ProgId) (d : Option Nat) (s : State) : OwnKept s (setDeadlineOf id d s).1 := by
  unfold setDeadlineOf
  split
  · exact .refl s
  · split
    · exact .refl s
    · rename_i i x h
      obtain ⟨hi, rfl, -⟩ := slotOf_eq_some h
      split
      · rename_i hx
        dsimp only [cond]
        split
        · exact .refl s
        · rename_i hset
          refine own_giveDeadline hi hx fun hd => ?_
          simpa [hd] using hset
      · exact .refl s

/-! ## The clock -/

/-- A change of the clock that keeps the minute and whether it is Set. -/
theorem own_setClock {c : Clock} {s : State} (hm : c.minute = s.clock.minute) (hc : c.set = s.clock.set) :
    OwnKept s (setClock c s) :=
  own_of_laws rfl rfl ⟨keyTableLaw_of_slots rfl, deadlineLaw_of_eq rfl hm hc, missListLaw_congr rfl, fun law => law, fun h => h⟩

/-- While the clock is Unset no slot carries a deadline, so that it may be set to any minute. -/
theorem own_firstSet {c : Clock} {s : State} (hs : s.clock.set = false) : OwnKept s (setClock c s) := by
  refine own_of_laws rfl rfl ⟨keyTableLaw_of_slots rfl, fun law i hi => ?_, missListLaw_congr rfl, fun law => law, fun h => h⟩
  have hnone : ((setClock c s).slot i).content.deadline? = none := (law i hi).2 hs
  exact ⟨overdue_false_of_deadline_none hnone _, fun _ => hnone⟩

/-- A slot after the expiry event of a minute. -/
def Slot.expiredAt (m : Nat) (x : Slot) : Slot := bif x.overdue m then x.expire else x

theorem expiredAt_id? (m : Nat) (x : Slot) : (x.expiredAt m).content.id? = x.content.id? := by
  unfold Slot.expiredAt
  cases x.overdue m
  · rfl
  · exact expire_id? x

theorem expiredAt_overdue (m : Nat) (x : Slot) : (x.expiredAt m).overdue m = false := by
  unfold Slot.expiredAt
  cases h : x.overdue m
  · exact h
  · unfold Slot.overdue at h
    split at h
    · rename_i hx
      simp [Slot.expire, hx, Slot.overdue]
    · cases h

theorem slot_expireSlots (m : Nat) (s : State) {i : Nat} (hi : i < Config.slotCount) :
    (expireSlots m s).slot i = (s.slot i).expiredAt m := by
  have : (expireSlots m s).slot i
      = State.slot { s with keys := { s.keys with slots := mapVector (Slot.expiredAt m) s.keys.slots } } i := by
    unfold expireSlots latchIf
    cases decide (s.overdueCount m ≠ 0) <;> rfl
  have hi' : i < 16 := hi
  rw [this]
  simp only [State.slot, mapVector_eq_map, vector_getD_map_eq, hi', if_true]

theorem holds_expireSlots (m : Nat) (s : State) (id : ProgId) : (expireSlots m s).holds id ↔ s.holds id :=
  exists_congr fun i => and_congr_right fun hi => by rw [slot_expireSlots m s hi, expiredAt_id?]

/-- The blocks that an expiry leaves. -/
theorem expireSlots_blocks (m : Nat) (s : State) : (expireSlots m s).engine = s.engine ∧ (expireSlots m s).rings = s.rings
    ∧ (expireSlots m s).keys.missList = s.keys.missList ∧ (expireSlots m s).keys.lockdown = s.keys.lockdown
    ∧ (expireSlots m s).clock = s.clock := by
  unfold expireSlots latchIf
  cases decide (s.overdueCount m ≠ 0) <;> exact ⟨rfl, rfl, rfl, rfl, rfl⟩

/-- The clock goes to a minute, Set, and what is overdue then expires. -/
theorem own_advance {c : Clock} {s : State} (hc : c.set = true) : OwnKept s (expireSlots c.minute (setClock c s)) := by
  obtain ⟨hengine, hrings, hmiss, hlock, hclock⟩ := expireSlots_blocks c.minute (setClock c s)
  refine ⟨?_, .of_eq hengine, ⟨fun law i hi => ?_, fun law i hi => ?_, ?_, fun law hl => ?_, fun h => hlock.trans h⟩⟩
  · exact LineKept.trans (t := { setClock c s with keys := { s.keys with
        slots := mapVector (fun x => bif x.overdue c.minute then x.expire else x) s.keys.slots } }) (.of_eq rfl)
      (.of_settled (settled_latchIf _ _ _))
  · obtain ⟨hzero, hother⟩ := law i hi
    rw [slot_expireSlots _ _ hi, expiredAt_id?]
    refine ⟨hzero, fun j hj => ?_⟩
    rw [slot_expireSlots _ _ hj, expiredAt_id?]
    exact hother j hj
  · rw [slot_expireSlots _ _ hi, hclock]
    exact ⟨expiredAt_overdue _ _, fun h => absurd (hc.symm.trans h) (by decide)⟩
  · exact missListLaw_of_holds hmiss fun id => (holds_expireSlots _ (setClock c s) id).mp
  · obtain ⟨hslots, hnone, hidle⟩ := law (hlock ▸ hl)
    refine ⟨fun i hi => ?_, hmiss.trans hnone, fun r hr => ring_idle_of_eq (s := s) hrings r (hidle r hr)⟩
    have hempty : ((setClock c s).slot i).content = .empty := hslots i hi
    rw [slot_expireSlots _ _ hi]
    unfold Slot.expiredAt
    simp [Slot.overdue, hempty]

theorem own_countSecond {s : State} (hs : s.clock.set = true) : OwnKept s (countSecond s) := by
  unfold countSecond
  dsimp only
  split
  · exact own_setClock rfl rfl
  · split
    · exact own_advance (c := { s.clock with seconds := 0, minute := s.clock.minute + 1 }) hs
    · exact own_setClock rfl rfl

theorem own_countCycle {s : State} (hs : s.clock.set = true) : OwnKept s (countCycle s) := by
  unfold countCycle
  dsimp only
  refine OwnKept.cond _ ?_ (own_setClock rfl rfl)
  have counted : ∀ c : Clock, c.minute = s.clock.minute → c.set = s.clock.set → OwnKept s (countSecond (setClock c s)) :=
    fun _ hm hc => (own_setClock hm hc).trans (own_countSecond (hc.trans hs))
  exact counted _ rfl rfl

/-- A cycle is counted while the clock is Set. -/
theorem own_cycle {b : Bool} {s : State} (h : b = true → s.clock.set = true) : OwnKept s (bif b then countCycle s else s) := by
  cases b
  · exact .refl s
  · exact own_countCycle (h rfl)

theorem own_setClockTo (m : Nat) (s : State) : OwnKept s (setClockTo m s).1 := by
  unfold setClockTo
  dsimp only [cond]
  split
  · rename_i h
    exact own_firstSet (by simpa using h)
  · split
    · exact .refl s
    · split
      · exact .refl s
      · exact own_advance (c := { s.clock with set := true, minute := m, seconds := 0, accumulator := 0 }) rfl

/-! ## OPEN RING -/

/-- A ring opens outside Lockdown alone (R51). -/
theorem own_openRingAt (r : Nat) (id : ProgId) (s : State) : OwnKept s (openRingAt r id s).1 := by
  unfold openRingAt
  dsimp only [cond]
  repeat' split
  all_goals first | exact .refl s | skip
  rename_i hlock _ _ _ _ _
  exact own_of_laws rfl rfl ⟨keyTableLaw_of_slots rfl, deadlineLaw_of_eq rfl rfl rfl, missListLaw_congr rfl,
    fun _ hl => absurd (hlock.symm.trans hl) (by decide), fun h => h⟩

/-! ## Lockdown -/

/-- What Lockdown leaves of the tables (R43, R55). -/
structure Emptied (s : State) : Prop where
  flag     : s.keys.lockdown = true
  slots    : ∀ i < Config.slotCount, (s.slot i).content = .empty
  missList : s.keys.missList = []
  rings    : ∀ r < Config.ringCount, (s.ring r).live = false

theorem Emptied.laws {s t : State} (h : Emptied t) : LawsKept s t where
  keyTable := fun _ i hi => by rw [h.slots i hi]; exact ⟨nofun, fun _ _ _ hne => absurd rfl hne⟩
  deadline := fun _ i hi => by unfold Slot.overdue; rw [h.slots i hi]; exact ⟨rfl, fun _ => rfl⟩
  missList := fun _ => by rw [State.MissListLaw, h.missList]; exact ⟨by decide, by decide, rfl⟩
  emptied := fun _ _ => ⟨h.slots, h.missList, h.rings⟩
  flag := fun _ => h.flag

theorem Emptied.of_tables {s t : State} (h : Emptied s) (k : TablesKept s t) : Emptied t :=
  ⟨k.lockdown.trans h.flag, fun i hi => by rw [slot_of_slots k.slots]; exact h.slots i hi, k.missEmpty h.flag h.missList,
    fun r hr => k.idle r (h.rings r hr)⟩

/-- The waiting commands that Lockdown refuses. -/
def lockedOut (s : State) : State := s.tracker.keyWait.foldl (fun s k => refuse k .locked s) { s with keys := s.keys.locked }

theorem enterLockdown_eq (s : State) :
    enterLockdown s = latch .lockdown (stopJobs (fun _ => true) (.failed .lockdown) (mapRings Ring.closed (lockedOut s))) := rfl

theorem steady_refuseAll (l : List RecordKey) (why : HostReason) (s : State) : Steady s (l.foldl (fun s k => refuse k why s) s) :=
  .foldl _ (fun u k => .of_settled (settled_refuse k why u) (tended_refuse k why u)) l s

theorem steady_stopJobs_latch (p : Job → Bool) (o : JobOutcome) (c : Cause) (s : State) :
    Steady s (latch c (stopJobs p o s)) :=
  (Steady.of_settled (settled_stopJobs p o s) (tended_stopJobs p o s)).trans (.of_settled (settled_latch c _) (.of_eq rfl rfl))

theorem slot_wiped (s : State) {i : Nat} (hi : i < Config.slotCount) :
    State.slot { s with keys := s.keys.locked } i = (s.slot i).wiped := by
  have hi' : i < 16 := hi
  simp only [State.slot, KeyTable.locked, mapVector_eq_map, vector_getD_map_eq, hi', if_true]

/-- The waiting commands refused and the rings closed, over an emptied Key Table. -/
theorem emptied_closed (s : State) : Emptied (mapRings Ring.closed (lockedOut s)) := by
  have h := (steady_refuseAll s.tracker.keyWait .locked { s with keys := s.keys.locked }).tables
  refine ⟨h.lockdown, fun i hi => ?_, h.missEmpty rfl rfl, fun r hr => ?_⟩
  · refine (congrArg Slot.content (slot_of_slots h.slots i)).trans ?_
    rw [slot_wiped s hi]
    rfl
  · have hr' : r < 4 := hr
    rw [ring_mapRings, if_pos hr', closed_live]

theorem emptied_enterLockdown (s : State) : Emptied (enterLockdown s) :=
  (emptied_closed s).of_tables (steady_stopJobs_latch _ _ _ _).tables

theorem line_enterLockdown (s : State) : LineKept s (enterLockdown s) := by
  have h : LineKept s (lockedOut s) :=
    LineKept.trans (t := { s with keys := s.keys.locked }) (.of_eq rfl) (steady_refuseAll _ _ _).line
  have hclosed : LineKept s (mapRings Ring.closed (lockedOut s)) := h.trans (.of_eq rfl)
  exact hclosed.trans (steady_stopJobs_latch _ _ _ _).line

theorem engine_enterLockdown (s : State) : EngineKept s (enterLockdown s) := by
  have h : EngineKept s (lockedOut s) :=
    EngineKept.trans (t := { s with keys := s.keys.locked }) (.of_eq rfl) (steady_refuseAll _ _ _).engine
  have hclosed : EngineKept s (mapRings Ring.closed (lockedOut s)) := h.trans (.of_eq rfl)
  exact hclosed.trans (steady_stopJobs_latch _ _ _ _).engine

theorem clock_enterLockdown (s : State) : (enterLockdown s).clock = s.clock := by
  have h : (lockedOut s).clock = s.clock := (steady_refuseAll s.tracker.keyWait .locked { s with keys := s.keys.locked }).tables.clock
  exact (steady_stopJobs_latch (fun _ => true) (.failed .lockdown) .lockdown (mapRings Ring.closed (lockedOut s))).tables.clock.trans h

theorem own_enterLockdown (s : State) : OwnKept s (enterLockdown s) :=
  ⟨line_enterLockdown s, engine_enterLockdown s, (emptied_enterLockdown s).laws⟩

theorem own_lockdownFound (s : State) : OwnKept s (lockdownFound s) := by
  refine OwnKept.cond _ ?_ (.cond _ (.refl s) ((own_enterLockdown s).trans (steady_settle _).own))
  exact own_of_laws rfl rfl ⟨keyTableLaw_of_slots rfl, deadlineLaw_of_eq rfl rfl rfl, fun law => law, fun law => law, fun h => h⟩

/-! ## The end of the load -/

theorem endLoad_kept (r : ProfileRead) (s : State) :
    (endLoad r s).line.latched ||| s.line.latched = (endLoad r s).line.latched ∧ EngineKept s (endLoad r s)
      ∧ LawsKept s (endLoad r s) := by
  unfold endLoad
  cases s.line.state == .loading
  · exact ⟨(LineKept.of_eq rfl).latched, .of_eq rfl, (TablesKept.of_eq rfl rfl rfl).laws⟩
  have htake : OwnKept (takeProfile (profileOf r) s) (latchIf ((profileOf r).result != .good) .profileFault (takeProfile (profileOf r) s)) :=
    (Steady.of_settled (settled_latchIf _ _ _) (.cond _ (.of_eq rfl rfl) (.refl _))).own
  have hprofile : LawsKept s (takeProfile (profileOf r) s) :=
    ⟨keyTableLaw_of_slots rfl, deadlineLaw_of_eq rfl rfl rfl, missListLaw_congr rfl, fun law => law, fun h => h⟩
  have h := (htake.trans (.cond s.keys.lockdownSeen (own_enterLockdown _) (.refl _))).trans (steady_settle _).own
  have hseen : (latchIf ((profileOf r).result != .good) .profileFault (takeProfile (profileOf r) s)).keys.lockdownSeen
      = s.keys.lockdownSeen := by
    rw [latchIf_eq]
    rfl
  dsimp only [cond_true]
  rw [hseen]
  exact ⟨h.line.latched, EngineKept.trans (t := takeProfile (profileOf r) s) (.of_eq rfl) h.engine, hprofile.trans h.laws⟩

end Sys2Proof.Machine
end

section
/-! SUPPORT. What every command keeps of the tables, of the latched causes and of the engine, and the settling of O7, O11 and O55. -/

namespace Sys2Proof.Machine

/-! ## Every command -/

/-- The commands that change what is latched, enabled or given by the profile by an effect of their own, and the grant's. -/
def lineEffect : Instr → Bool
  | .powerOnReset | .profileLoadEnd _ | .profileLoadTimeout | .clearAlerts | .maskAlerts | .grantStart | .grantEnd => true
  | _ => false

/-- Every command but those. -/
theorem exec_own {c : Instr} {s t : State} (h : exec c s = .next t) (hc : lineEffect c = false) : OwnKept s t := by
  cases hown : ownEffect c
  · refine (exec_steady h hown ?_).own
    cases c <;> first | rfl | cases hc
  cases c <;> try contradiction
  all_goals
    injection h with h
    subst h
  case lockdown => exact own_lockdownFound s
  case setClock =>
    refine own_takeRequest fun r => ?_
    unfold serveSetClock
    split
    · exact own_setClockTo _ s
    · exact .refl s
  case trimClock =>
    refine own_takeRequest fun r => ?_
    unfold serveTrimClock
    split
    · exact own_setClock rfl rfl
    · exact .refl s
  case oscillatorCycle => exact own_cycle (b := s.clock.set) fun h => h
  case secondCounted =>
    refine own_cycle fun h => ?_
    exact (Bool.and_eq_true_iff.mp h).1
  case minuteTick =>
    refine own_cycle fun h => ?_
    exact (Bool.and_eq_true_iff.mp (Bool.and_eq_true_iff.mp h).1).1
  case loadKey =>
    refine own_takeRequest fun r => ?_
    unfold serveLoadKey
    split
    · exact own_loadKeyInto _ _ _ _ s
    · exact .refl s
  case dropKey =>
    refine own_takeRequest fun r => ?_
    unfold serveDropKey
    split
    · exact own_dropKeyOf _ s
    · exact .refl s
  case setDeadline =>
    refine own_takeRequest fun r => ?_
    unfold serveSetDeadline
    split
    · exact own_setDeadlineOf _ _ s
    · exact .refl s
  case openRing =>
    refine own_takeRequest fun r => ?_
    unfold serveOpenRing
    split
    · exact own_openRingAt _ _ s
    · exact .refl s

/-- All that an alert request touches is the line. -/
theorem serve_alerts_line (r : Request) (s : State) :
    (∃ l, (serveClearAlerts r s).1 = { s with line := l } ∧ l.enabled = s.line.enabled ∧ l.profile = s.line.profile)
      ∧ ∃ l, (serveMaskAlerts r s).1 = { s with line := l } ∧ l.latched = s.line.latched ∧ l.profile = s.line.profile := by
  constructor
  · unfold serveClearAlerts clearAlertsOf
    dsimp only [cond]
    repeat' split
    all_goals first | exact ⟨s.line, rfl, rfl, rfl⟩ | exact ⟨{ s.line with latched := _ }, rfl, rfl, rfl⟩
  · unfold serveMaskAlerts maskAlertsTo
    dsimp only [cond]
    repeat' split
    all_goals first | exact ⟨s.line, rfl, rfl, rfl⟩ | exact ⟨{ s.line with enabled := _ }, rfl, rfl, rfl⟩

/-- CLEAR ALERTS clears latched causes alone. -/
theorem clearAlerts_kept (s : State) :
    (takeRequest .clearAlerts serveClearAlerts s).line.enabled = s.line.enabled
      ∧ (takeRequest .clearAlerts serveClearAlerts s).line.profile = s.line.profile
      ∧ EngineKept s (takeRequest .clearAlerts serveClearAlerts s) ∧ TablesKept s (takeRequest .clearAlerts serveClearAlerts s) := by
  refine takeRequest_keeps (fun t => t.line.enabled = s.line.enabled ∧ t.line.profile = s.line.profile ∧ EngineKept s t
    ∧ TablesKept s t) ⟨rfl, rfl, .of_eq rfl, .of_eq rfl rfl rfl⟩ (fun f a u ⟨he, hp, hengine, htables⟩ => ?_) fun r => ?_
  · have hr := steady_reply f a u
    exact ⟨hr.line.enabled.trans he, hr.line.profile.trans hp, hengine.trans hr.engine, htables.trans hr.tables⟩
  · obtain ⟨⟨l, hl, he, hp⟩, -⟩ := serve_alerts_line r s
    rw [hl]
    exact ⟨he, hp, .of_eq rfl, .of_eq rfl rfl rfl⟩

/-- MASK ALERTS changes the enable set alone. -/
theorem maskAlerts_kept (s : State) :
    (takeRequest .maskAlerts serveMaskAlerts s).line.latched ||| s.line.latched
        = (takeRequest .maskAlerts serveMaskAlerts s).line.latched
      ∧ (takeRequest .maskAlerts serveMaskAlerts s).line.profile = s.line.profile
      ∧ EngineKept s (takeRequest .maskAlerts serveMaskAlerts s) ∧ TablesKept s (takeRequest .maskAlerts serveMaskAlerts s) := by
  refine takeRequest_keeps (fun t => t.line.latched ||| s.line.latched = t.line.latched ∧ t.line.profile = s.line.profile
    ∧ EngineKept s t ∧ TablesKept s t) ⟨BitVec.or_self, rfl, .of_eq rfl, .of_eq rfl rfl rfl⟩
    (fun f a u ⟨hl, hp, hengine, htables⟩ => ?_) fun r => ?_
  · have hr := steady_reply f a u
    refine ⟨?_, hr.line.profile.trans hp, hengine.trans hr.engine, htables.trans hr.tables⟩
    rw [← hr.line.latched, BitVec.or_assoc, hl]
  · obtain ⟨-, l, hl, hlatched, hp⟩ := serve_alerts_line r s
    rw [hl]
    refine ⟨?_, hp, .of_eq rfl, .of_eq rfl rfl rfl⟩
    show l.latched ||| s.line.latched = l.latched
    rw [hlatched, BitVec.or_self]

/-- The laws of the tables over every command. -/
theorem exec_laws {c : Instr} {s t : State} (h : exec c s = .next t) (hc : c ≠ .powerOnReset) : LawsKept s t := by
  cases hline : lineEffect c
  · exact (exec_own h hline).laws
  cases c <;> try contradiction
  case profileLoadEnd | profileLoadTimeout =>
    injection h with h
    subst h
    exact (endLoad_kept _ s).2.2
  case grantStart | grantEnd => exact (exec_grant_kept h rfl).2.laws
  case clearAlerts =>
    injection h with h
    subst h
    exact (clearAlerts_kept s).2.2.2.laws
  case maskAlerts =>
    injection h with h
    subst h
    exact (maskAlerts_kept s).2.2.2.laws

/-- POWER_ON_RESET leaves every slot blank, the Miss List empty and the part out of Lockdown (R172). -/
theorem powerOn_laws (s : State) {t : State} (h : exec .powerOnReset s = .next t) :
    t.KeyTableLaw ∧ t.DeadlineLaw ∧ t.MissListLaw ∧ t.LockdownLaw := by
  injection h with h
  subst h
  have hslot : ∀ i, State.slot { State.reset with wires := s.wires, fresh := s.fresh, pending := s.pending } i = Slot.blank :=
    reset_slot
  refine ⟨fun i _ => ?_, fun i _ => ?_, ⟨Nat.zero_le _, .nil, rfl⟩, fun hl => nomatch hl⟩
  · rw [hslot]
    exact ⟨nofun, fun _ _ _ h => absurd rfl h⟩
  · rw [hslot]
    exact ⟨rfl, fun _ => rfl⟩

/-- Settles O7: each law over every command, and a step is the command at the front of the queue. -/
theorem stepKeepsTableLaws : Obligations.StepKeepsTableLaws := by
  intro s t h
  suffices kept : s.pending.head? = some .powerOnReset ∧ t.KeyTableLaw ∧ t.DeadlineLaw ∧ t.MissListLaw ∧ t.LockdownLaw
      ∨ LawsKept s t by
    rcases kept with ⟨hp, hkeys, hdeadline, hmiss, hlock⟩ | k
    · exact ⟨fun _ => hkeys, fun _ => hdeadline, fun _ => hmiss, fun _ => ⟨hlock, fun hne => absurd hp hne⟩⟩
    · exact ⟨k.keyTable, k.deadline, k.missList, fun law => ⟨k.emptied law, fun _ => k.flag⟩⟩
  unfold step at h
  split at h
  · injection h with h
    subst h
    exact .inr (TablesKept.of_eq rfl rfl rfl).laws
  · rename_i c rest hp
    by_cases hc : c = .powerOnReset
    · subst hc
      exact .inl ⟨by rw [hp]; rfl, powerOn_laws _ h⟩
    · exact .inr ((TablesKept.of_eq (s := s) (t := { s with pending := rest }) rfl rfl rfl).laws.trans (exec_laws h hc))

/-! ## The frames of the latched causes, the profile, the clock and the slots -/

theorem and_eq_of_or_eq {w : Nat} {a b : BitVec w} (h : b ||| a = b) : a &&& b = a := by
  ext i hi
  have hbit : (b ||| a)[i] = b[i] := by rw [h]
  rw [BitVec.getElem_or] at hbit
  rw [BitVec.getElem_and]
  revert hbit
  cases a[i] <;> cases b[i] <;> decide

theorem latched_of_kept {s t : State} (h : t.line.latched ||| s.line.latched = t.line.latched) :
    s.line.latched &&& t.line.latched = s.line.latched := and_eq_of_or_eq h

/-- A latched cause stays but for CLEAR ALERTS and POWER_ON_RESET (R171). -/
theorem exec_latched {c : Instr} {s t : State} (h : exec c s = .next t) (hpor : c ≠ .powerOnReset) (hclear : c ≠ .clearAlerts) :
    t.line.latched ||| s.line.latched = t.line.latched := by
  cases hline : lineEffect c
  · exact (exec_own h hline).line.latched
  cases c <;> try contradiction
  case profileLoadEnd | profileLoadTimeout =>
    injection h with h
    subst h
    exact (endLoad_kept _ s).1
  case grantStart | grantEnd => exact (exec_grant_kept h rfl).1.latched
  case maskAlerts =>
    injection h with h
    subst h
    exact (maskAlerts_kept s).1

/-- The commands that the enable set and the profile may change at, MASK ALERTS aside. -/
def loadEffect : Instr → Bool
  | .powerOnReset | .profileLoadEnd _ | .profileLoadTimeout => true
  | _ => false

theorem exec_enabled_profile {c : Instr} {s t : State} (h : exec c s = .next t) (hload : loadEffect c = false) :
    (c ≠ .maskAlerts → t.line.enabled = s.line.enabled) ∧ t.line.profile = s.line.profile := by
  cases hline : lineEffect c
  · have hk := (exec_own h hline).line
    exact ⟨fun _ => hk.enabled, hk.profile⟩
  cases c <;> try contradiction
  case grantStart | grantEnd =>
    have hk := (exec_grant_kept h rfl).1
    exact ⟨fun _ => hk.enabled, hk.profile⟩
  case clearAlerts =>
    injection h with h
    subst h
    exact ⟨fun _ => (clearAlerts_kept s).1, (clearAlerts_kept s).2.1⟩
  case maskAlerts =>
    injection h with h
    subst h
    exact ⟨fun hne => absurd rfl hne, (maskAlerts_kept s).2.1⟩

/-- What a request serves keeps the clock, or the slots, when its owner does. -/
theorem clock_takeRequest {row : RequestRow} {serve : Request → State → State × Answer} {s : State}
    (h : ∀ r, (serve r s).1.clock = s.clock) : (takeRequest row serve s).clock = s.clock :=
  takeRequest_keeps (fun t => t.clock = s.clock) rfl (fun f a u hu => (steady_reply f a u).tables.clock.trans hu) h

theorem slots_takeRequest {row : RequestRow} {serve : Request → State → State × Answer} {s : State}
    (h : ∀ r, (serve r s).1.keys.slots = s.keys.slots) : (takeRequest row serve s).keys.slots = s.keys.slots :=
  takeRequest_keeps (fun t => t.keys.slots = s.keys.slots) rfl (fun f a u hu => (steady_reply f a u).tables.slots.trans hu) h

/-- The requests of the Key Table keep the clock. -/
theorem keyRequests_clock (r : Request) (s : State) : (serveLoadKey r s).1.clock = s.clock
    ∧ (serveDropKey r s).1.clock = s.clock ∧ (serveSetDeadline r s).1.clock = s.clock := by
  refine ⟨?_, ?_, ?_⟩
  · unfold serveLoadKey loadKeyInto
    dsimp only [cond]
    repeat' split
    all_goals rfl
  · unfold serveDropKey dropKeyOf
    repeat' split
    all_goals rfl
  · unfold serveSetDeadline setDeadlineOf giveDeadline
    dsimp only [cond]
    repeat' split
    all_goals rfl

/-- OPEN RING keeps the clock and the slots. -/
theorem openRing_clock_slots (r : Request) (s : State) :
    (serveOpenRing r s).1.clock = s.clock ∧ (serveOpenRing r s).1.keys.slots = s.keys.slots := by
  unfold serveOpenRing openRingAt
  dsimp only [cond]
  repeat' split
  all_goals exact ⟨rfl, rfl⟩

theorem clock_lockdownFound (s : State) : (lockdownFound s).clock = s.clock := by
  unfold lockdownFound
  dsimp only [cond]
  split
  · rfl
  · split
    · rfl
    · exact (steady_settle _).tables.clock.trans (clock_enterLockdown s)

/-- The commands that change the clock, the load's aside. -/
def clockEffect : Instr → Bool
  | .setClock | .trimClock | .oscillatorCycle | .secondCounted | .minuteTick => true
  | _ => false

theorem exec_clock {c : Instr} {s t : State} (h : exec c s = .next t) (hload : loadEffect c = false)
    (hclock : clockEffect c = false) : t.clock = s.clock := by
  cases hown : ownEffect c
  · cases hgrant : grantEffect c
    · exact (exec_steady h hown hgrant).tables.clock
    · exact (exec_grant_kept h hgrant).2.clock
  cases c <;> try contradiction
  all_goals
    injection h with h
    subst h
  case lockdown => exact clock_lockdownFound s
  case loadKey => exact clock_takeRequest fun r => (keyRequests_clock r s).1
  case dropKey => exact clock_takeRequest fun r => (keyRequests_clock r s).2.1
  case setDeadline => exact clock_takeRequest fun r => (keyRequests_clock r s).2.2
  case openRing => exact clock_takeRequest fun r => (openRing_clock_slots r s).1
  case clearAlerts => exact (clearAlerts_kept s).2.2.2.clock
  case maskAlerts => exact (maskAlerts_kept s).2.2.2.clock

/-- The commands that change a key slot, the load's aside. -/
def slotEffect : Instr → Bool
  | .setClock | .oscillatorCycle | .secondCounted | .minuteTick | .loadKey | .dropKey | .setDeadline | .lockdown => true
  | _ => false

theorem exec_slots {c : Instr} {s t : State} (h : exec c s = .next t) (hload : loadEffect c = false)
    (hslot : slotEffect c = false) : t.keys.slots = s.keys.slots := by
  cases hown : ownEffect c
  · cases hgrant : grantEffect c
    · exact (exec_steady h hown hgrant).tables.slots
    · exact (exec_grant_kept h hgrant).2.slots
  cases c <;> try contradiction
  all_goals
    injection h with h
    subst h
  case trimClock =>
    refine slots_takeRequest fun r => ?_
    unfold serveTrimClock
    split <;> rfl
  case openRing => exact slots_takeRequest fun r => (openRing_clock_slots r s).2
  case clearAlerts => exact (clearAlerts_kept s).2.2.2.slots
  case maskAlerts => exact (maskAlerts_kept s).2.2.2.slots

/-- Settles O11: the frames over every command, with the commands of the exceptions by name. -/
theorem alertClockAndSlotFrames : Obligations.AlertClockAndSlotFrames := by
  intro c s t h hpor
  refine ⟨fun hclear => latched_of_kept (exec_latched h hpor hclear), fun hend htimeout => ?_⟩
  have hload : loadEffect c = false := by
    cases c <;> first | rfl | exact absurd rfl hpor | exact absurd rfl (hend _) | exact absurd rfl htimeout
  obtain ⟨henabled, hprofile⟩ := exec_enabled_profile h hload
  refine ⟨henabled, hprofile, fun hc => exec_clock h hload ?_, fun hc => exec_slots h hload ?_⟩ <;>
    cases c <;> first | rfl | exact absurd (by decide) hc

/-! ## The end of a grant -/

theorem noteLost_engine (b : Buffer) (lost : Option LostReason) (s : State) : (noteLost b lost s).engine = s.engine := by
  unfold noteLost
  split <;> rfl

theorem endGrant_noBuffer {g : Grant} (s : State) (h : g.buffer = none) :
    endGrant g s = { s with engine := { s.engine with grant := none } } := by
  unfold endGrant
  rw [h]

/-- The state as the grant is taken from the engine. -/
def engineFreed (s : State) : State := { s with engine := { s.engine with grant := none } }

theorem endGrant_place {g : Grant} {i : Nat} (s : State) (h : g.buffer = some i) (hf : g.fate = .place) :
    endGrant g s
      = noteLost (s.buffer i) g.lost (mapBuffer i (fun b => { b with state := .done, data := g.result }) (engineFreed s)) := by
  unfold endGrant
  rw [h]
  dsimp only
  rw [hf]
  rfl

theorem endGrant_discard {g : Grant} {i : Nat} (s : State) (h : g.buffer = some i) (hf : g.fate = .discard) :
    endGrant g s = releaseNow i (engineFreed s) := by
  unfold endGrant
  rw [h]
  dsimp only
  rw [hf]
  rfl

theorem endGrant_requeue {g : Grant} {i : Nat} (s : State) (h : g.buffer = some i) (hf : g.fate = .requeue) :
    endGrant g s = joinQueue .keep i (engineFreed s) := by
  unfold endGrant
  rw [h]
  dsimp only
  rw [hf]
  rfl

theorem tracker_releaseNow (i : Nat) (s : State) : (releaseNow i s).tracker = s.tracker := by
  unfold releaseNow
  dsimp only [cond]
  split <;> rfl

theorem buffer_mapBuffer (i : Nat) (f : Buffer → Buffer) (s : State) (j : Nat) :
    (mapBuffer i f s).buffer j = if j = i ∧ i < 64 then f (s.buffer i) else s.buffer j := buffer_setBuffer i _ s j

/-- After the end of a grant the engine is free. -/
theorem grant_endGrant (g : Grant) (s : State) : (endGrant g s).engine.grant = none := by
  cases hb : g.buffer with
  | none => rw [endGrant_noBuffer s hb]
  | some i =>
    cases hf : g.fate with
    | place => rw [endGrant_place s hb hf, noteLost_engine]; rfl
    | discard => rw [endGrant_discard s hb hf, (releaseNow_spec i _).1]; rfl
    | requeue => rw [endGrant_requeue s hb hf]; rfl

/-- The first key-lost field after a key-lost sector below the delivery limit, or of a write (R104). -/
theorem noteLost_eq_of_below {x : Record} {lba : Nat} {why : LostReason}
    (h : x.kind.isWrite = true ∨ x.kind.isRead = true ∧ lba < x.limit) :
    x.noteLost lba why = { x with firstLost := match x.firstLost with
      | some (l, w) => some (if lba < l then (lba, why) else (l, w))
      | none => some (lba, why) } := by
  have hopen : (x.kind.delivers && decide (x.limit ≤ lba)) = false := by
    rcases h with hw | ⟨-, hlt⟩
    · have : x.kind.delivers = false := by cases hk : x.kind <;> rw [hk] at hw <;> first | rfl | cases hw
      rw [this]; rfl
    · rw [decide_eq_false (Nat.not_le.mpr hlt), Bool.and_false]
  unfold Record.noteLost
  rw [hopen]
  cases hx : x.firstLost with
  | none => rfl
  | some p =>
    obtain ⟨l, w⟩ := p
    simp only [cond_false]
    split
    · rfl
    · rw [← hx]

theorem noteLost_eq_of_above {x : Record} {lba : Nat} {why : LostReason} (hr : x.kind.isRead = true) (h : x.limit ≤ lba) :
    x.noteLost lba why = x := by
  have : (x.kind.delivers && decide (x.limit ≤ lba)) = true := by
    rw [decide_eq_true h]
    cases hk : x.kind <;> rw [hk] at hr <;> first | rfl | cases hr
  unfold Record.noteLost
  rw [this]
  rfl

theorem noteLost_key (x : Record) (lba : Nat) (why : LostReason) : (x.noteLost lba why).key = x.key := by
  unfold Record.noteLost
  dsimp only [cond]
  split
  · rfl
  · split
    · split <;> rfl
    · rfl

theorem record?_noteLost {b : Buffer} {k : RecordKey} {x : Record} {why : LostReason} {s : State} (ho : b.owner = .record k)
    (hx : s.record? k = some x) : (noteLost b (some why) s).record? k = some (x.noteLost b.lba why) := by
  unfold noteLost
  rw [ho]
  exact record?_mapRecord_some (f := fun r => r.noteLost b.lba why) (fun r hr => (noteLost_key r _ _).trans hr) hx

theorem freedAs_state {s : State} {b : Buffer} (h : s.freedAs b) : b.state ∈ [BufState.free, .setAside] := by
  rcases h with rfl | ⟨rfl, -⟩ <;> decide

/-- A protected sector is Done after the end of a grant when it was, or is the grant's, with its result (R115). -/
theorem done_endGrant {g : Grant} {s : State} {i : Nat} (hs : ((endGrant g s).buffer i).state = .done)
    (ht : ((endGrant g s).buffer i).treatment = .protect) :
    ((s.buffer i).state = .done ∧ (s.buffer i).treatment = .protect ∧ ((endGrant g s).buffer i).data = (s.buffer i).data)
      ∨ g.buffer = some i ∧ ((endGrant g s).buffer i).data = g.result := by
  have freed : ∀ j, (engineFreed s).buffer j = s.buffer j := fun _ => rfl
  have kept : ∀ u : State, u.buffer i = s.buffer i → (u.buffer i).state = .done → (u.buffer i).treatment = .protect →
      (s.buffer i).state = .done ∧ (s.buffer i).treatment = .protect ∧ (u.buffer i).data = (s.buffer i).data := by
    intro u hu hs ht
    rw [hu] at hs ht ⊢
    exact ⟨hs, ht, rfl⟩
  cases hb : g.buffer with
  | none =>
    refine .inl (kept _ ?_ hs ht)
    rw [endGrant_noBuffer s hb]
    rfl
  | some k =>
    cases hf : g.fate with
    | place =>
      rw [endGrant_place s hb hf] at hs ht ⊢
      have heq : (noteLost (s.buffer k) g.lost (mapBuffer k (fun b => { b with state := .done, data := g.result })
          (engineFreed s))).buffer i
          = if i = k ∧ k < 64 then { s.buffer k with state := .done, data := g.result } else s.buffer i := by
        unfold State.buffer
        rw [noteLost_engine]
        exact buffer_mapBuffer k _ (engineFreed s) i
      by_cases hi : i = k ∧ k < 64
      · rw [if_pos hi] at heq
        rw [heq]
        exact .inr ⟨by rw [hi.1], rfl⟩
      · rw [if_neg hi] at heq
        exact .inl (kept _ heq hs ht)
    | discard =>
      rw [endGrant_discard s hb hf] at hs ht ⊢
      have h := (tended_releaseNow k (engineFreed s)).done i hs ht
      exact .inl h
    | requeue =>
      rw [endGrant_requeue s hb hf] at hs ht ⊢
      have h := (tended_joinQueue .keep k (engineFreed s)).done i hs ht
      exact .inl h

/-- The start of a grant makes no sector Done. -/
theorem done_grantSector (c : Choice) (i : Nat) (s : State) {j : Nat} (hs : ((grantSector c i s).buffer j).state = .done)
    (ht : ((grantSector c i s).buffer j).treatment = .protect) :
    (s.buffer j).state = .done ∧ (s.buffer j).treatment = .protect ∧ ((grantSector c i s).buffer j).data = (s.buffer j).data := by
  suffices h : ∀ u, grantSector c i s = u → (u.buffer j).state = .done → (u.buffer j).treatment = .protect →
      (s.buffer j).state = .done ∧ (s.buffer j).treatment = .protect ∧ (u.buffer j).data = (s.buffer j).data from h _ rfl hs ht
  rintro u h hs ht
  have hpool : ∀ j, (withdrawFromQueues i (countGrant c s)).buffer j = s.buffer j := fun j => by cases c <;> rfl
  have begun : ∀ (x : Sector) (l : Option LostReason), u = beginGrant i x l (withdrawFromQueues i (countGrant c s)) →
      u.buffer j = s.buffer j := fun x l hu => by rw [hu]; exact hpool j
  unfold grantSector at h
  dsimp only at h
  split at h
  · have hj := begun _ _ h.symm
    exact ⟨hj ▸ hs, hj ▸ ht, by rw [hj]⟩
  · have hj := begun _ _ h.symm
    exact ⟨hj ▸ hs, hj ▸ ht, by rw [hj]⟩
  · split at h
    · have hj := begun _ _ h.symm
      exact ⟨hj ▸ hs, hj ▸ ht, by rw [hj]⟩
    · rename_i why _
      subst h
      have hstop := (tended_stopActive (.failed why.failReason) (withdrawFromQueues i (countGrant c s))).done j hs ht
      rwa [hpool] at hstop

theorem done_grantStart {s t : State} (h : grantStart? s = some t) {i : Nat} (hs : (t.buffer i).state = .done)
    (ht : (t.buffer i).treatment = .protect) :
    (s.buffer i).state = .done ∧ (s.buffer i).treatment = .protect ∧ (t.buffer i).data = (s.buffer i).data := by
  unfold grantStart? at h
  split at h
  · split at h <;> cases h
    exact done_grantSector _ _ s hs ht
  · cases h

/-- The engine over every command but those of the grant and POWER_ON_RESET. -/
theorem exec_engine {c : Instr} {s t : State} (h : exec c s = .next t) (hpor : c ≠ .powerOnReset)
    (hgrant : grantEffect c = false) : EngineKept s t := by
  cases hline : lineEffect c
  · exact (exec_own h hline).engine
  cases c <;> try contradiction
  all_goals
    injection h with h
    subst h
  case profileLoadEnd | profileLoadTimeout => exact (endLoad_kept _ s).2.1
  case clearAlerts => exact (clearAlerts_kept s).2.2.1
  case maskAlerts => exact (maskAlerts_kept s).2.2.1

/-- The law of R115 over one command. -/
theorem exec_protected_done {c : Instr} {s t : State} (h : exec c s = .next t) {i : Nat} (hs : (t.buffer i).state = .done)
    (ht : (t.buffer i).treatment = .protect) :
    ((s.buffer i).state = .done ∧ (s.buffer i).treatment = .protect ∧ (t.buffer i).data = (s.buffer i).data)
      ∨ c = .grantEnd ∧ ∃ g, s.engine.grant = some g ∧ g.buffer = some i ∧ (t.buffer i).data = g.result := by
  by_cases hpor : c = .powerOnReset
  · subst hpor
    injection h with h
    subst h
    have hb := reset_buffer i
    have : (State.reset.buffer i).state = .done := hs
    rw [hb] at this
    cases this
  cases hgrant : grantEffect c
  · exact .inl ((exec_engine h hpor hgrant).done i hs ht)
  cases c <;> try contradiction
  all_goals
    injection h with h
    subst h
  case grantStart =>
    obtain ⟨hs', ht', hd⟩ := (steady_settle ((grantStart? s).getD s)).engine.done i hs ht
    refine .inl ?_
    cases hu : grantStart? s with
    | none =>
      rw [hu] at hs' ht' hd
      exact ⟨hs', ht', hd⟩
    | some u =>
      rw [hu] at hs' ht' hd
      obtain ⟨hs'', ht'', hd'⟩ := done_grantStart hu hs' ht'
      exact ⟨hs'', ht'', hd.trans hd'⟩
  case grantEnd =>
    cases hg : s.engine.grant with
    | none =>
      rw [hg] at hs ht
      exact .inl ⟨hs, ht, rfl⟩
    | some g =>
      rw [hg] at hs ht
      obtain ⟨hs', ht', hd⟩ := (steady_settle (endGrant g s)).engine.done i hs ht
      rcases done_endGrant hs' ht' with ⟨hs'', ht'', hd'⟩ | ⟨hb, hd'⟩
      · exact .inl ⟨hs'', ht'', hd.trans hd'⟩
      · exact .inr ⟨rfl, g, rfl, hb, hd.trans hd'⟩

/-- A grant in progress after a command was in progress before it, or began with GRANT_START. -/
theorem exec_grant_began {c : Instr} {s t : State} (h : exec c s = .next t) {g : Grant} (hg : t.engine.grant = some g) :
    c = .grantStart ∨ ∃ b, s.engine.grant = some b ∧ g.result = b.result ∧ (g.buffer = b.buffer ∨ g.buffer = none) := by
  by_cases hpor : c = .powerOnReset
  · subst hpor
    injection h with h
    subst h
    cases hg
  cases hgrant : grantEffect c
  · exact .inr ((exec_engine h hpor hgrant).grant g hg)
  cases c <;> try contradiction
  case grantStart => exact .inl rfl
  case grantEnd =>
    injection h with h
    subst h
    cases hs : s.engine.grant with
    | none => rw [hs] at hg; exact absurd (hs.symm.trans hg) nofun
    | some b =>
      rw [hs] at hg
      obtain ⟨b', hb', -, -⟩ := (steady_settle (endGrant b s)).engine.grant g hg
      rw [grant_endGrant] at hb'
      cases hb'

/-- A sector is protected when the first run that holds it carries a programme id (R115, R118). -/
theorem treatment_eq_protect_iff (x : Record) (lba : Nat) : x.treatment lba = .protect ↔
    ∃ r earlier later, x.runs = earlier ++ r :: later ∧ r.first ≤ lba ∧ lba < r.first + r.count
      ∧ (∀ q ∈ earlier, ¬ (q.first ≤ lba ∧ lba < q.first + q.count)) ∧ (r.kind = .programme ∨ r.kind = .ring) ∧ r.id ≠ none := by
  have carries : ∀ r : Run, r.protectedId.isSome = true ↔ (r.kind = .programme ∨ r.kind = .ring) ∧ r.id ≠ none := by
    intro r
    unfold Run.protectedId
    cases r.kind <;> simp [Option.isSome_iff_ne_none]
  have protect : x.treatment lba = .protect ↔ ∃ r, x.runAt lba = some r ∧ r.protectedId.isSome = true := by
    unfold Record.treatment
    cases x.runAt lba with
    | none => simp
    | some r => cases hr : r.protectedId.isSome <;> simp [hr]
  rw [protect]
  simp only [Record.runAt, List.find?_eq_some_iff_append, carries, Bool.and_eq_true, decide_eq_true_eq, Bool.not_eq_true',
    Bool.and_eq_false_iff, decide_eq_false_iff_not, not_and_or]
  constructor
  · rintro ⟨r, ⟨⟨hlo, hhi⟩, earlier, later, hruns, hnone⟩, hkind, hid⟩
    exact ⟨r, earlier, later, hruns, hlo, hhi, hnone, hkind, hid⟩
  · rintro ⟨r, earlier, later, hruns, hlo, hhi, hnone, hkind, hid⟩
    exact ⟨r, ⟨⟨hlo, hhi⟩, earlier, later, hruns, hnone⟩, hkind, hid⟩

/-- Settles O55: the grant's end by its fate, the law of R115 over every command, and the treatment of a record's sector. -/
theorem grantEnds : Obligations.GrantEnds := by
  refine ⟨fun s g hg => ⟨endGrant g s, ?_, grant_endGrant g s, fun hb => endGrant_noBuffer s hb, fun i hi hb => ⟨fun hf => ?_,
    fun hf => ?_, fun hf => ?_⟩⟩, fun c s t h => ⟨fun i _ hs ht => exec_protected_done h hs ht, fun g hg => exec_grant_began h hg⟩,
    treatment_eq_protect_iff⟩
  · unfold exec execGrantEnd
    rw [hg]
  · rw [endGrant_place s hb hf]
    have hi' : i < 64 := hi
    refine ⟨?_, fun hl => ?_, fun k x why hl ho hx => ?_⟩
    · unfold State.buffer
      rw [noteLost_engine]
      exact (buffer_mapBuffer i _ (engineFreed s) i).trans (if_pos ⟨rfl, hi'⟩)
    · rw [hl]
      unfold noteLost
      split
      · rename_i h
        cases h
      · rfl
    · rw [hl, record?_noteLost (s := mapBuffer i (fun b => { b with state := .done, data := g.result }) (engineFreed s)) ho hx]
      exact ⟨fun hr hle => congrArg some (noteLost_eq_of_above hr hle), fun h => congrArg some (noteLost_eq_of_below h)⟩
  · rw [endGrant_discard s hb hf]
    obtain ⟨-, -, hfreed, ⟨hread, hwrite, hkeep⟩, -⟩ := releaseNow_spec i (engineFreed s)
    exact ⟨freedAs_state (hfreed hi), hread, hwrite, hkeep, tracker_releaseNow i _⟩
  · rw [endGrant_requeue s hb hf]
    exact ⟨rfl, rfl⟩

end Sys2Proof.Machine
end

section
/-! SUPPORT. The frames of the Key Table's requests read back, their refusal tables and their effects; the settling of O22 and O23. -/

namespace Sys2Proof.Machine

/-! ## The frames -/

theorem byteAt_of_prefix {body pre post : List Byte} {b : Byte} {off : Nat} (h : body = pre ++ (b :: post))
    (hoff : pre.length = off) : byteAt body off = b := by
  subst h hoff
  simp [byteAt, List.getD]

/-- A field that holds a bit vector reads back as it. -/
theorem ofNat_fieldAt_of_prefix {w n off : Nat} {body pre post : List Byte} {v : BitVec w}
    (h : body = pre ++ (leBytes n v.toNat ++ post)) (hoff : pre.length = off) (hw : 2 ^ w = 256 ^ n) :
    BitVec.ofNat w (fieldAt body off n) = v := by
  rw [fieldAt_of_prefix h hoff, ← hw, Nat.mod_eq_of_lt v.isLt, BitVec.ofNat_toNat, BitVec.setWidth_eq]

/-- A deadline behind the first bytes of a body reads back, where it fits. -/
theorem deadlineAt_of_prefix {body pre : List Byte} {d : Option Nat} {off : Nat} (h : body = pre ++ deadlineBytes d)
    (hoff : pre.length = off) (hd : d.getD 0 < 2 ^ 32) : deadlineAt body off (off + 1) = d := by
  have hflag : byteAt body off = flagByte d.isSome := byteAt_of_prefix h hoff
  have hfield : fieldAt body (off + 1) 4 = d.getD 0 := by
    rw [fieldAt_of_prefix (pre := pre ++ [flagByte d.isSome]) (n := 4) (v := d.getD 0) (post := [])
      (by rw [h]; simp [deadlineBytes]) (by simp [hoff])]
    omega
  unfold deadlineAt flagAt
  rw [hflag, flagByte_bit, hfield]
  cases d <;> rfl

theorem body_length_loadKey (id : ProgId) (key : Key) (cls : Byte) (d : Option Nat) :
    (Request.loadKey id key cls d).body.length = 42 := by
  simp [Request.body, deadlineBytes]

theorem body_length_setDeadline (id : ProgId) (d : Option Nat) : (Request.setDeadline id d).body.length = 9 := by
  simp [Request.body, deadlineBytes]

theorem decodeFrame_loadKey {id : ProgId} {key : Key} {cls : Byte} {d : Option Nat} (sequence : Byte)
    (h : (Request.loadKey id key cls d).fits = true) :
    decodeFrame ((Request.loadKey id key cls d).frame sequence) = .request (.loadKey id key cls d) := by
  have hlen := body_length_loadKey id key cls d
  have hd : d.getD 0 < 2 ^ 32 := by simpa [Request.fits] using h
  have hbody : (Request.loadKey id key cls d).body = leBytes 4 id.toNat ++ leBytes 16 key.data.toNat ++ leBytes 16 key.tweak.toNat
      ++ [cls] ++ deadlineBytes d := rfl
  have hid : idAt (Request.loadKey id key cls d).body 0 = id :=
    ofNat_fieldAt_of_prefix (pre := [])
      (post := leBytes 16 key.data.toNat ++ leBytes 16 key.tweak.toNat ++ [cls] ++ deadlineBytes d) (by rw [hbody]; simp) rfl rfl
  have hdata : BitVec.ofNat 128 (fieldAt (Request.loadKey id key cls d).body 4 16) = key.data :=
    ofNat_fieldAt_of_prefix (pre := leBytes 4 id.toNat) (post := leBytes 16 key.tweak.toNat ++ [cls] ++ deadlineBytes d)
      (by rw [hbody]; simp) (by simp) (by decide)
  have htweak : BitVec.ofNat 128 (fieldAt (Request.loadKey id key cls d).body 20 16) = key.tweak :=
    ofNat_fieldAt_of_prefix (pre := leBytes 4 id.toNat ++ leBytes 16 key.data.toNat) (post := [cls] ++ deadlineBytes d)
      (by rw [hbody]; simp) (by simp) (by decide)
  have hcls : byteAt (Request.loadKey id key cls d).body 36 = cls :=
    byteAt_of_prefix (pre := leBytes 4 id.toNat ++ leBytes 16 key.data.toNat ++ leBytes 16 key.tweak.toNat)
      (post := deadlineBytes d) (by rw [hbody]; simp) (by simp)
  have hflag : byteAt (Request.loadKey id key cls d).body 37 = flagByte d.isSome :=
    byteAt_of_prefix (pre := leBytes 4 id.toNat ++ leBytes 16 key.data.toNat ++ leBytes 16 key.tweak.toNat ++ [cls])
      (by rw [hbody]; rfl) (by simp)
  have hdl : deadlineAt (Request.loadKey id key cls d).body 37 38 = d :=
    deadlineAt_of_prefix hbody (by simp) hd
  have hfits : bodyFits 3 (Request.loadKey id key cls d).body = true := by
    unfold bodyFits bodyFlagsFit
    rw [hlen, hflag, flagByte_onlyBits]
    rfl
  rw [decodeFrame_frame _ sequence (by rw [hlen]; decide) rfl hfits]
  show Taken.request (.loadKey (idAt _ 0) ⟨BitVec.ofNat 128 (fieldAt _ 4 16), BitVec.ofNat 128 (fieldAt _ 20 16)⟩ (byteAt _ 36)
    (deadlineAt _ 37 38)) = _
  rw [hid, hdata, htweak, hcls, hdl]

theorem decodeFrame_dropKey (id : ProgId) (sequence : Byte) :
    decodeFrame ((Request.dropKey id).frame sequence) = .request (.dropKey id) := by
  have hlen : (Request.dropKey id).body.length = 4 := leBytes_length _ _
  have hid : idAt (Request.dropKey id).body 0 = id :=
    ofNat_fieldAt_of_prefix (pre := []) (post := []) (by simp [Request.body]) rfl rfl
  rw [decodeFrame_frame _ sequence (by rw [hlen]; decide) rfl (by unfold bodyFits; rw [hlen]; rfl)]
  show Taken.request (.dropKey (idAt _ 0)) = _
  rw [hid]

theorem decodeFrame_setDeadline {id : ProgId} {d : Option Nat} (sequence : Byte) (h : (Request.setDeadline id d).fits = true) :
    decodeFrame ((Request.setDeadline id d).frame sequence) = .request (.setDeadline id d) := by
  have hlen := body_length_setDeadline id d
  have hd : d.getD 0 < 2 ^ 32 := by simpa [Request.fits] using h
  have hbody : (Request.setDeadline id d).body = leBytes 4 id.toNat ++ deadlineBytes d := rfl
  have hid : idAt (Request.setDeadline id d).body 0 = id :=
    ofNat_fieldAt_of_prefix (pre := []) (post := deadlineBytes d) (by rw [hbody]; simp) rfl rfl
  have hflag : byteAt (Request.setDeadline id d).body 4 = flagByte d.isSome :=
    byteAt_of_prefix (pre := leBytes 4 id.toNat) (by rw [hbody]; rfl) (by simp)
  have hdl : deadlineAt (Request.setDeadline id d).body 4 5 = d := deadlineAt_of_prefix hbody (by simp) hd
  have hfits : bodyFits 5 (Request.setDeadline id d).body = true := by
    unfold bodyFits bodyFlagsFit
    rw [hlen, hflag, flagByte_onlyBits]
    rfl
  rw [decodeFrame_frame _ sequence (by rw [hlen]; decide) rfl hfits]
  show Taken.request (.setDeadline (idAt _ 0) (deadlineAt _ 4 5)) = _
  rw [hid, hdl]

/-! ## The step of each -/

theorem exec_loadKey {sequence : Byte} {id : ProgId} {key : Key} {cls : Byte} {d : Option Nat} {s : State}
    (h : s.inProgress sequence (.loadKey id key cls d)) :
    exec .loadKey s = .next ((settle (loadKeyInto id key cls d s).1).answered sequence (loadKeyInto id key cls d s).2.status
      (loadKeyInto id key cls d s).2.body) :=
  congrArg Host.Outcome.next (takeRequest_of_inProgress h
    (rowOf_frame (.loadKey id key cls d) sequence (by rw [body_length_loadKey]; decide)) (decodeFrame_loadKey sequence h.2.2)
    serveLoadKey)

theorem exec_dropKey {sequence : Byte} {id : ProgId} {s : State} (h : s.inProgress sequence (.dropKey id)) :
    exec .dropKey s = .next ((settle (dropKeyOf id s).1).answered sequence (dropKeyOf id s).2.status (dropKeyOf id s).2.body) :=
  congrArg Host.Outcome.next (takeRequest_of_inProgress h
    (rowOf_frame (.dropKey id) sequence (by rw [Request.body, leBytes_length]; decide)) (decodeFrame_dropKey id sequence) serveDropKey)

theorem exec_setDeadline {sequence : Byte} {id : ProgId} {d : Option Nat} {s : State}
    (h : s.inProgress sequence (.setDeadline id d)) :
    exec .setDeadline s = .next ((settle (setDeadlineOf id d s).1).answered sequence (setDeadlineOf id d s).2.status
      (setDeadlineOf id d s).2.body) :=
  congrArg Host.Outcome.next (takeRequest_of_inProgress h
    (rowOf_frame (.setDeadline id d) sequence (by rw [body_length_setDeadline]; decide)) (decodeFrame_setDeadline sequence h.2.2)
    serveSetDeadline)

/-! ## LOAD KEY -/

theorem emptySlot_eq_none_iff (s : State) : s.emptySlot = none ↔ ∀ i < Config.slotCount, (s.slot i).content ≠ .empty := by
  simp [State.emptySlot, slots_zipIdx]

theorem emptySlot_of_lowestEmpty {s : State} {i : Nat} (h : s.lowestEmpty i) : s.emptySlot = some i := by
  obtain ⟨hi, hempty, hlow⟩ := h
  cases he : s.emptySlot with
  | none => exact absurd hempty ((emptySlot_eq_none_iff s).mp he i hi)
  | some j =>
    unfold State.emptySlot at he
    obtain ⟨⟨x, m⟩, hf, rfl⟩ := Option.map_eq_some_iff.mp he
    rw [slots_zipIdx] at hf
    obtain ⟨k, -, hy, hp, hfirst⟩ := find?_map_range_eq_some _ _ _ hf
    cases hy
    have hm : (s.slot m).content = .empty := by simpa using hp
    rcases Nat.lt_trichotomy m i with hlt | heq | hgt
    · exact absurd hm (hlow m hlt)
    · rw [heq]
    · have := hfirst i hgt
      simp [hempty] at this

theorem keepClassOf_eq_none_iff (cls : Byte) : keepClassOf cls = none ↔ cls ≠ 0x00#8 ∧ cls ≠ 0x01#8 := by
  unfold keepClassOf
  split
  · rename_i h; simp [h]
  · rename_i h
    split
    · rename_i h'; simp [h']
    · rename_i h'; simp [h, h']

theorem keepClassOf_eq_some {cls : Byte} {c : KeepClass} (h : keepClassOf cls = some c) :
    c = if cls = 0x00#8 then .keepAllowed else .keepNever := by
  unfold keepClassOf at h
  split at h
  · rename_i hc; rw [if_pos hc]; exact (Option.some.inj h).symm
  · rename_i hc
    rw [if_neg hc]
    split at h
    · exact (Option.some.inj h).symm
    · cases h

/-- The end of R29's table. -/
theorem deadlineFailure_eq (s : State) (d : Option Nat) : s.deadlineFailure d = match d with
    | none => none
    | some m => if s.clock.set = false then some .clockUnset else if m ≤ s.clock.minute then some .expired else none := by
  cases d with
  | none => rfl
  | some m => cases h : s.clock.set <;> simp [State.deadlineFailure, h]

/-- A load that R29's table refuses leaves the state. -/
theorem loadKeyInto_refused {s : State} {id : ProgId} {cls : Byte} {d : Option Nat} {why : LineReason} (key : Key)
    (h : s.loadKeyRefusal id cls d = some why) : loadKeyInto id key cls d s = refused why s := by
  unfold State.loadKeyRefusal at h
  unfold loadKeyInto
  split at h
  next hl => cases h; rw [hl]; rfl
  next hl =>
  rw [Bool.eq_false_iff.mpr hl]
  split at h
  next hb =>
    cases h
    by_cases hid : id = 0#32
    · simp only [cond_false, if_pos hid]
    · simp only [cond_false, if_neg hid, (keepClassOf_eq_none_iff cls).mpr (hb.resolve_left hid)]
  next hb =>
  obtain ⟨hid, hc⟩ := not_or.mp hb
  obtain ⟨c, hc⟩ := Option.ne_none_iff_exists'.mp (mt (keepClassOf_eq_none_iff cls).mp hc)
  simp only [cond_false, if_neg hid, hc]
  split at h
  next hd => cases h; rw [(slotOf_isSome_iff s id).mpr hd]; rfl
  next hd =>
  rw [Bool.eq_false_iff.mpr (mt (slotOf_isSome_iff s id).mp hd)]
  split at h
  next hf => cases h; rw [(emptySlot_eq_none_iff s).mpr hf]; rfl
  next hf =>
  obtain ⟨i, hi⟩ := Option.ne_none_iff_exists'.mp (mt (emptySlot_eq_none_iff s).mp hf)
  have hwhy : s.deadlineFailure d = some why := (deadlineFailure_eq s d).trans h
  simp only [cond_false, hi, hwhy]

/-- A load that R29's table lets through goes into the lowest-numbered Empty slot. -/
theorem loadKeyInto_accepted {s : State} {id : ProgId} {cls : Byte} {d : Option Nat} {i : Nat} (key : Key)
    (h : s.loadKeyRefusal id cls d = none) (hi : s.lowestEmpty i) :
    loadKeyInto id key cls d s = done [BitVec.ofNat 8 i, (s.slot i).generation + 1#8]
      { s with keys := { s.keys with
        slots := s.keys.slots.setIfInBounds i
          { content := .live id key (if cls = 0x00#8 then .keepAllowed else .keepNever) d
            generation := (s.slot i).generation + 1#8 }
        missList := s.keys.missList.filter (· ≠ id) } } := by
  unfold State.loadKeyRefusal at h
  split at h
  · cases h
  next hl =>
  split at h
  · cases h
  next hb =>
  obtain ⟨hid, hc⟩ := not_or.mp hb
  obtain ⟨c, hc⟩ := Option.ne_none_iff_exists'.mp (mt (keepClassOf_eq_none_iff cls).mp hc)
  split at h
  · cases h
  next hd =>
  split at h
  · cases h
  have hpass : s.deadlineFailure d = none := (deadlineFailure_eq s d).trans h
  have hfilter : s.keys.missList.filter (· != id) = s.keys.missList.filter (· ≠ id) :=
    List.filter_congr fun x _ => by by_cases hx : x = id <;> simp [hx]
  unfold loadKeyInto
  rw [Bool.eq_false_iff.mpr hl, Bool.eq_false_iff.mpr (mt (slotOf_isSome_iff s id).mp hd)]
  simp only [cond_false, if_neg hid, hc, emptySlot_of_lowestEmpty hi, hpass, hfilter, keepClassOf_eq_some hc]
  rfl

/-- Settles O22. -/
theorem loadKey : Obligations.LoadKey := by
  intro sequence id key cls d s h
  refine ⟨fun why hwhy => ?_, fun i hpass hi => ?_⟩
  · rw [exec_loadKey h, loadKeyInto_refused key hwhy]
    rfl
  · rw [exec_loadKey h, loadKeyInto_accepted key hpass hi]
    rfl

/-! ## DROP KEY and SET DEADLINE -/

theorem dropKeyOf_zero (s : State) : dropKeyOf 0#32 s = refused .badArgument s := if_pos rfl

theorem dropKeyOf_absent {s : State} {id : ProgId} (hid : id ≠ 0#32) (h : ¬ s.holds id) :
    dropKeyOf id s = refused .notFound s := by
  unfold dropKeyOf
  rw [if_neg hid, (slotOf_eq_none_iff s id).mpr h]

theorem dropKeyOf_held {s : State} {id : ProgId} {i : Nat} (law : s.KeyTableLaw) (hid : id ≠ 0#32) (hi : i < Config.slotCount)
    (h : (s.slot i).content.id? = some id) :
    dropKeyOf id s = done [BitVec.ofNat 8 i] (s.withSlot i { content := .empty, generation := (s.slot i).generation }) := by
  unfold dropKeyOf
  rw [if_neg hid, slotOf_eq_of_law law hi h]
  rfl

theorem setDeadlineOf_zero (d : Option Nat) (s : State) : setDeadlineOf 0#32 d s = refused .badArgument s := if_pos rfl

theorem setDeadlineOf_absent {s : State} {id : ProgId} (d : Option Nat) (hid : id ≠ 0#32) (h : ¬ s.holds id) :
    setDeadlineOf id d s = refused .notFound s := by
  unfold setDeadlineOf
  rw [if_neg hid, (slotOf_eq_none_iff s id).mpr h]

theorem setDeadlineOf_expired {s : State} {id : ProgId} {i : Nat} {cls : KeepClass} {e : Option Nat} (d : Option Nat)
    (law : s.KeyTableLaw) (hid : id ≠ 0#32) (hi : i < Config.slotCount) (h : (s.slot i).content = .expired id cls e) :
    setDeadlineOf id d s = refused .expired s := by
  unfold setDeadlineOf
  rw [if_neg hid, slotOf_eq_of_law law hi (by rw [h]; rfl)]
  dsimp only
  rw [h]

/-- SET DEADLINE on a Live slot (R32). -/
theorem setDeadlineOf_live {s : State} {id : ProgId} {i : Nat} {key : Key} {cls : KeepClass} {e : Option Nat} (d : Option Nat)
    (law : s.KeyTableLaw) (hid : id ≠ 0#32) (hi : i < Config.slotCount) (h : (s.slot i).content = .live id key cls e) :
    setDeadlineOf id d s = bif d.isSome && !s.clock.set then refused .clockUnset s else giveDeadline i (s.slot i) d s := by
  unfold setDeadlineOf
  rw [if_neg hid, slotOf_eq_of_law law hi (by rw [h]; rfl)]
  dsimp only
  rw [h]

theorem withDeadline_eq {x : Slot} {id : ProgId} {key : Key} {cls : KeepClass} {e : Option Nat}
    (h : x.content = .live id key cls e) (d : Option Nat) :
    x.withDeadline d = { content := .live id key cls d, generation := x.generation } := by
  unfold Slot.withDeadline
  rw [h]

/-- The deadline is to come, or there is none. -/
theorem giveDeadline_stored {s : State} {i : Nat} {id : ProgId} {key : Key} {cls : KeepClass} {e d : Option Nat}
    (h : (s.slot i).content = .live id key cls e) (hd : ∀ v, d = some v → s.clock.minute < v) :
    giveDeadline i (s.slot i) d s
      = done [0x01#8] (s.withSlot i { content := .live id key cls d, generation := (s.slot i).generation }) := by
  have hover : ((s.slot i).withDeadline d).overdue s.clock.minute = false := by
    rw [withDeadline_eq h]
    cases d with
    | none => rfl
    | some v => exact decide_eq_false (Nat.not_le.mpr (hd v rfl))
  unfold giveDeadline
  dsimp only
  rw [hover, withDeadline_eq h]
  rfl

/-- The deadline is at or before the current minute. -/
theorem giveDeadline_expired {s : State} {i : Nat} {id : ProgId} {key : Key} {cls : KeepClass} {e : Option Nat} {v : Nat}
    (h : (s.slot i).content = .live id key cls e) (hv : v ≤ s.clock.minute) :
    giveDeadline i (s.slot i) (some v) s = done [0x02#8]
      ((s.withSlot i { content := .expired id cls (some v), generation := (s.slot i).generation }).withLatched 0x02#8) := by
  have hover : ((s.slot i).withDeadline (some v)).overdue s.clock.minute = true := by
    rw [withDeadline_eq h]
    exact decide_eq_true hv
  unfold giveDeadline
  dsimp only
  rw [hover, withDeadline_eq h]
  rfl

/-- Settles O23. -/
theorem dropKeyAndSetDeadline : Obligations.DropKeyAndSetDeadline := by
  refine ⟨fun sequence id s law h => ⟨?_, ?_, ?_⟩, fun sequence id d s law h => ⟨?_, ?_, ?_, ?_⟩⟩
  · rintro rfl
    rw [exec_dropKey h, dropKeyOf_zero]
    rfl
  · intro hid hnone
    rw [exec_dropKey h, dropKeyOf_absent hid hnone]
    rfl
  · intro i hi hid hheld
    rw [exec_dropKey h, dropKeyOf_held law hid hi hheld]
    rfl
  · rintro rfl
    rw [exec_setDeadline h, setDeadlineOf_zero]
    rfl
  · intro hid hnone
    rw [exec_setDeadline h, setDeadlineOf_absent d hid hnone]
    rfl
  · intro i hi hid cls e hx
    rw [exec_setDeadline h, setDeadlineOf_expired d law hid hi hx]
    rfl
  · intro i hi hid key cls e hx
    rw [exec_setDeadline h, setDeadlineOf_live d law hid hi hx]
    refine ⟨fun hd hset => ?_, fun hd => ?_, fun v hd hset hv => ?_⟩
    · rw [Option.isSome_iff_ne_none.mpr hd, hset]
      rfl
    · have hopen : (d.isSome && !s.clock.set) = false := by
        rcases hd with rfl | ⟨hset, -⟩
        · rfl
        · rw [hset]; exact Bool.and_false _
      have hcome : ∀ v, d = some v → s.clock.minute < v := by
        rintro v rfl
        rcases hd with hd | ⟨-, w, hw, hlt⟩
        · cases hd
        · cases hw; exact hlt
      rw [hopen, cond_false, giveDeadline_stored hx hcome]
      rfl
    · subst hd
      rw [hset, Bool.not_true, Bool.and_false, cond_false, giveDeadline_expired hx hv]
      rfl

end Sys2Proof.Machine
end

section
/-! SUPPORT. The records of READ STATUS byte by byte (section 10.3); the settling of O18. -/

namespace Sys2Proof.Machine

/-! ## A block of bytes within a body -/

theorem bytesAt_of_prefix {body pre b post : List Byte} {off n : Nat} (h : body = pre ++ (b ++ post)) (hoff : pre.length = off)
    (hn : b.length = n) : bytesAt body off n = b := by
  subst h hoff hn
  rw [bytesAt, List.drop_left, List.take_left]

theorem bytesAt_block {body pre b post : List Byte} {off c n : Nat} (h : body = pre ++ (b ++ post)) (hoff : pre.length = off)
    (hc : c + n ≤ b.length) : bytesAt body (off + c) n = bytesAt b c n := by
  subst h hoff
  unfold bytesAt
  rw [← List.drop_drop, List.drop_left, List.drop_append_of_le_length (by omega), List.take_append_of_le_length]
  rw [List.length_drop]
  omega

theorem fieldAt_block {body pre b post : List Byte} {off c n : Nat} (h : body = pre ++ (b ++ post)) (hoff : pre.length = off)
    (hc : c + n ≤ b.length) : fieldAt body (off + c) n = fieldAt b c n := congrArg leNat (bytesAt_block h hoff hc)

theorem byteAt_block {body pre b post : List Byte} {off c : Nat} (h : body = pre ++ (b ++ post)) (hoff : pre.length = off)
    (hc : c < b.length) : byteAt body (off + c) = byteAt b c := by
  subst h hoff
  simp [byteAt, List.getD, List.getElem?_append_right, List.getElem?_append_left hc]

/-- Blocks of one length in a row: each stands behind those before it. -/
theorem flatMap_block {α : Type} {f : α → List Byte} {k : Nat} {l : List α} (hf : ∀ x ∈ l, (f x).length = k) {m : Nat} {x : α}
    (h : l[m]? = some x) : ∃ pre post, l.flatMap f = pre ++ (f x ++ post) ∧ pre.length = k * m := by
  induction l generalizing m with
  | nil => cases h
  | cons a l ih =>
    cases m with
    | zero =>
      cases h
      exact ⟨[], l.flatMap f, rfl, rfl⟩
    | succ m =>
      obtain ⟨pre, post, hl, hpre⟩ := ih (fun y hy => hf y (List.mem_cons_of_mem a hy)) h
      refine ⟨f a ++ pre, post, by rw [List.flatMap_cons, hl, List.append_assoc], ?_⟩
      rw [List.length_append, hf a List.mem_cons_self, hpre, Nat.mul_succ, Nat.add_comm]

theorem length_flatMap_block {α : Type} {f : α → List Byte} {k : Nat} {l : List α} (hf : ∀ x ∈ l, (f x).length = k) :
    (l.flatMap f).length = k * l.length := by
  induction l with
  | nil => rfl
  | cons a l ih =>
    rw [List.flatMap_cons, List.length_append, hf a List.mem_cons_self, ih fun y hy => hf y (List.mem_cons_of_mem a hy),
      List.length_cons, Nat.mul_succ, Nat.add_comm]

theorem length_zeroBytes (n : Nat) : (zeroBytes n).length = n := List.length_replicate

theorem length_padTo {n : Nat} {b : List Byte} (h : b.length ≤ n) : (padTo n b).length = n := by
  rw [padTo, List.length_append, length_zeroBytes]
  omega

theorem countByte_toNat (n : Nat) : (countByte n).toNat = n % 256 := BitVec.toNat_ofNat n 8

theorem countByte_of_le {n : Nat} (h : n ≤ 4) : (countByte n).toNat = n := by
  rw [countByte_toNat]
  omega

theorem id_mod (id : ProgId) : id.toNat % 2 ^ 32 = id.toNat := Nat.mod_eq_of_lt id.isLt

theorem flagByte_eq {p : Prop} [Decidable p] (b : Bool) (h : b = true ↔ p) : flagByte b = if p then 0x01#8 else 0x00#8 := by
  cases b
  · rw [if_neg (fun hp => absurd (h.mpr hp) (by decide))]; rfl
  · rw [if_pos (h.mp rfl)]; rfl

/-! ## The request -/

/-- READ STATUS where no internal step is due: the report of what its row serves (R169). -/
theorem readStatus_answered {sequence : Byte} {sel index : Nat} {s : State} (row : RequestRow)
    (serve : Request → State → State × Answer) (quiet : internalStep s = none)
    (h : s.inProgress sequence (.readStatus sel index)) (hrow : statusRow sel = row)
    {body : List Byte} (hserve : serve (.readStatus sel index) s = done body s) :
    takeRequest row serve s = s.answered sequence .finished body := by
  have hfits : sel < 256 ∧ index < 256 := by simpa [Request.fits] using h.2.2
  have hsel : (BitVec.ofNat 8 sel).toNat = sel := by rw [BitVec.toNat_ofNat]; omega
  have hindex : (BitVec.ofNat 8 index).toNat = index := by rw [BitVec.toNat_ofNat]; omega
  have hdec : decodeFrame ((Request.readStatus sel index).frame sequence) = .request (.readStatus sel index) := by
    rw [decodeFrame_frame (.readStatus sel index) sequence (show 2 ≤ 48 by decide) rfl rfl]
    show Taken.request (.readStatus (BitVec.ofNat 8 sel).toNat (BitVec.ofNat 8 index).toNat) = _
    rw [hsel, hindex]
  have hrowOf : rowOf ((Request.readStatus sel index).frame sequence) = row := by
    rw [rowOf_frame (.readStatus sel index) sequence (show 2 ≤ 48 by decide)]
    show statusRow (BitVec.ofNat 8 sel).toNat = row
    rw [hsel, hrow]
  rw [takeRequest_of_inProgress h hrowOf hdec serve, hserve]
  show (settle s).answered sequence .finished body = _
  rw [settle_of_quiet s quiet]

/-! ## The key table -/

theorem length_slotReport (x : Slot) : x.report.length = 12 := by
  unfold Slot.report
  split <;> simp

theorem deadlineAt_record {body : List Byte} {flag off : Nat} {d : Option Nat} (hflag : byteAt body flag = flagByte d.isSome)
    (hfield : fieldAt body off 4 = d.getD 0 % 2 ^ 32) : DeadlineAt body flag off d := by
  refine ⟨?_, fun v hv => by rw [hfield, hv]; rfl⟩
  rw [hflag]
  cases d <;> rfl

theorem classCode_eq (cls : KeepClass) : cls.code = if cls = .keepAllowed then 0x00#8 else 0x01#8 := by cases cls <;> rfl

/-- The record of a slot that holds an id. -/
def keyRecord (state : Byte) (cls : KeepClass) (generation : Byte) (d : Option Nat) (id : ProgId) : List Byte :=
  [state, cls.code, generation, (deadlineRecord d).1] ++ leBytes 4 id.toNat ++ leBytes 4 (deadlineRecord d).2

theorem fieldAt_keyRecord (state : Byte) (cls : KeepClass) (generation : Byte) (d : Option Nat) (id : ProgId) :
    fieldAt (keyRecord state cls generation d id) 4 4 = id.toNat
      ∧ fieldAt (keyRecord state cls generation d id) 8 4 = d.getD 0 % 2 ^ 32 := by
  constructor
  · rw [← id_mod id]
    exact leNat_leBytes 4 id.toNat
  · exact leNat_leBytes 4 (d.getD 0)

/-- A slot's record within a report (section 10.3). -/
theorem slotAt_report {body pre post : List Byte} {off : Nat} {x : Slot} (h : body = pre ++ (x.report ++ post))
    (hoff : pre.length = off) : SlotAt body off x := by
  have hlen := length_slotReport x
  have hb : ∀ c, c < 12 → byteAt body (off + c) = byteAt x.report c := fun c hc => byteAt_block h hoff (by omega)
  have hf : ∀ c, c + 4 ≤ 12 → fieldAt body (off + c) 4 = fieldAt x.report c 4 := fun c hc => fieldAt_block h hoff (by omega)
  have held : ∀ state cls d id, x.report = keyRecord state cls x.generation d id →
      byteAt body off = state ∧ byteAt body (off + 1) = (if cls = .keepAllowed then 0x00#8 else 0x01#8)
        ∧ fieldAt body (off + 4) 4 = id.toNat ∧ DeadlineAt body (off + 3) (off + 8) d := by
    intro state cls d id hr
    obtain ⟨hid, hd⟩ := fieldAt_keyRecord state cls x.generation d id
    refine ⟨(hb 0 (by decide)).trans (by rw [hr]; rfl), ?_, (hf 4 (by decide)).trans (by rw [hr, hid]), deadlineAt_record ?_ ?_⟩
    · rw [hb 1 (by decide), hr, ← classCode_eq]; rfl
    · rw [hb 3 (by decide), hr]; rfl
    · rw [hf 8 (by decide), hr, hd]
  unfold SlotAt
  cases hx : x.content with
  | empty =>
    have hr : x.report = [0x00#8, 0x00#8, x.generation, 0x00#8] ++ leBytes 4 0 ++ leBytes 4 0 := by
      unfold Slot.report
      rw [hx]
    exact ⟨(hb 2 (by decide)).trans (by rw [hr]; rfl), (hb 0 (by decide)).trans (by rw [hr]; rfl),
      (hb 1 (by decide)).trans (by rw [hr]; rfl), (hb 3 (by decide)).trans (by rw [hr]; rfl)⟩
  | live id key cls d =>
    have hr : x.report = keyRecord 0x01#8 cls x.generation d id := by
      unfold Slot.report
      rw [hx]
      rfl
    exact ⟨(hb 2 (by decide)).trans (by rw [hr]; rfl), held _ _ _ _ hr⟩
  | expired id cls d =>
    have hr : x.report = keyRecord 0x02#8 cls x.generation d id := by
      unfold Slot.report
      rw [hx]
      rfl
    exact ⟨(hb 2 (by decide)).trans (by rw [hr]; rfl), held _ _ _ _ hr⟩

theorem keyTableReport_eq (s : State) : s.keyTableReport = (List.range 16).flatMap fun i => (s.slot i).report := by
  rw [State.keyTableReport, slots_toList, List.flatMap_map]

theorem slotAt_keyTableReport (s : State) {i : Nat} (hi : i < Config.slotCount) : SlotAt s.keyTableReport (12 * i) (s.slot i) := by
  obtain ⟨pre, post, hl, hpre⟩ := flatMap_block (f := fun i => (s.slot i).report) (l := List.range 16) (k := 12)
    (fun j _ => length_slotReport _) (m := i) (List.getElem?_range hi)
  rw [← keyTableReport_eq] at hl
  exact slotAt_report hl hpre

/-- The report does not depend on a key (R26). -/
theorem keyTableReport_withSlot {s : State} {i : Nat} {x : Slot} (h : x.report = (s.slot i).report) :
    (s.withSlot i x).keyTableReport = s.keyTableReport := by
  rw [keyTableReport_eq, keyTableReport_eq]
  refine congrArg (fun f => List.flatMap f (List.range 16)) (funext fun j => ?_)
  show ((setSlot i x s).slot j).report = _
  rw [slot_setSlot]
  split
  · rename_i hj
    rw [h, hj.1]
  · rfl

/-! ## Regions -/

/-- A definition's bytes within a report (section 10.2). -/
theorem definitionAt_bytes {body pre post : List Byte} {off : Nat} {o : Option Definition}
    (h : body = pre ++ (definitionBytes o ++ post)) (hoff : pre.length = off) : DefinitionAt body off o := by
  cases o with
  | none => exact bytesAt_of_prefix (b := zeroBytes 24) h hoff (length_zeroBytes 24)
  | some d =>
    have hlen : d.raw.encode.length = 24 := by simp [RawDefinition.encode]
    have hb : ∀ c, c < 24 → byteAt body (off + c) = byteAt d.raw.encode c := fun c hc => byteAt_block h hoff (by omega)
    have hf : ∀ c n, c + n ≤ 24 → fieldAt body (off + c) n = fieldAt d.raw.encode c n := fun c n hc =>
      fieldAt_block h hoff (by omega)
    have hbase : fieldAt d.raw.encode 4 8 = d.raw.base % 2 ^ 64 := leNat_leBytes 8 d.raw.base
    have htarget : fieldAt d.raw.encode 12 8 = d.raw.target % 2 ^ 64 := leNat_leBytes 8 d.raw.target
    have hid : fieldAt d.raw.encode 20 4 = d.raw.id.toNat := by
      rw [← id_mod d.raw.id]
      exact leNat_leBytes 4 d.raw.id.toNat
    obtain ⟨f0, f1, f2⟩ := definitionFlags_bits d.raw.readBar d.raw.writeBar d.raw.hasTarget
    have hraw : d.raw.order = d.order ∧ d.raw.readBar = d.readBar ∧ d.raw.writeBar = d.writeBar ∧ d.raw.base = d.base := by
      unfold Definition.raw
      cases d.kind <;> exact ⟨rfl, rfl, rfl, rfl⟩
    obtain ⟨horder, hread, hwrite, hbase'⟩ := hraw
    have hkind : byteAt body off = d.raw.kind := hb 0 (by decide)
    have hflag2 : flagAt body (off + 2) 2 = d.raw.hasTarget := by rw [flagAt, hb 2 (by decide)]; exact f2
    refine ⟨?_, ?_, ?_, ?_, ?_⟩
    · rw [hb 1 (by decide), ← horder]; exact BitVec.toNat_ofNat _ _
    · rw [flagAt, hb 2 (by decide), ← hread]; exact f0
    · rw [flagAt, hb 2 (by decide), ← hwrite]; exact f1
    · rw [hf 4 8 (by decide), hbase, hbase']
    · have hfield : fieldAt body (off + 12) 8 = d.raw.target % 2 ^ 64 := (hf 12 8 (by decide)).trans htarget
      have hidAt : fieldAt body (off + 20) 4 = d.raw.id.toNat := (hf 20 4 (by decide)).trans hid
      have hring : (byteAt body (off + 3)).toNat = d.raw.ring % 256 := by rw [hb 3 (by decide)]; exact BitVec.toNat_ofNat _ _
      cases hd : d.kind <;> simp only [Definition.raw, hd] at hkind hflag2 hfield hidAt hring
      · exact ⟨hkind, hflag2, fun x hx => by rw [hfield, hx]; rfl⟩
      · exact ⟨hkind, hflag2, fun x hx => by rw [hfield, hx]; rfl, hidAt⟩
      · exact ⟨hkind, hring⟩
      · exact hkind
      · exact hkind

theorem length_definitionBytes (o : Option Definition) : (definitionBytes o).length = 24 := by
  cases o with
  | none => exact length_zeroBytes 24
  | some d => simp [definitionBytes, RawDefinition.encode]

theorem regionAt_report (e : RegionEntry) : RegionAt e.report e := by
  have hlen : e.report.length = 52 := by simp [RegionEntry.report, length_definitionBytes]
  have hactive : DefinitionAt e.report 4 e.active := definitionAt_bytes
    (pre := [flagByte e.active.isSome, (pendingBytes e.staged).1, countByte e.inFlight, 0x00#8])
    (post := definitionBytes (pendingBytes e.staged).2) (by simp [RegionEntry.report]) rfl
  have hstaged : DefinitionAt e.report 28 (pendingBytes e.staged).2 := definitionAt_bytes
    (pre := [flagByte e.active.isSome, (pendingBytes e.staged).1, countByte e.inFlight, 0x00#8] ++ definitionBytes e.active)
    (post := []) (by simp [RegionEntry.report]) (by simp [length_definitionBytes])
  have hpending : byteAt e.report 1 = (pendingBytes e.staged).1 := rfl
  refine ⟨hlen, ?_, countByte_toNat e.inFlight, rfl, hactive, ?_⟩
  · show flagByte e.active.isSome = _
    cases e.active <;> rfl
  · cases he : e.staged with
    | none => rw [he] at hstaged hpending; exact ⟨hpending, hstaged⟩
    | some x =>
      cases x <;> rw [he] at hstaged hpending <;> exact ⟨hpending, hstaged⟩

/-! ## Rings -/

/-- A ring has at most 4 epochs (R47). -/
theorem epochs_length_of_law {r : Ring} (h : r.Law) : r.epochs.length ≤ 4 := by
  obtain ⟨hlive, hidle⟩ := h
  cases hl : r.live with
  | true => exact (hlive hl).1
  | false => rw [hidle hl]; decide

/-- The first 64 bytes of a ring report. -/
def State.ringHead (s : State) (r : Ring) : List Byte :=
  [flagByte r.live, countByte r.epochs.length, countByte r.accesses.length, countByte (s.overrunWrites r),
    countByte r.users] ++ zeroBytes 3 ++ leBytes 8 r.base ++ leBytes 8 r.span ++ leBytes 8 r.trail ++ leBytes 8 r.claim
    ++ leBytes 8 r.head ++ leBytes 8 r.floor ++ leBytes 8 r.lower

theorem ringReport_eq (s : State) (r : Ring) : s.ringReport r = [] ++ (s.ringHead r ++ padTo 48 (epochBytes r.epochs)) := rfl

theorem length_ringHead (s : State) (r : Ring) : (s.ringHead r).length = 64 := by
  simp [State.ringHead, length_zeroBytes]

theorem length_epochBytes (es : List Epoch) : (epochBytes es).length = 12 * es.length :=
  length_flatMap_block fun e _ => by simp

/-- The seven offsets of a ring report. -/
theorem fieldAt_ringHead (s : State) (r : Ring) :
    [8, 16, 24, 32, 40, 48, 56].map (fieldAt (s.ringHead r) · 8)
      = [r.base, r.span, r.trail, r.claim, r.head, r.floor, r.lower].map (· % 2 ^ 64) := by
  have h0 : fieldAt (s.ringHead r) 8 8 = r.base % 2 ^ 64 := leNat_leBytes 8 r.base
  have h1 : fieldAt (s.ringHead r) 16 8 = r.span % 2 ^ 64 := leNat_leBytes 8 r.span
  have h2 : fieldAt (s.ringHead r) 24 8 = r.trail % 2 ^ 64 := leNat_leBytes 8 r.trail
  have h3 : fieldAt (s.ringHead r) 32 8 = r.claim % 2 ^ 64 := leNat_leBytes 8 r.claim
  have h4 : fieldAt (s.ringHead r) 40 8 = r.head % 2 ^ 64 := leNat_leBytes 8 r.head
  have h5 : fieldAt (s.ringHead r) 48 8 = r.floor % 2 ^ 64 := leNat_leBytes 8 r.floor
  have h6 : fieldAt (s.ringHead r) 56 8 = r.lower % 2 ^ 64 := leNat_leBytes 8 r.lower
  simp only [List.map_cons, List.map_nil, h0, h1, h2, h3, h4, h5, h6]

theorem lower_eq (r : Ring) : r.lower = if r.live = true then max r.floor (r.head - r.trail) else 0 := by
  unfold Ring.lower
  cases r.live <;> rfl

theorem overrunWrites_eq (s : State) (r : Ring) :
    s.overrunWrites r = (r.accesses.filter fun a => a.write && decide (a.record ∈ s.tracker.overrun)).length := by
  rw [State.overrunWrites, List.countP_eq_length_filter]
  refine congrArg List.length (List.filter_congr fun a _ => ?_)
  rw [List.contains_eq_mem]

/-- The epochs of a ring in their places. -/
theorem epochAt_record {body pre tail : List Byte} {off : Nat} {es : List Epoch} (h : body = pre ++ (epochBytes es ++ tail))
    (hoff : pre.length = off) {m : Nat} {e : Epoch} (he : es[m]? = some e) :
    fieldAt body (off + 12 * m) 8 = e.start % 2 ^ 64 ∧ fieldAt body (off + 12 * m + 8) 4 = e.id.toNat := by
  obtain ⟨p, post, hl, hp⟩ := flatMap_block (f := fun e : Epoch => leBytes 8 e.start ++ leBytes 4 e.id.toNat) (k := 12)
    (fun e _ => by simp) he
  have hl' : epochBytes es = p ++ (leBytes 8 e.start ++ leBytes 4 e.id.toNat ++ post) := hl
  have hlen : (pre ++ p).length = off + 12 * m := by rw [List.length_append, hoff, hp]
  refine ⟨fieldAt_of_prefix (pre := pre ++ p) (post := leBytes 4 e.id.toNat ++ (post ++ tail))
    (by rw [h, hl']; simp only [List.append_assoc]) hlen, ?_⟩
  rw [← id_mod e.id]
  exact fieldAt_of_prefix (pre := pre ++ p ++ leBytes 8 e.start) (post := post ++ tail)
    (by rw [h, hl']; simp only [List.append_assoc]) (by rw [List.length_append, hlen, leBytes_length])

/-- Epochs in their places, and zeros in the places that are left. -/
theorem epochsAt_ringReport (s : State) (r : Ring) (hlen : r.epochs.length ≤ 4) (m : Nat) (hm : m < 4) :
    (∀ e : Epoch, r.epochs[m]? = some e → fieldAt (s.ringReport r) (64 + 12 * m) 8 = e.start % 2 ^ 64
        ∧ fieldAt (s.ringReport r) (72 + 12 * m) 4 = e.id.toNat)
      ∧ (r.epochs[m]? = none → bytesAt (s.ringReport r) (64 + 12 * m) 12 = List.replicate 12 0#8) := by
  have hhead := length_ringHead s r
  constructor
  · intro e he
    have h := epochAt_record (pre := s.ringHead r) (tail := zeroBytes (48 - (epochBytes r.epochs).length)) (ringReport_eq s r) hhead he
    rwa [show 64 + 12 * m + 8 = 72 + 12 * m by omega] at h
  · intro he
    have hle : r.epochs.length ≤ m := List.getElem?_eq_none_iff.mp he
    have hzero : zeroBytes (48 - (epochBytes r.epochs).length)
        = zeroBytes (12 * (m - r.epochs.length)) ++ (zeroBytes 12 ++ zeroBytes (12 * (3 - m))) := by
      unfold zeroBytes
      rw [List.replicate_append_replicate, List.replicate_append_replicate, length_epochBytes]
      congr 1
      omega
    refine bytesAt_of_prefix (pre := s.ringHead r ++ epochBytes r.epochs ++ zeroBytes (12 * (m - r.epochs.length)))
      (b := zeroBytes 12) (post := zeroBytes (12 * (3 - m))) ?_ ?_ (length_zeroBytes 12)
    · rw [ringReport_eq, padTo, hzero]
      simp only [List.nil_append, List.append_assoc]
    · rw [List.length_append, List.length_append, hhead, length_epochBytes, length_zeroBytes]
      omega

theorem ringAt_report (s : State) (r : Ring) (hlen : r.epochs.length ≤ 4) :
    RingAt (s.ringReport r) (r.accesses.filter fun a => a.write && decide (a.record ∈ s.tracker.overrun)).length r := by
  have hhead := length_ringHead s r
  have heq := ringReport_eq s r
  have hb : ∀ c, c < 64 → byteAt (s.ringReport r) (0 + c) = byteAt (s.ringHead r) c := fun c hc =>
    byteAt_block heq rfl (by omega)
  have hfields : [8, 16, 24, 32, 40, 48, 56].map (fieldAt (s.ringReport r) · 8)
      = [8, 16, 24, 32, 40, 48, 56].map (fieldAt (s.ringHead r) · 8) := by
    refine List.map_congr_left fun c hc => ?_
    have hc' : c + 8 ≤ 64 := by
      simp only [List.mem_cons, List.not_mem_nil, or_false] at hc
      omega
    have := fieldAt_block (c := c) (n := 8) heq rfl (by omega)
    rwa [List.length_nil, Nat.zero_add] at this
  refine ⟨?_, ?_, (congrArg BitVec.toNat (hb 1 (by decide))).trans (countByte_toNat _),
    (congrArg BitVec.toNat (hb 2 (by decide))).trans (countByte_toNat _), ?_,
    (congrArg BitVec.toNat (hb 4 (by decide))).trans (countByte_toNat _),
    bytesAt_block (off := 0) (c := 5) heq rfl (by omega), ?_, epochsAt_ringReport s r hlen⟩
  · rw [heq, List.nil_append, List.length_append, hhead, length_padTo (by rw [length_epochBytes]; omega)]
  · exact (hb 0 (by decide)).trans (flagByte_eq _ Iff.rfl)
  · rw [← overrunWrites_eq]
    exact (congrArg BitVec.toNat (hb 3 (by decide))).trans (countByte_toNat _)
  · rw [hfields, fieldAt_ringHead, lower_eq]

/-! ## Keep jobs -/

/-- The first 32 bytes of a keep job record. -/
def State.jobHead (s : State) (active : Bool) (j : Job) : List Byte :=
  [countByte j.id, flagByte active, countByte j.ring, j.policy.code, j.phase.code, countByte j.segments.length,
    countByte j.extents.length, s.jobMarks j] ++ leBytes 8 j.start ++ leBytes 4 (j.upto - j.start)
    ++ leBytes 4 (j.cursor - j.start) ++ leBytes 4 j.skipped ++ leBytes 4 j.destination.toNat

theorem jobRecord_eq (s : State) (active : Bool) (j : Job) :
    s.jobRecord active j = s.jobHead active j ++ (padTo 32 j.segmentBytes ++ padTo 48 j.extentRecord) :=
  List.append_assoc (s.jobHead active j) (padTo 32 j.segmentBytes) (padTo 48 j.extentRecord)

theorem length_jobHead (s : State) (active : Bool) (j : Job) : (s.jobHead active j).length = 32 := by
  simp [State.jobHead]

theorem length_segmentBytes (j : Job) : j.segmentBytes.length = 8 * j.segments.length :=
  length_flatMap_block fun e _ => by simp

theorem length_extentRecord (j : Job) : j.extentRecord.length = 12 * j.extents.length :=
  length_flatMap_block fun e _ => by simp

theorem length_jobRecord (s : State) (active : Bool) {j : Job} (hs : j.segments.length ≤ 4) (he : j.extents.length ≤ 4) :
    (s.jobRecord active j).length = 112 := by
  rw [jobRecord_eq, List.length_append, List.length_append, length_jobHead, length_padTo (by rw [length_segmentBytes]; omega),
    length_padTo (by rw [length_extentRecord]; omega)]

theorem jobBlocks_iff (s : State) (j : Job) : s.jobBlocks j = true ↔ ∃ k ∈ s.tracker.overrun, s.heldByJob k j := by
  simp only [State.jobBlocks, List.any_eq_true, blocks_iff]

theorem stopCode_lt (o : Option JobOutcome) : stopCode o < 16 := by
  rcases o with - | o
  · decide
  · cases o with
    | failed r => cases r <;> decide
    | _ => decide

/-- A marks byte: two flags and a code. -/
theorem marks_bits (a b : Bool) {code : Nat} (h : code < 16) :
    (countByte (a.toNat + 2 * b.toNat + 16 * code)).getLsbD 0 = a
      ∧ (countByte (a.toNat + 2 * b.toNat + 16 * code)).getLsbD 1 = b
      ∧ (countByte (a.toNat + 2 * b.toNat + 16 * code)).toNat / 16 = code := by
  interval_cases code <;> cases a <;> cases b <;> decide

theorem stopCode_of {o : Option JobOutcome} {code : Nat} (h : StopCode o code) : stopCode o = code := by
  cases h with
  | none | truncated | cancelled => rfl
  | failed m r h =>
    have hm : m < 7 := (List.getElem?_eq_some_iff.mp h).1
    interval_cases m <;> cases h <;> rfl

theorem errorPolicyCode_eq (p : ErrorPolicy) : p.code = if p = .halt then 0x00#8 else 0x01#8 := by cases p <;> rfl

/-- The segments of a job in their places. -/
theorem segmentAt_record {body pre tail : List Byte} {off : Nat} {j : Job} (h : body = pre ++ (j.segmentBytes ++ tail))
    (hoff : pre.length = off) {m : Nat} {e : Epoch} (he : j.segments[m]? = some e) :
    fieldAt body (off + 8 * m) 4 = (e.start - j.start) % 2 ^ 32 ∧ fieldAt body (off + 8 * m + 4) 4 = e.id.toNat := by
  obtain ⟨p, post, hl, hp⟩ := flatMap_block (f := fun e : Epoch => leBytes 4 (e.start - j.start) ++ leBytes 4 e.id.toNat) (k := 8)
    (fun e _ => by simp) he
  have hl' : j.segmentBytes = p ++ (leBytes 4 (e.start - j.start) ++ leBytes 4 e.id.toNat ++ post) := hl
  have hlen : (pre ++ p).length = off + 8 * m := by rw [List.length_append, hoff, hp]
  refine ⟨fieldAt_of_prefix (pre := pre ++ p) (post := leBytes 4 e.id.toNat ++ (post ++ tail))
    (by rw [h, hl']; simp only [List.append_assoc]) hlen, ?_⟩
  rw [← id_mod e.id]
  exact fieldAt_of_prefix (pre := pre ++ p ++ leBytes 4 (e.start - j.start)) (post := post ++ tail)
    (by rw [h, hl']; simp only [List.append_assoc]) (by rw [List.length_append, hlen, leBytes_length])

/-- The extents of a job in their places. -/
theorem extentAt_record {body pre tail : List Byte} {off : Nat} {j : Job} (h : body = pre ++ (j.extentRecord ++ tail))
    (hoff : pre.length = off) {m : Nat} {e : Extent} (he : j.extents[m]? = some e) :
    fieldAt body (off + 12 * m) 8 = e.host % 2 ^ 64 ∧ fieldAt body (off + 12 * m + 8) 4 = e.count % 2 ^ 32 := by
  obtain ⟨p, post, hl, hp⟩ := flatMap_block (f := fun e : Extent => leBytes 8 e.host ++ leBytes 4 e.count) (k := 12)
    (fun e _ => by simp) he
  have hl' : j.extentRecord = p ++ (leBytes 8 e.host ++ leBytes 4 e.count ++ post) := hl
  have hlen : (pre ++ p).length = off + 12 * m := by rw [List.length_append, hoff, hp]
  exact ⟨fieldAt_of_prefix (pre := pre ++ p) (post := leBytes 4 e.count ++ (post ++ tail))
      (by rw [h, hl']; simp only [List.append_assoc]) hlen,
    fieldAt_of_prefix (pre := pre ++ p ++ leBytes 8 e.host) (post := post ++ tail)
      (by rw [h, hl']; simp only [List.append_assoc]) (by rw [List.length_append, hlen, leBytes_length])⟩

/-- The numbers of a keep job record's first part. -/
theorem fieldAt_jobHead (s : State) (active : Bool) (j : Job) :
    fieldAt (s.jobHead active j) 8 8 = j.start % 2 ^ 64 ∧ fieldAt (s.jobHead active j) 16 4 = (j.upto - j.start) % 2 ^ 32
      ∧ fieldAt (s.jobHead active j) 20 4 = (j.cursor - j.start) % 2 ^ 32
      ∧ fieldAt (s.jobHead active j) 24 4 = j.skipped % 2 ^ 32 ∧ fieldAt (s.jobHead active j) 28 4 = j.destination.toNat := by
  refine ⟨leNat_leBytes 8 j.start, leNat_leBytes 4 (j.upto - j.start), leNat_leBytes 4 (j.cursor - j.start),
    leNat_leBytes 4 j.skipped, ?_⟩
  rw [← id_mod j.destination]
  exact leNat_leBytes 4 j.destination.toNat

/-- A keep job record within a report (section 10.3). -/
theorem jobAt_record {s : State} {active : Bool} {body pre post : List Byte} {off : Nat} {j : Job}
    (h : body = pre ++ (s.jobRecord active j ++ post)) (hoff : pre.length = off) (hs : j.segments.length ≤ 4)
    (he : j.extents.length ≤ 4) : JobAt body off active (∃ k ∈ s.tracker.overrun, s.heldByJob k j) j := by
  have hhead := length_jobHead s active j
  have hbody : body = pre ++ (s.jobHead active j ++ (padTo 32 j.segmentBytes ++ (padTo 48 j.extentRecord ++ post))) := by
    rw [h, jobRecord_eq]
    simp only [List.append_assoc]
  have hb : ∀ c, c < 32 → byteAt body (off + c) = byteAt (s.jobHead active j) c := fun c hc => byteAt_block hbody hoff (by omega)
  have hf : ∀ c n, c + n ≤ 32 → fieldAt body (off + c) n = fieldAt (s.jobHead active j) c n := fun c n hc =>
    fieldAt_block hbody hoff (by omega)
  obtain ⟨hstart, hupto, hcursor, hskipped, hdest⟩ := fieldAt_jobHead s active j
  have hmarks : byteAt body (off + 7) = countByte (j.stopOutcome.isSome.toNat + 2 * (s.jobBlocks j).toNat + 16 * stopCode j.stopOutcome) :=
    hb 7 (by decide)
  obtain ⟨m0, m1, m2⟩ := marks_bits j.stopOutcome.isSome (s.jobBlocks j) (stopCode_lt j.stopOutcome)
  have hpre : (pre ++ s.jobHead active j).length = off + 32 := by rw [List.length_append, hoff, hhead]
  refine ⟨(congrArg BitVec.toNat (hb 0 (by decide))).trans (countByte_toNat _), ?_,
    (congrArg BitVec.toNat (hb 2 (by decide))).trans (countByte_toNat _), (hb 3 (by decide)).trans (errorPolicyCode_eq _), ?_,
    (congrArg BitVec.toNat (hb 5 (by decide))).trans (countByte_of_le hs),
    (congrArg BitVec.toNat (hb 6 (by decide))).trans (countByte_of_le he), ?_, ?_, fun code hc => ?_,
    (hf 8 8 (by decide)).trans hstart, (hf 16 4 (by decide)).trans hupto, (hf 20 4 (by decide)).trans hcursor,
    (hf 24 4 (by decide)).trans hskipped, (hf 28 4 (by decide)).trans hdest, fun m e hm => ?_, fun m e hm => ?_⟩
  · exact (hb 1 (by decide)).trans (flagByte_eq _ Iff.rfl)
  · rw [hb 4 (by decide)]
    show [Phase.idle, .reading, .transforming, .writing][j.phase.code.toNat]? = some j.phase
    cases j.phase <;> rfl
  · rw [flagAt, hmarks, m0, Option.isSome_iff_ne_none]
  · rw [flagAt, hmarks, m1, jobBlocks_iff]
  · rw [hmarks, m2, stopCode_of hc]
  · have := segmentAt_record (body := body) (pre := pre ++ s.jobHead active j)
      (tail := zeroBytes (32 - j.segmentBytes.length) ++ (padTo 48 j.extentRecord ++ post))
      (by rw [hbody]; simp only [padTo, List.append_assoc]) hpre hm
    rwa [show off + 32 + 8 * m + 4 = off + 36 + 8 * m by omega] at this
  · have := extentAt_record (body := body) (pre := pre ++ s.jobHead active j ++ padTo 32 j.segmentBytes) (off := off + 64)
      (tail := zeroBytes (48 - j.extentRecord.length) ++ post) (by rw [hbody]; simp only [padTo, List.append_assoc])
      (by rw [List.length_append, hpre, length_padTo (by rw [length_segmentBytes]; omega)]) hm
    rwa [show off + 64 + 12 * m + 8 = off + 72 + 12 * m by omega] at this

/-- A keep job's record stands at its place in the report, the head of the queue marked Active. -/
theorem keepQueueReport_block {s : State} (hq : ∀ j ∈ s.keep.queue, j.segments.length ≤ 4 ∧ j.extents.length ≤ 4) {m : Nat} {j : Job}
    (h : s.keep.queue[m]? = some j) :
    ∃ pre post, s.keepQueueReport = pre ++ (s.jobRecord (m == 0) j ++ post) ∧ pre.length = 1 + 112 * m := by
  unfold State.keepQueueReport
  cases hl : s.keep.queue with
  | nil => rw [hl] at h; cases h
  | cons a rest =>
    rw [hl] at h hq
    have hlen : ∀ b, ∀ x ∈ a :: rest, (s.jobRecord b x).length = 112 := fun b x hx =>
      length_jobRecord s b (hq x hx).1 (hq x hx).2
    cases m with
    | zero =>
      cases h
      exact ⟨[countByte (rest.length + 1)], rest.flatMap (s.jobRecord false), rfl, rfl⟩
    | succ m =>
      obtain ⟨pre, post, hr, hp⟩ := flatMap_block (f := s.jobRecord false) (k := 112)
        (fun x hx => hlen false x (List.mem_cons_of_mem a hx)) h
      refine ⟨countByte (rest.length + 1) :: (s.jobRecord true a ++ pre), post, ?_, ?_⟩
      · dsimp only
        rw [hr]
        simp only [List.cons_append, List.append_assoc]
        rfl
      · rw [List.length_cons, List.length_append, hlen true a List.mem_cons_self, hp]
        omega

theorem length_keepQueueReport {s : State} (hq : ∀ j ∈ s.keep.queue, j.segments.length ≤ 4 ∧ j.extents.length ≤ 4) :
    s.keepQueueReport.length = 1 + 112 * s.keep.queue.length ∧ byteAt s.keepQueueReport 0 = countByte s.keep.queue.length := by
  unfold State.keepQueueReport
  cases hl : s.keep.queue with
  | nil => exact ⟨rfl, rfl⟩
  | cons a rest =>
    rw [hl] at hq
    have hlen : ∀ b, ∀ x ∈ a :: rest, (s.jobRecord b x).length = 112 := fun b x hx =>
      length_jobRecord s b (hq x hx).1 (hq x hx).2
    refine ⟨?_, rfl⟩
    dsimp only
    rw [List.length_cons, List.length_append, hlen true a List.mem_cons_self,
      length_flatMap_block fun x hx => hlen false x (List.mem_cons_of_mem a hx), List.length_cons]
    omega

/-! ## Outcomes and the profile -/

theorem length_outcomeEntryReport (e : OutcomeEntry) : e.report.length = 16 := by simp [OutcomeEntry.report]

/-- An entry of the Outcome List within a report (section 10.3). -/
theorem outcomeAt_report {body pre post : List Byte} {off : Nat} {e : OutcomeEntry} (h : body = pre ++ (e.report ++ post))
    (hoff : pre.length = off) : OutcomeAt body off e := by
  have hlen := length_outcomeEntryReport e
  have hb : ∀ c, c < 16 → byteAt body (off + c) = byteAt e.report c := fun c hc => byteAt_block h hoff (by omega)
  have hf : ∀ c n, c + n ≤ 16 → fieldAt body (off + c) n = fieldAt e.report c n := fun c n hc => fieldAt_block h hoff (by omega)
  have hcursor : fieldAt e.report 4 8 = e.cursor % 2 ^ 64 := leNat_leBytes 8 e.cursor
  have hskipped : fieldAt e.report 12 4 = e.skipped % 2 ^ 32 := leNat_leBytes 4 e.skipped
  have hcode : byteAt body (off + 2) = e.outcome.code := hb 2 (by decide)
  have hreason : byteAt body (off + 3) = countByte e.outcome.reasonCode := hb 3 (by decide)
  refine ⟨(congrArg BitVec.toNat (hb 0 (by decide))).trans (countByte_toNat _),
    (congrArg BitVec.toNat (hb 1 (by decide))).trans (countByte_toNat _), (hf 4 8 (by decide)).trans hcursor,
    (hf 12 4 (by decide)).trans hskipped, ?_⟩
  rw [hcode, hreason]
  cases e.outcome with
  | finished | truncated | cancelled => exact ⟨rfl, rfl⟩
  | failed r => cases r <;> exact ⟨rfl, rfl, by decide⟩

theorem keepWait_codes (ms : Nat) : (ms ∈ [50, 200, 800, 3200] → [50, 200, 800, 3200][(keyWaitCode ms).toNat]? = some ms)
    ∧ (ms ∈ [100, 400, 1600, 6400] → [100, 400, 1600, 6400][(overrunCode ms).toNat]? = some ms) := by
  constructor <;> intro h <;> simp only [List.mem_cons, List.not_mem_nil, or_false] at h <;> rcases h with rfl | rfl | rfl | rfl <;>
    rfl

theorem profileAt_report (p : Profile) : ProfileAt p.report p := by
  have hincrement : fieldAt p.report 7 2 = p.increment % 2 ^ 16 := leNat_leBytes 2 p.increment
  have hmarks : fieldAt p.report 10 2 = p.marks.toNat := by
    rw [← Nat.mod_eq_of_lt p.marks.isLt]
    exact leNat_leBytes 2 p.marks.toNat
  obtain ⟨hkey, hover⟩ := keepWait_codes p.keyWaitMs
  refine ⟨rfl, countByte_toNat _, ?_, ?_, countByte_toNat _, hkey, (keepWait_codes p.overrunMs).2, countByte_toNat _, hincrement,
    rfl, hmarks, ?_⟩
  · show p.unmapped.code = _
    cases p.unmapped <;> rfl
  · show p.arbiter.code = _
    cases p.arbiter <;> rfl
  · show p.result.code = _
    cases p.result <;> rfl

/-- Settles O18: each report in the layout of its record. -/
theorem statusRecordLayouts : Obligations.StatusRecordLayouts := by
  intro sequence index s quiet
  refine ⟨fun h => ⟨s.keyTableReport, ?_, ?_, fun i hi => slotAt_keyTableReport s hi, ?_⟩,
    fun h hi => ⟨(s.entry index).report, ?_, regionAt_report _⟩,
    fun h hi law => ⟨s.ringReport (s.ring index), ?_, ringAt_report s _ (epochs_length_of_law (law index hi).1)⟩,
    fun h hq => ⟨s.keepQueueReport, ?_, (length_keepQueueReport hq).1, ?_, fun m j hm => ?_⟩,
    fun h => ⟨s.outcomeReport, ?_, ?_, countByte_toNat _, fun m e hm => ?_⟩,
    fun h => ⟨s.line.profile.report, ?_, profileAt_report _⟩⟩
  · exact congrArg Host.Outcome.next (readStatus_answered _ _ quiet h rfl rfl)
  · rw [keyTableReport_eq, length_flatMap_block fun i _ => length_slotReport _, List.length_range]
  · rintro i id key other cls d t hx rfl hquiet
    have hreport : ({ content := .live id other cls d, generation := (s.slot i).generation } : Slot).report = (s.slot i).report := by
      unfold Slot.report
      rw [hx]
    refine congrArg Host.Outcome.next (readStatus_answered (s := s.withSlot i _) _ _ hquiet h rfl ?_)
    rw [← keyTableReport_withSlot hreport]
    rfl
  · exact congrArg Host.Outcome.next (readStatus_answered _ _ quiet h rfl (if_pos hi))
  · exact congrArg Host.Outcome.next (readStatus_answered _ _ quiet h rfl (if_pos hi))
  · exact congrArg Host.Outcome.next (readStatus_answered _ _ quiet h rfl rfl)
  · rw [(length_keepQueueReport hq).2, countByte_toNat]
  · obtain ⟨pre, post, hr, hp⟩ := keepQueueReport_block hq hm
    obtain ⟨hs, he⟩ := hq j (List.mem_of_getElem? hm)
    exact jobAt_record hr hp hs he
  · exact congrArg Host.Outcome.next (readStatus_answered _ _ quiet h rfl rfl)
  · rw [State.outcomeReport, List.length_cons, length_flatMap_block fun e _ => length_outcomeEntryReport e, Nat.add_comm]
  · obtain ⟨pre, post, hr, hp⟩ := flatMap_block (f := OutcomeEntry.report) (fun e _ => length_outcomeEntryReport e) hm
    refine outcomeAt_report (pre := countByte s.keep.outcomes.length :: pre) (post := post) ?_ ?_
    · rw [State.outcomeReport, hr]
      rfl
    · rw [List.length_cons, hp, Nat.add_comm]
  · exact congrArg Host.Outcome.next (readStatus_answered _ _ quiet h rfl rfl)

end Sys2Proof.Machine
end

section
/-! SUPPORT. The stop of the keep jobs (R147, R149, R151). -/

namespace Sys2Proof.Machine

/-! ## Withdrawing the buffer request (R140) -/

/-- A buffer that is released while no buffer request stands is Free. -/
theorem buffer_releaseNow_of_none {s : State} (hr : s.keep.request = none) (i : Nat) {j : Nat} (hj : j < Config.bufferCount) :
    (releaseNow i s).buffer j = if j = i then Buffer.empty else s.buffer j := by
  obtain ⟨-, hother, hfreed, -⟩ := releaseNow_spec i s
  split
  · rename_i h
    subst h
    rcases hfreed hj with h | ⟨-, h⟩
    · exact h
    · exact absurd hr h
  · rename_i h
    exact hother j h

theorem buffer_releaseList_of_none (l : List Nat) {s : State} (hr : s.keep.request = none) {j : Nat}
    (hj : j < Config.bufferCount) :
    (l.foldl (fun s i => releaseNow i s) s).buffer j = if j ∈ l then Buffer.empty else s.buffer j := by
  induction l generalizing s with
  | nil => rfl
  | cons i l ih =>
    have hr' : (releaseNow i s).keep.request = none := (engineOnly_releaseNow i s).request.trans hr
    rw [List.foldl_cons, ih hr', buffer_releaseNow_of_none hr i hj]
    by_cases hl : j ∈ l
    · rw [if_pos hl, if_pos (List.mem_cons_of_mem i hl)]
    · by_cases hji : j = i
      · rw [if_neg hl, if_pos hji, if_pos (hji ▸ List.mem_cons_self)]
      · rw [if_neg hl, if_neg hji, if_neg (fun h => (List.mem_cons.mp h).elim hji hl)]

/-- The buffers of a withdrawn request are Free (R140). -/
theorem buffer_withdrawRequest {s : State} (hr : s.keep.request ≠ none) {i : Nat} (hi : i < Config.bufferCount)
    (ho : (s.buffer i).owner = .keep) : ((withdrawRequest s).buffer i).state = .free := by
  obtain ⟨q, hq⟩ := Option.ne_none_iff_exists'.mp hr
  have hmem : i ∈ s.buffersWhere fun b => b.owner == .keep := mem_buffersWhere.mpr ⟨hi, beq_iff_eq.mpr ho⟩
  unfold withdrawRequest
  rw [hq]
  have h := buffer_releaseList_of_none (s.buffersWhere fun b => b.owner == .keep)
    (s := { s with keep := { s.keep with request := none } }) rfl hi
  rw [if_pos hmem] at h
  exact congrArg Buffer.state h

theorem withdrawRequest_of_none {s : State} (hr : s.keep.request = none) : withdrawRequest s = s := by
  unfold withdrawRequest
  rw [hr]

/-! ## The stop of the Active job (R147) -/

/-- The Active job ends at once when it is stopped (R147). -/
def stopsHead (s : State) (a : Job) : Prop := s.keep.chunk = none ∨ a.phase = .transforming ∧ a.stopOutcome = none

/-- What a stop of the Active job leaves: of the blocks it does not touch, of the rings, of what it gives up, and of the job. -/
structure ActiveStop (s v : State) (o : JobOutcome) (a : Job) (rest : List Job) : Prop where
  keys    : v.keys = s.keys
  tracker : v.tracker = s.tracker
  sys     : v.sys = s.sys
  clock   : v.clock = s.clock
  ring    : ∀ r < Config.ringCount, v.ring r = { s.ring r with users := (v.ring r).users }
  gives   : s.stopGivesUp v a
  ends    : stopsHead s a → v.keep = { s.keep with
      queue := rest, outcomes := (a.entry o :: s.keep.outcomes).take 4, chunk := none, request := none }
    ∧ v.line = { s.line with latched := s.line.latched ||| 0x04#8 }
  stays   : ¬ stopsHead s a → v.line = s.line ∧ ∃ b, v.keep = { s.keep with queue := b :: rest } ∧ b.id = a.id
    ∧ (a.stopOutcome ≠ none → b = a)
    ∧ (a.stopOutcome = none → (a.phase = .reading ∨ a.phase = .writing) ∧ b = { a with stopOutcome := some o })

section Active

variable {s : State} {a : Job} {rest : List Job}

/-- What the law of the Keep Unit says of the Active job. -/
theorem activeJob_of_law (law : s.keep.Law) (hq : s.keep.queue = a :: rest) :
    (s.keep.chunk = none → a.phase = .idle ∧ a.stopOutcome = none) ∧ (s.keep.chunk ≠ none → a.phase ≠ .idle ∧ s.keep.request = none)
      ∧ (s.keep.queue.map Job.id).Nodup ∧ ∀ j ∈ rest, j.Waiting := by
  obtain ⟨-, -, -, -, hnodup, -, hwait, -, hhead⟩ := law
  obtain ⟨⟨hnone, hsome⟩, hrequest⟩ := hhead a (by rw [hq]; rfl)
  refine ⟨hnone, fun hc => ?_, hnodup, fun j hj => hwait j (by rw [hq]; exact hj)⟩
  obtain ⟨c, hc'⟩ := Option.ne_none_iff_exists'.mp hc
  refine ⟨(hsome c hc').1, ?_⟩
  cases hr : s.keep.request with
  | none => rfl
  | some q => exact absurd (hrequest q hr).1 hc

theorem stopActive_of_stopping (hq : s.keep.queue = a :: rest) (h : a.stopOutcome ≠ none) (o : JobOutcome) : stopActive o s = s := by
  unfold stopActive
  rw [State.activeJob, hq]
  dsimp only [List.head?_cons]
  rw [Option.isSome_iff_ne_none.mpr h]
  rfl

/-- The stop of an Active job that is not stopping, by its chunk and its phase. -/
theorem stopActive_of_open (hq : s.keep.queue = a :: rest) (h : a.stopOutcome = none) (o : JobOutcome) :
    stopActive o s = match s.keep.chunk, a.phase with
      | some _, .reading => mapDown (fun c => c.user == .keep) (fun c => { c with discarding := true })
          (releaseOwner .keep (mapActive (fun j => { j with stopOutcome := some o }) s))
      | some _, .transforming => endActive o (endChunk s)
      | some _, .writing => mapActive (fun j => { j with stopOutcome := some o }) s
      | _, _ => endActive o (withdrawRequest s) := by
  unfold stopActive
  rw [State.activeJob, hq]
  dsimp only [List.head?_cons]
  rw [h]
  rfl

theorem mapActive_eq (hq : s.keep.queue = a :: rest) (f : Job → Job) :
    mapActive f s = { s with keep := { s.keep with queue := f a :: rest } } := by
  unfold mapActive
  rw [hq]

/-- With no chunk in flight the Active job ends, its buffer request withdrawn (R140, R147). -/
theorem activeStop_unchunked (law : s.keep.Law) (hq : s.keep.queue = a :: rest) (hc : s.keep.chunk = none) (o : JobOutcome) :
    ActiveStop s (stopActive o s) o a rest := by
  obtain ⟨hnone, -, hnodup, -⟩ := activeJob_of_law law hq
  have hstop := (hnone hc).2
  have hkeep : (withdrawRequest s).keep = { s.keep with request := none } := by rw [withdrawRequest_eq]
  have heq : stopActive o s = { withdrawRequest s with
      keep := { s.keep with queue := rest, outcomes := (a.entry o :: s.keep.outcomes).take 4, request := none }
      line := { s.line with latched := s.line.latched ||| 0x04#8 } } := by
    rw [stopActive_of_open hq hstop, hc]
    exact endActive_of_keep hkeep (withdrawRequest_line s) hq hnodup o
  rw [heq]
  refine ⟨withdrawRequest_keys s, withdrawRequest_tracker s, withdrawRequest_sys s, by rw [withdrawRequest_eq], fun r _ => ?_, ?_,
    fun _ => ⟨congrArg (fun c => ({ s.keep with
      queue := rest, outcomes := (a.entry o :: s.keep.outcomes).take 4, request := none, chunk := c } : KeepUnit)) hc, rfl⟩,
    fun h => absurd (.inl hc) h⟩
  · have : (withdrawRequest s).ring r = s.ring r := ring_congr (withdrawRequest_rings s) r
    show (withdrawRequest s).ring r = { s.ring r with users := ((withdrawRequest s).ring r).users }
    rw [this]
  · refine ⟨fun _ => ⟨rfl, fun hr i hi ho => buffer_withdrawRequest hr hi ho⟩, fun c h => absurd (hc.symm.trans h) nofun,
      fun h => absurd hc h, fun h => absurd hc h, fun _ => ⟨rfl, fun i _ => ?_, fun r _ => ?_⟩⟩
    · exact entry_congr (congrArg RegionMap.entries (withdrawRequest_regions s)) i
    · exact congrArg Ring.users (ring_congr (withdrawRequest_rings s) r)

/-- A job that is stopping already keeps its outcome (R147). -/
theorem activeStop_stopping (hq : s.keep.queue = a :: rest) (hc : s.keep.chunk ≠ none) (h : a.stopOutcome ≠ none) (o : JobOutcome) :
    ActiveStop s (stopActive o s) o a rest := by
  rw [stopActive_of_stopping hq h]
  exact ⟨rfl, rfl, rfl, rfl, fun _ _ => rfl,
    ⟨fun h => absurd h hc, fun _ _ hn => absurd hn h, fun _ hn => absurd hn h, fun _ _ => ⟨rfl, rfl⟩,
      fun _ => ⟨rfl, fun _ _ => rfl, fun _ _ => rfl⟩⟩,
    fun hh => absurd hh (not_or.mpr ⟨hc, fun hp => h hp.2⟩),
    fun _ => ⟨rfl, a, by rw [← hq], rfl, fun _ => rfl, fun hn => absurd hn h⟩⟩

/-- A job that writes takes the outcome and goes on (R147). -/
theorem activeStop_writing (hq : s.keep.queue = a :: rest) {c : Chunk} (hc : s.keep.chunk = some c) (h : a.stopOutcome = none)
    (hp : a.phase = .writing) (o : JobOutcome) : ActiveStop s (stopActive o s) o a rest := by
  have hne : s.keep.chunk ≠ none := by rw [hc]; nofun
  have heq : stopActive o s = { s with keep := { s.keep with queue := { a with stopOutcome := some o } :: rest } } := by
    have hopen := stopActive_of_open hq h o
    rw [hc, hp] at hopen
    exact hopen.trans (mapActive_eq hq fun j => { j with stopOutcome := some o })
  rw [heq]
  refine ⟨rfl, rfl, rfl, rfl, fun _ _ => rfl,
    ⟨fun h => absurd h hne, fun _ _ _ ht => absurd (hp.symm.trans ht) (by decide), fun _ _ hr => absurd (hp.symm.trans hr) (by decide),
      fun _ _ => ⟨rfl, rfl⟩, fun _ => ⟨rfl, fun _ _ => rfl, fun _ _ => rfl⟩⟩,
    fun hh => absurd hh (not_or.mpr ⟨hne, fun ht => absurd (hp.symm.trans ht.1) (by decide)⟩),
    fun _ => ⟨rfl, _, rfl, rfl, fun hn => absurd h hn, fun _ => ⟨.inr hp, rfl⟩⟩⟩

/-- A job that reads takes the outcome; its buffers go and its read's further data is discarded (R147). -/
theorem activeStop_reading (hq : s.keep.queue = a :: rest) {c : Chunk} (hc : s.keep.chunk = some c) (h : a.stopOutcome = none)
    (hp : a.phase = .reading) (o : JobOutcome) : ActiveStop s (stopActive o s) o a rest := by
  have hne : s.keep.chunk ≠ none := by rw [hc]; nofun
  obtain ⟨w, hw⟩ : ∃ w : State, w = { s with keep := { s.keep with queue := { a with stopOutcome := some o } :: rest } } := ⟨_, rfl⟩
  have heq : stopActive o s
      = mapDown (fun c => c.user == .keep) (fun c => { c with discarding := true }) (releaseOwner .keep w) := by
    rw [stopActive_of_open hq h, hc, hp, hw]
    exact congrArg (fun x => mapDown _ _ (releaseOwner .keep x)) (mapActive_eq hq _)
  have honly := engineOnly_releaseOwner .keep w
  have hrel := releases_releaseOwner .keep w
  rw [heq]
  generalize releaseOwner .keep w = t at honly hrel ⊢
  have hframe : t = { s with engine := t.engine, keep := { s.keep with queue := { a with stopOutcome := some o } :: rest } } := by
    rw [hw] at honly
    exact honly
  have hkeep : t.keep = { s.keep with queue := { a with stopOutcome := some o } :: rest } := by rw [hframe]
  have hring : ∀ r, t.ring r = s.ring r := fun r => by rw [hframe]; rfl
  have hentry : ∀ i, t.entry i = s.entry i := fun i => by rw [hframe]; rfl
  refine ⟨by rw [mapDown, hframe], by rw [mapDown, hframe], by rw [mapDown, hframe], by rw [mapDown, hframe],
    fun r _ => ?_, ⟨fun h => absurd h hne, fun _ _ _ ht => absurd (hp.symm.trans ht) (by decide), fun _ _ _ => ⟨?_, ?_⟩,
      fun _ hor => ?_, fun _ => ⟨?_, fun i _ => hentry i, fun r _ => congrArg Ring.users (hring r)⟩⟩,
    fun hh => absurd hh (not_or.mpr ⟨hne, fun ht => absurd (hp.symm.trans ht.1) (by decide)⟩), fun _ => ⟨by rw [mapDown, hframe], _, hkeep, rfl,
      fun hn => absurd h hn, fun _ => ⟨.inl hp, rfl⟩⟩⟩
  · show t.ring r = { s.ring r with users := (t.ring r).users }
    rw [hring]
  · exact (hrel.of_same (s' := s) (by rw [hw]) (by rw [hw]) rfl rfl).released rfl
  · intro d hd hu
    obtain ⟨c, -, rfl⟩ : ∃ c ∈ t.drive.outstanding ++ t.drive.issueOrder,
        d = bif c.user == .keep then { c with discarding := true } else c := by
      rw [List.mem_append] at hd
      rcases hd with hd | hd <;> obtain ⟨c, hc, rfl⟩ := List.mem_map.mp hd
      · exact ⟨c, List.mem_append_left _ hc, rfl⟩
      · exact ⟨c, List.mem_append_right _ hc, rfl⟩
    cases hb : c.user == .keep
    · rw [hb] at hu
      exact absurd (beq_iff_eq.mpr hu) (by rw [cond_false, hb]; decide)
    · rfl
  · rcases hor with hn | hw'
    · exact absurd h hn
    · exact absurd (hp.symm.trans hw') (by decide)
  · show t.keep.chunk = _
    rw [hkeep]

/-- A job that transforms ends with its chunk (R147). -/
theorem activeStop_transforming (law : s.keep.Law) (hq : s.keep.queue = a :: rest) {c : Chunk} (hc : s.keep.chunk = some c)
    (h : a.stopOutcome = none) (hp : a.phase = .transforming) (o : JobOutcome) : ActiveStop s (stopActive o s) o a rest := by
  obtain ⟨-, hchunk, hnodup, -⟩ := activeJob_of_law law hq
  have hne : s.keep.chunk ≠ none := by rw [hc]; nofun
  have hrequest := (hchunk hne).2
  have hended := endChunk_spec hq hc
  have hids : ((({ a with phase := .idle } : Job) :: rest).map Job.id).Nodup := by
    rw [hq] at hnodup
    exact hnodup
  have heq : stopActive o s = { endChunk s with
      keep := { s.keep with queue := rest, outcomes := (a.entry o :: s.keep.outcomes).take 4, chunk := none }
      line := { s.line with latched := s.line.latched ||| 0x04#8 } } := by
    rw [stopActive_of_open hq h, hc, hp]
    exact endActive_of_keep hended.keep hended.line rfl hids o
  rw [heq]
  refine ⟨hended.keys, hended.tracker, hended.sys, hended.clock, fun r hr => ?_,
    ⟨fun h => absurd h hne, fun d hd _ _ => ?_, fun _ _ hr => absurd (hp.symm.trans hr) (by decide), fun _ hor => ?_, fun hor => ?_⟩,
    fun _ => ⟨congrArg (fun q => ({ s.keep with
      queue := rest, outcomes := (a.entry o :: s.keep.outcomes).take 4, request := q, chunk := none } : KeepUnit)) hrequest, rfl⟩,
    fun hh => absurd (.inr ⟨hp, h⟩) hh⟩
  · show (endChunk s).ring r = { s.ring r with users := ((endChunk s).ring r).users }
    rw [hended.ring r hr]
  · cases hc.symm.trans hd
    refine ⟨rfl, (hended.tag c.tag).trans (if_pos rfl), ?_, fun i hi => congrArg RegionEntry.inFlight (hended.entry i hi),
      fun r hr => congrArg Ring.users (hended.ring r hr)⟩
    exact hended.releases.released (o := .keep) rfl
  · rcases hor with hn | hw
    · exact absurd h hn
    · exact absurd (hp.symm.trans hw) (by decide)
  · rcases hor with hn | hn | hn
    · exact absurd hn hne
    · exact absurd h hn
    · exact absurd hp hn

/-- The stop of the Active job (R147). -/
theorem stopActive_spec (law : s.keep.Law) (hq : s.keep.queue = a :: rest) (o : JobOutcome) :
    ActiveStop s (stopActive o s) o a rest := by
  cases hc : s.keep.chunk with
  | none => exact activeStop_unchunked law hq hc o
  | some c =>
    obtain ⟨-, hchunk, -, -⟩ := activeJob_of_law law hq
    have hne : s.keep.chunk ≠ none := by rw [hc]; nofun
    by_cases hstop : a.stopOutcome = none
    · cases hp : a.phase with
      | idle => exact absurd hp (hchunk hne).1
      | reading => exact activeStop_reading hq hc hstop hp o
      | transforming => exact activeStop_transforming law hq hc hstop hp o
      | writing => exact activeStop_writing hq hc hstop hp o
    · exact activeStop_stopping hq hne hstop o

/-- With neither a chunk in flight nor a buffer request the Active job just ends. -/
theorem stopActive_of_quiet (hq : s.keep.queue = a :: rest) (h : a.stopOutcome = none) (hc : s.keep.chunk = none)
    (hr : s.keep.request = none) (o : JobOutcome) : stopActive o s = endJob a o s := by
  rw [stopActive_of_open hq h, hc]
  show endActive o (withdrawRequest s) = _
  rw [withdrawRequest_of_none hr]
  unfold endActive
  rw [State.activeJob, hq]
  rfl

end Active

/-! ## The stop of every job (R149) -/

/-- Jobs that end one after another: they leave the queue and enter the Outcome List, the last to end first (R133, R151). -/
def jobsOver (queue ended : List Job) (o : JobOutcome) (v : State) : State :=
  { v with
    keep := { v.keep with
      queue := queue, outcomes := ((ended.reverse.map fun j => j.entry o) ++ v.keep.outcomes).take Config.outcomePlaces }
    line := { v.line with latched := v.line.latched ||| if ended = [] then 0x00#8 else 0x04#8 } }

theorem take_append_take {α : Type} (n : Nat) (l m : List α) : (l ++ m.take n).take n = (l ++ m).take n := by
  rw [List.take_append, List.take_append, List.take_take, Nat.min_eq_left (Nat.sub_le _ _)]

theorem jobsOver_nil {v : State} (h : v.keep.outcomes.length ≤ Config.outcomePlaces) : jobsOver v.keep.queue [] o v = v := by
  unfold jobsOver
  rw [List.reverse_nil, List.map_nil, List.nil_append, List.take_of_length_le h, if_pos rfl, BitVec.or_zero]

/-- One job more. -/
theorem jobsOver_cons (queue queue' : List Job) (x : Job) (l : List Job) (o : JobOutcome) (v : State) :
    jobsOver queue l o (jobsOver queue' [x] o v) = jobsOver queue (x :: l) o v := by
  unfold jobsOver
  simp only [List.reverse_cons, List.reverse_nil, List.nil_append, List.map_append, List.map_cons, List.map_nil, List.append_assoc,
    List.cons_append, take_append_take, if_neg (List.cons_ne_nil _ _)]
  have hlatched : (if l = [] then 0x00#8 else 0x04#8) ||| 0x04#8 = 0x04#8 := by split <;> decide
  rw [BitVec.or_assoc, BitVec.or_comm 0x04#8, hlatched]

theorem endJob_eq {v : State} {x : Job} {queue : List Job} (h : (v.keep.queue.filter fun y => decide (y.id ≠ x.id)) = queue)
    (o : JobOutcome) : endJob x o v = jobsOver queue [x] o v := by
  unfold endJob jobsOver
  rw [h]
  rfl

/-- The Queued jobs are stopped one after another: each ends at once (R147). -/
theorem stopQueued {l : List Job} {v : State} {pre : List Job} {o : JobOutcome} (hq : v.keep.queue = pre ++ l)
    (hpre : (pre = [] ∧ v.keep.chunk = none ∧ v.keep.request = none) ∨ ∃ b, pre = [b])
    (hnodup : (v.keep.queue.map Job.id).Nodup) (hopen : ∀ x ∈ l, x.stopOutcome = none)
    (hout : v.keep.outcomes.length ≤ Config.outcomePlaces) : (l.map Job.id).foldl (stopJob o) v = jobsOver pre l o v := by
  induction l generalizing v with
  | nil =>
    rw [List.append_nil] at hq
    rw [← hq, jobsOver_nil hout]
    rfl
  | cons x l ih =>
    have hone : stopJob o v x.id = jobsOver (pre ++ l) [x] o v := by
      rcases hpre with ⟨rfl, hc, hr⟩ | ⟨b, rfl⟩
      · have hq' : v.keep.queue = x :: l := hq
        unfold stopJob
        rw [hq']
        dsimp only
        rw [beq_self_eq_true, cond_true, stopActive_of_quiet hq' (hopen x List.mem_cons_self) hc hr]
        refine endJob_eq ?_ o
        rw [hq'] at hnodup ⊢
        exact filter_ids_of_nodup hnodup
      · have hq' : v.keep.queue = b :: x :: l := hq
        rw [hq'] at hnodup
        obtain ⟨hb, hnodup'⟩ := List.nodup_cons.mp hnodup
        have hne : b.id ≠ x.id := fun h => hb (h ▸ List.mem_map_of_mem List.mem_cons_self)
        have hfind : (x :: l).find? (fun y => y.id == x.id) = some x := List.find?_cons_of_pos (beq_self_eq_true x.id)
        unfold stopJob
        rw [hq']
        dsimp only
        rw [beq_eq_false_iff_ne.mpr hne, cond_false, hfind]
        refine endJob_eq ?_ o
        rw [hq', List.filter_cons_of_pos (by simpa using hne), filter_ids_of_nodup hnodup']
        rfl
    rw [List.map_cons, List.foldl_cons, hone, ih (v := jobsOver (pre ++ l) [x] o v) rfl hpre ?_
      (fun y hy => hopen y (List.mem_cons_of_mem x hy)) (List.length_take_le _ _), jobsOver_cons]
    rw [hq] at hnodup
    refine hnodup.sublist ?_
    exact (List.Sublist.append_left (List.sublist_cons_self x l) pre).map Job.id

/-- The jobs that end at once when all are stopped: those that wait, and the Active one where it ends. -/
theorem stopJobs_all {s : State} {a : Job} {rest : List Job} (law : s.keep.Law) (hq : s.keep.queue = a :: rest) (o : JobOutcome) :
    ∃ pre, stopJobs (fun _ => true) o s = jobsOver pre rest o (stopActive o s) ∧ (stopActive o s).keep.queue = pre ++ rest := by
  have hspec := stopActive_spec law hq o
  obtain ⟨-, hout, -⟩ := id law
  obtain ⟨-, -, hnodup, hwait⟩ := activeJob_of_law law hq
  have hfirst : stopJobs (fun _ => true) o s = (rest.map Job.id).foldl (stopJob o) (stopActive o s) := by
    unfold stopJobs
    rw [List.filter_eq_self.mpr fun _ _ => rfl, hq, List.map_cons, List.foldl_cons]
    unfold stopJob
    rw [hq]
    dsimp only
    rw [beq_self_eq_true, cond_true]
  rw [hfirst]
  rw [hq] at hnodup
  have hopen : ∀ x ∈ rest, x.stopOutcome = none := fun x hx => (hwait x hx).2.1
  by_cases hh : stopsHead s a
  · obtain ⟨hkeep, -⟩ := hspec.ends hh
    refine ⟨[], stopQueued (by rw [hkeep]; rfl) (.inl ⟨rfl, by rw [hkeep], by rw [hkeep]⟩) ?_ hopen ?_, by rw [hkeep]; rfl⟩
    · rw [hkeep]
      exact (List.nodup_cons.mp hnodup).2
    · rw [hkeep]
      exact List.length_take_le _ _
  · obtain ⟨-, b, hkeep, hid, -⟩ := hspec.stays hh
    refine ⟨[b], stopQueued (by rw [hkeep]; rfl) (.inr ⟨b, rfl⟩) ?_ hopen ?_, by rw [hkeep]; rfl⟩
    · rw [hkeep]
      show (b.id :: rest.map Job.id).Nodup
      rw [hid]
      exact hnodup
    · rw [hkeep]
      exact hout

end Sys2Proof.Machine
end

section
/-! SUPPORT. The entry into Lockdown (R43, R55, R149) and the end of the profile load (R172, R173); the settling of O31 and O35. -/

namespace Sys2Proof.Machine

/-! ## The refusal of waiting commands -/

/-- The refusals of a list, one after another, in the order of the list (R95). -/
theorem refuseAll_eq (l : List RecordKey) (why : HostReason) (s : State) :
    l.foldl (fun s k => refuse k why s) s = { s with
      tracker := (l.foldl (fun s k => refuse k why s) s).tracker
      sys := { s.sys with sendOrder := s.sys.sendOrder ++ l.map .record } } := by
  induction l generalizing s with
  | nil => rw [List.map_nil, List.append_nil]; rfl
  | cons k l ih =>
    rw [List.foldl_cons, ih (refuse k why s), List.map_cons]
    show ({ refuse k why s with tracker := _, sys := { s.sys with
      sendOrder := s.sys.sendOrder ++ [DueItem.record k] ++ l.map .record } } : State) = _
    rw [List.append_assoc]
    rfl

/-- The refused commands wait no more. -/
theorem keyWait_refuseAll (l : List RecordKey) (why : HostReason) (s : State) {k : RecordKey}
    (h : k ∈ (l.foldl (fun s k => refuse k why s) s).tracker.keyWait) : k ∈ s.tracker.keyWait ∧ k ∉ l := by
  induction l generalizing s with
  | nil => exact ⟨h, List.not_mem_nil⟩
  | cons a l ih =>
    obtain ⟨hk, hl⟩ := ih (refuse a why s) h
    obtain ⟨hmem, hne⟩ := List.mem_filter.mp hk
    exact ⟨hmem, fun hc => (List.mem_cons.mp hc).elim (bne_iff_ne.mp hne) hl⟩

/-- The records of a command that is refused are Due with its reason, and another refusal leaves them so. -/
def RefusedAs (why : HostReason) (k : RecordKey) (s : State) : Prop :=
  ∀ x ∈ s.tracker.records, x.key = k → x.state = .due ∧ x.outcome = some (.refused why)

theorem mem_records_refuse {k : RecordKey} {why : HostReason} {s : State} {x : Record}
    (h : x ∈ (refuse k why s).tracker.records) :
    (x.key = k ∧ x.state = .due ∧ x.outcome = some (.refused why)) ∨ x ∈ s.tracker.records := by
  obtain ⟨y, hy, rfl⟩ := List.mem_map.mp h
  cases hk : y.key == k
  · exact .inr hy
  · exact .inl ⟨beq_iff_eq.mp hk, rfl, rfl⟩

theorem refusedAs_refuseAll (l : List RecordKey) (why : HostReason) (s : State) {k : RecordKey}
    (h : k ∈ l ∨ RefusedAs why k s) : RefusedAs why k (l.foldl (fun s k => refuse k why s) s) := by
  induction l generalizing s with
  | nil => exact h.resolve_left List.not_mem_nil
  | cons a l ih =>
    refine ih (refuse a why s) ?_
    rcases h with h | h
    · rcases List.mem_cons.mp h with rfl | h
      · refine .inr fun x hx hk => ?_
        obtain ⟨y, -, rfl⟩ := List.mem_map.mp hx
        cases hy : y.key == k
        · rw [hy] at hk
          exact absurd (beq_iff_eq.mpr hk) (by rw [cond_false, hy]; decide)
        · exact ⟨rfl, rfl⟩
      · exact .inl h
    · refine .inr fun x hx hk => ?_
      rcases mem_records_refuse hx with ⟨-, hstate, houtcome⟩ | hmem
      · exact ⟨hstate, houtcome⟩
      · exact h x hmem hk

/-! ## The blocks at the entry -/

/-- The state as Lockdown comes to its jobs: the Key Table emptied, the waiting commands refused, the rings closed. -/
def lockdownClosed (s : State) : State := mapRings Ring.closed (lockedOut s)

theorem lockdownClosed_eq (s : State) : lockdownClosed s = { s with
    keys := s.keys.locked
    rings := mapVector Ring.closed s.rings
    tracker := (lockedOut s).tracker
    sys := { s.sys with sendOrder := s.sys.sendOrder ++ s.tracker.keyWait.map .record } } := by
  unfold lockdownClosed
  have h : lockedOut s = _ := refuseAll_eq s.tracker.keyWait .locked { s with keys := s.keys.locked }
  rw [h]
  rfl

theorem ring_lockdownClosed (s : State) {r : Nat} (hr : r < Config.ringCount) :
    (lockdownClosed s).ring r = (s.ring r).closed := by
  have hr' : r < 4 := hr
  have h : lockedOut s = _ := refuseAll_eq s.tracker.keyWait .locked { s with keys := s.keys.locked }
  unfold lockdownClosed
  rw [ring_mapRings, if_pos hr', h]
  rfl

theorem closed_eq (r : Ring) :
    r.closed = { r with live := false, epochs := if r.live = true then [] else r.epochs } := by
  unfold Ring.closed
  cases h : r.live
  · rw [cond_false, if_neg (by decide), ← h]
  · rw [cond_true, if_pos rfl]

theorem stopGivesUp_lockdownClosed {s u : State} {j : Job} (h : (lockdownClosed s).stopGivesUp u j) : s.stopGivesUp u j := by
  have heq := lockdownClosed_eq s
  have hengine : (lockdownClosed s).engine = s.engine := by rw [heq]
  have hkeep : (lockdownClosed s).keep = s.keep := by rw [heq]
  have hdrive : (lockdownClosed s).drive = s.drive := by rw [heq]
  have hbuffer : ∀ i, (lockdownClosed s).buffer i = s.buffer i := fun i => by rw [heq]; rfl
  have hentry : ∀ i, (lockdownClosed s).entry i = s.entry i := fun i => by rw [heq]; rfl
  have husers : ∀ r < Config.ringCount, ((lockdownClosed s).ring r).users = (s.ring r).users := fun r hr => by
    rw [ring_lockdownClosed s hr, closed_eq]
  have hreleased : (lockdownClosed s).released u .keep → s.released u .keep := by
    unfold State.released
    simp only [hbuffer, hengine, hkeep]
    exact id
  unfold State.stopGivesUp State.chunkGivenUp at h
  simp only [hkeep, hengine, hdrive, hbuffer, hentry] at h
  obtain ⟨hrequest, hended, hreading, hsame, hcounts⟩ := h
  refine ⟨hrequest, fun c hc hn hp => ?_, fun hc hn hp => ?_, hsame, fun hor => ?_⟩
  · obtain ⟨hchunk, htag, hrel, hentries, hrings⟩ := hended c hc hn hp
    exact ⟨hchunk, htag, hreleased hrel, hentries, fun r hr => by rw [hrings r hr, husers r hr]⟩
  · obtain ⟨hrel, hdown⟩ := hreading hc hn hp
    exact ⟨hreleased hrel, hdown⟩
  · obtain ⟨hchunk, hentries, hrings⟩ := hcounts hor
    exact ⟨hchunk, hentries, fun r hr => by rw [hrings r hr, husers r hr]⟩

/-! ## The jobs at the entry -/

/-- What ends of other jobs leave of what the Active job gave up. -/
theorem stopGivesUp_of_same {s v u : State} {j : Job} (hengine : u.engine = v.engine) (hdrive : u.drive = v.drive)
    (hregions : u.regions = v.regions) (hrings : u.rings = v.rings) (hchunk : u.keep.chunk = v.keep.chunk)
    (hrequest : u.keep.request = v.keep.request) (h : s.stopGivesUp v j) : s.stopGivesUp u j := by
  have hbuffer : ∀ i, u.buffer i = v.buffer i := fun i => by unfold State.buffer; rw [hengine]
  have htag : ∀ t, u.tagUser t = v.tagUser t := fun t => by unfold State.tagUser; rw [hdrive]
  have hentry : ∀ i, u.entry i = v.entry i := fun i => by unfold State.entry; rw [hregions]
  have hring : ∀ r, u.ring r = v.ring r := ring_congr hrings
  unfold State.stopGivesUp State.chunkGivenUp State.released at h ⊢
  simp only [hbuffer, htag, hentry, hring, hengine, hdrive, hchunk, hrequest]
  exact h

theorem latched_jobsOver {w : Nat} (l e a : BitVec w) : l ||| e ||| a = l ||| a ||| e := by
  rw [BitVec.or_assoc, BitVec.or_comm e, ← BitVec.or_assoc]

/-- The jobs as one stop of all leaves them (R147, R149), with a cause latched beside (R151). -/
theorem jobsEnded_stopJobs {s : State} (law : s.keep.Law) (o : JobOutcome) (c : Cause) :
    ∃ ended, (∀ j ∈ (latch c (stopJobs (fun _ => true) o s)).keep.queue, s.stopsAs o j)
      ∧ s.jobsEnded ended o c.mask (latch c (stopJobs (fun _ => true) o s)) ∧ (∀ j ∈ s.keep.queue, j ∈ ended ↔ s.stopsAtOnce j)
      ∧ (∀ j, s.keep.queue.head? = some j → s.stopGivesUp (latch c (stopJobs (fun _ => true) o s)) j)
      ∧ (∀ r < Config.ringCount, (latch c (stopJobs (fun _ => true) o s)).ring r
          = { s.ring r with users := ((latch c (stopJobs (fun _ => true) o s)).ring r).users })
      ∧ (latch c (stopJobs (fun _ => true) o s)).keys = s.keys ∧ (latch c (stopJobs (fun _ => true) o s)).tracker = s.tracker
      ∧ (latch c (stopJobs (fun _ => true) o s)).sys = s.sys ∧ (latch c (stopJobs (fun _ => true) o s)).clock = s.clock := by
  obtain ⟨-, hout, -⟩ := id law
  cases hq : s.keep.queue with
  | nil =>
    have hnone : stopJobs (fun _ => true) o s = s := by
      unfold stopJobs
      rw [hq]
      rfl
    rw [hnone]
    refine ⟨[], fun j hj => ?_, ⟨?_, ?_, ?_, ?_⟩, nofun, nofun, fun _ _ => rfl, rfl, rfl, rfl, rfl⟩
    · have hj' : j ∈ s.keep.queue := hj
      rw [hq] at hj'
      cases hj'
    · rw [hq]
    · rw [hq]; nofun
    · exact (List.take_of_length_le hout).symm
    · rw [if_pos rfl, BitVec.or_zero]
      rfl
  | cons a rest =>
    obtain ⟨pre, heq, hpre⟩ := stopJobs_all law hq o
    have hspec := stopActive_spec law hq o
    obtain ⟨-, hchunk, hnodup, -⟩ := activeJob_of_law law hq
    rw [hq] at hnodup
    obtain ⟨hfresh, -⟩ := List.nodup_cons.mp hnodup
    have hother : ∀ j ∈ rest, j.id ≠ a.id := fun j hj he => hfresh (he ▸ List.mem_map_of_mem hj)
    have hhead : ∀ j ∈ rest, s.keep.queue.head? ≠ some j := fun j hj he => by
      rw [hq] at he
      exact hother j hj (congrArg Job.id (Option.some.inj he)).symm
    rw [heq]
    have hgives : ∀ j, (a :: rest).head? = some j → s.stopGivesUp (latch c (jobsOver pre rest o (stopActive o s))) j := by
      intro j hj
      cases hj
      exact stopGivesUp_of_same rfl rfl rfl rfl rfl rfl hspec.gives
    by_cases hh : stopsHead s a
    · obtain ⟨hkeep, hline⟩ := hspec.ends hh
      have hempty : pre = [] := by
        rw [hkeep] at hpre
        exact List.append_left_eq_self.mp hpre.symm
      subst hempty
      refine ⟨a :: rest, nofun, ⟨?_, fun j hj => iff_of_true ?_ nofun, ?_, ?_⟩, fun j hj => iff_of_true hj ?_, hgives,
        hspec.ring, hspec.keys, hspec.tracker, hspec.sys, hspec.clock⟩
      · rw [hq]
      · rwa [hq] at hj
      · show ((rest.reverse.map fun j => j.entry o) ++ (stopActive o s).keep.outcomes).take 4 = _
        rw [hkeep, take_append_take, List.reverse_cons, List.map_append, List.append_assoc]
        rfl
      · show ({ (stopActive o s).line with latched := (stopActive o s).line.latched ||| _ ||| c.mask } : Line) = _
        rw [hline, if_neg (List.cons_ne_nil a rest)]
        have hone : (0x04#8 : AlertSet) ||| (if rest = [] then 0x00#8 else 0x04#8) = 0x04#8 := by split <;> decide
        dsimp only
        rw [BitVec.or_assoc s.line.latched 0x04#8, hone, latched_jobsOver]
      · rcases List.mem_cons.mp hj with rfl | hj
        · exact .inr hh
        · exact .inl (hhead j hj)
    · obtain ⟨hline, b, hkeep, hid, hsame, hnew⟩ := hspec.stays hh
      obtain ⟨hsome, htrans⟩ := not_or.mp hh
      have hone : pre = [b] := by
        rw [hkeep] at hpre
        exact (List.append_cancel_right (bs := rest) hpre).symm
      subst hone
      refine ⟨rest, fun j hj => ?_, ⟨?_, fun j hj => ?_, ?_, ?_⟩, fun j hj => ?_, hgives,
        hspec.ring, hspec.keys, hspec.tracker, hspec.sys, hspec.clock⟩
      · obtain rfl : j = b := List.mem_singleton.mp hj
        exact ⟨a, by rw [hq]; rfl, hsome, hsame, hnew⟩
      · rw [hq]
        exact List.sublist_cons_self a rest
      · rw [hq] at hj
        rcases List.mem_cons.mp hj with rfl | hj
        · exact iff_of_false (fun h => hother j h rfl) fun h => h b List.mem_cons_self hid
        · refine iff_of_true hj fun k hk => ?_
          obtain rfl : k = b := List.mem_singleton.mp hk
          rw [hid]
          exact (hother j hj).symm
      · show ((rest.reverse.map fun j => j.entry o) ++ (stopActive o s).keep.outcomes).take 4 = _
        rw [hkeep]
        rfl
      · show ({ (stopActive o s).line with latched := (stopActive o s).line.latched ||| _ ||| c.mask } : Line) = _
        rw [hline]
        dsimp only
        rw [latched_jobsOver]
      · rcases List.mem_cons.mp hj with rfl | hj
        · refine iff_of_false (fun h => hother j h rfl) ?_
          rintro (h | h | h)
          · exact h (by rw [hq]; rfl)
          · exact hsome h
          · exact htrans h
        · exact iff_of_true hj (.inl (hhead j hj))

/-! ## The statements -/

theorem exec_lockdown (s : State) : exec .lockdown s = .next (lockdownFound s) := rfl

/-- Settles O35. -/
theorem entersLockdown : Obligations.EntersLockdown := by
  intro s law
  refine ⟨fun hload => ?_, fun hload hlock => ?_, fun hload hlock => ?_⟩
  · rw [exec_lockdown, lockdownFound, beq_iff_eq.mpr hload]
    rfl
  · rw [exec_lockdown, lockdownFound, beq_eq_false_iff_ne.mpr hload, hlock]
    rfl
  · have hexec : exec .lockdown s = .next (settle (enterLockdown s)) := by
      rw [exec_lockdown, lockdownFound, beq_eq_false_iff_ne.mpr hload, hlock]
      rfl
    have heq := lockdownClosed_eq s
    have hkeep : (lockdownClosed s).keep = s.keep := by rw [heq]
    obtain ⟨ended, hstops, hended, honce, hgives, hring, hkeys, htracker, hsys, hclock⟩ :=
      jobsEnded_stopJobs (s := lockdownClosed s) (by rw [hkeep]; exact law) (.failed .lockdown) .lockdown
    have hu : enterLockdown s = latch .lockdown (stopJobs (fun _ => true) (.failed .lockdown) (lockdownClosed s)) := rfl
    rw [← hu] at hstops hended hgives hring hkeys htracker hsys hclock
    have hslot : ∀ i < Config.slotCount, (enterLockdown s).slot i = (s.slot i).wiped := fun i hi => by
      rw [← slot_wiped s hi]
      refine slot_of_slots ?_ i
      rw [hkeys, heq]
    have hrecords : (enterLockdown s).tracker = (lockedOut s).tracker := by rw [htracker, heq]
    refine ⟨enterLockdown s, ended, hexec, hslot, by rw [hkeys, heq]; rfl, by rw [hkeys, heq]; rfl, fun r hr => ?_, ?_, ?_,
      fun k hk x hx => ?_, fun j hj => ?_, ?_, fun j hj => ?_, fun j hj => ?_, by rw [hclock, heq]⟩
    · rw [hring r hr, ring_lockdownClosed s hr, closed_eq]
    · rw [hrecords]
      refine List.eq_nil_iff_forall_not_mem.mpr fun k hk => ?_
      obtain ⟨hmem, hnot⟩ := keyWait_refuseAll _ _ _ hk
      exact hnot hmem
    · rw [hsys, heq]
    · have hr := refusedAs_refuseAll s.tracker.keyWait .locked { s with keys := s.keys.locked } (.inl hk)
      have hx' : (lockedOut s).record? k = some x := (record?_congr (congrArg Tracker.records hrecords.symm) k).trans hx
      exact hr x (record?_mem hx') (record?_key hx')
    · have h := hstops j hj
      unfold State.stopsAs at h ⊢
      rwa [hkeep] at h
    · unfold State.jobsEnded at hended ⊢
      rw [hkeep] at hended
      have hline : (lockdownClosed s).line = s.line := by rw [heq]
      rw [hline] at hended
      exact hended
    · have h := honce j (by rw [hkeep]; exact hj)
      unfold State.stopsAtOnce at h ⊢
      rwa [hkeep] at h
    · exact stopGivesUp_lockdownClosed (hgives j (by rw [hkeep]; exact hj))

/-- The load-end event with the profile in force (R173). -/
theorem latchIf_takeProfile (p : Profile) (s : State) :
    latchIf (p.result != .good) .profileFault (takeProfile p s) = { s with
      clock := { s.clock with increment := p.increment }
      sys := { s.sys with loading := false }
      line := { s.line with
        profile := p, enabled := p.alertMask
        state := if s.line.request = none then .idle else .working
        latched := s.line.latched ||| if p.result = .good then 0x00#8 else 0x40#8 } } := by
  have hstate : (bif s.line.request.isSome then LineState.working else .idle)
      = if s.line.request = none then .idle else .working := by cases s.line.request <;> rfl
  have hlatched : ∀ l : AlertSet, l ||| 0x00#8 = l := fun l => BitVec.or_zero
  unfold latchIf takeProfile
  rw [hstate]
  by_cases hp : p.result = .good
  · rw [hp, if_pos rfl, hlatched]
    rfl
  · rw [if_neg hp, bne_iff_ne.mpr hp]
    rfl

/-- The end of the load with the profile of its read. -/
theorem exec_loadEnd {r : ProfileRead} {c : Instr} {p : Profile}
    (h : c = .profileLoadEnd r ∧ p = profileOf r ∨ c = .profileLoadTimeout ∧ p = Profile.faultDefaults .absent) (s : State) :
    exec c s = .next (bif s.line.state == .loading then
      settle (bif (latchIf (p.result != .good) .profileFault (takeProfile p s)).keys.lockdownSeen
        then enterLockdown (latchIf (p.result != .good) .profileFault (takeProfile p s))
        else latchIf (p.result != .good) .profileFault (takeProfile p s))
      else s) := by
  rcases h with ⟨rfl, rfl⟩ | ⟨rfl, rfl⟩ <;> rfl

/-- What a Lockdown entered with the end of the load leaves of the profile and the flags. -/
theorem settled_lockdown (s : State) :
    (enterLockdown s).keys.lockdownSeen = false ∧ (enterLockdown s).line.profile = s.line.profile
      ∧ (enterLockdown s).sys.loading = s.sys.loading := by
  have h : Settled (lockdownClosed s) (enterLockdown s) := Settled.after (settled_latch _ _) (settled_stopJobs _ _ _)
  have heq := lockdownClosed_eq s
  refine ⟨h.lockdownSeen.trans ?_, h.profile.trans ?_, h.loading.trans ?_⟩ <;> rw [heq]
  rfl

/-- Settles O31. -/
theorem powerOnAndLoad : Obligations.PowerOnAndLoad := by
  intro r c p s h
  refine ⟨rfl, fun hload => ?_, fun hload hseen => ?_, fun hload hseen => ?_⟩
  · rw [exec_loadEnd h, beq_eq_false_iff_ne.mpr hload]
    rfl
  · rw [exec_loadEnd h, beq_iff_eq.mpr hload, latchIf_takeProfile, hseen]
    rfl
  · refine ⟨enterLockdown (latchIf (p.result != .good) .profileFault (takeProfile p s)), ?_, ?_⟩
    · have hseen' : (latchIf (p.result != .good) .profileFault (takeProfile p s)).keys.lockdownSeen = true := by
        rw [latchIf_takeProfile]
        exact hseen
      rw [exec_loadEnd h, beq_iff_eq.mpr hload, hseen']
      rfl
    · have hempty := emptied_enterLockdown (latchIf (p.result != .good) .profileFault (takeProfile p s))
      obtain ⟨hflag, hprofile, hloading⟩ := settled_lockdown (latchIf (p.result != .good) .profileFault (takeProfile p s))
      refine ⟨hempty.flag, hflag, hprofile.trans ?_, hempty.slots, hloading.trans ?_⟩ <;> rw [latchIf_takeProfile]

end Sys2Proof.Machine
end

section
/-! SUPPORT. The start of a grant (R115, R116, R146); the settling of O54. -/

namespace Sys2Proof.Machine

/-! ## Pairs -/

theorem checkPair_of_verdict {s : State} {p : Capture} {v : Except LostReason Key} (h : PairVerdict s p v) : s.checkPair p = v := by
  unfold State.checkPair
  cases h with
  | live id key cls d c g =>
    rw [c]
    dsimp only
    rw [beq_iff_eq.mpr g]
    rfl
  | replaced id key cls d c g =>
    rw [c]
    dsimp only
    rw [beq_eq_false_iff_ne.mpr g]
    rfl
  | expired id cls d c => rw [c]
  | dropped c => rw [c]

/-! ## The engine takes a sector -/

/-- The state as the chosen sector leaves its queue, the counters moved on. -/
def grantTaken (ch : Choice) (i : Nat) (s : State) : State := withdrawFromQueues i (countGrant ch s)

theorem grantTaken_engine (ch : Choice) (i : Nat) (s : State) : (grantTaken ch i s).engine.pool = s.engine.pool
    ∧ (grantTaken ch i s).engine.grant = s.engine.grant ∧ (grantTaken ch i s).unqueued i := by
  refine ⟨?_, ?_, unqueued_withdrawFromQueues i _⟩ <;> cases ch <;> rfl

theorem buffer_grantTaken (ch : Choice) (i : Nat) (s : State) (m : Nat) : (grantTaken ch i s).buffer m = s.buffer m := by
  unfold State.buffer
  rw [(grantTaken_engine ch i s).1]

section Start

variable {s : State} {i : Nat} {rest : List Nat} {ch : Choice}

/-- GRANT_START takes the oldest sector of the chosen queue (R115). -/
theorem exec_grantStart (hfree : s.engine.grant = none) (hch : s.arbitrate = some ch) (hq : s.queueOf ch = i :: rest) :
    exec .grantStart s = .next (settle (grantSector ch i s)) := by
  have h : grantStart? s = some (grantSector ch i s) := by
    unfold grantStart?
    rw [hfree, hch]
    dsimp only
    rw [hq]
  show Host.Outcome.next (settle ((grantStart? s).getD s)) = _
  rw [h]
  rfl

theorem grantSector_host {read : Bool} (h : (ch, read) ∈ [(Choice.read, true), (.write, false)]) :
    grantSector ch i s
      = beginGrant i (s.hostGrant read (s.buffer i)).1 (s.hostGrant read (s.buffer i)).2 (grantTaken ch i s) := by
  simp only [List.mem_cons, List.not_mem_nil, or_false, Prod.mk.injEq] at h
  rcases h with ⟨rfl, rfl⟩ | ⟨rfl, rfl⟩ <;> rfl

theorem grantSector_keep (h : ch = .keepFirst ∨ ch = .keepShare) :
    grantSector ch i s = match s.keepGrant (s.buffer i) with
      | .ok result => beginGrant i result none (grantTaken ch i s)
      | .error why => stopActive (.failed why.failReason) (grantTaken ch i s) := by
  rcases h with rfl | rfl <;> rfl

/-- The transform of a host sector by the verdict on its pair (R41, R115, R116). -/
theorem hostGrant_of_verdict {read : Bool} {b : Buffer} {k : RecordKey} {x : Record} {r : Run} {p : Capture}
    {v : Except LostReason Key} (ho : b.owner = .record k) (hx : s.record? k = some x) (hr : x.runAt b.lba = some r)
    (hp : r.capture = some p) (hv : PairVerdict s p v) :
    s.hostGrant read b = match (generalizing := false) v with
      | .ok key => (bif read then decrypt key b.lba b.data else encrypt key b.lba b.data, none)
      | .error why => (zeroSector, some why) := by
  have hpair : s.hostPair b = some p := by
    unfold State.hostPair
    rw [ho]
    dsimp only
    rw [hx, Option.bind_some, hr, Option.bind_some, hp]
  unfold State.hostGrant State.checkPair?
  rw [hpair]
  dsimp only
  rw [checkPair_of_verdict hv] <;> cases v <;> rfl

/-- The transform of a protected keep sector by the verdicts on its pairs (R41, R115, R116). -/
theorem keepGrant_protect {b : Buffer} {c : Chunk} {p : Capture} {vs vd : Except LostReason Key} (ht : b.treatment = .protect)
    (hc : s.keep.chunk = some c) (hd : PairVerdict s c.target vd) (hp : b.srcPair = some p) (hs : PairVerdict s p vs) :
    s.keepGrant b = match (generalizing := false) vs, vd with
      | .ok source, .ok key => .ok (encrypt key b.lba (decrypt source b.srcTweak b.data))
      | .error why, _ => .error why
      | _, .error why => .error why := by
  unfold State.keepGrant
  rw [ht, hc, hp]
  dsimp only [Option.map_some, State.checkPair?]
  rw [checkPair_of_verdict hd, checkPair_of_verdict hs] <;> cases vs <;> cases vd <;> rfl

theorem keepGrant_zeroSource {b : Buffer} {c : Chunk} {vd : Except LostReason Key} (ht : b.treatment = .zeroSource)
    (hc : s.keep.chunk = some c) (hd : PairVerdict s c.target vd) :
    s.keepGrant b = match (generalizing := false) vd with
      | .ok key => .ok (encrypt key b.lba zeroSector)
      | .error why => .error why := by
  unfold State.keepGrant
  rw [ht, hc]
  dsimp only [Option.map_some, State.checkPair?]
  rw [checkPair_of_verdict hd] <;> cases vd <;> rfl

/-- The key-lost keep sector's pair that decides: the source's, or else the destination's. -/
theorem keepGrant_lost {b : Buffer} {c : Chunk} {p : Capture} {vs vd : Except LostReason Key} {why : LostReason}
    (hc : s.keep.chunk = some c) (hd : PairVerdict s c.target vd)
    (hs : b.treatment = .protect → b.srcPair = some p ∧ PairVerdict s p vs)
    (h : (b.treatment = .protect ∧ (vs = .error why ∨ (∃ ks, vs = .ok ks) ∧ vd = .error why))
      ∨ (b.treatment = .zeroSource ∧ vd = .error why)) : s.keepGrant b = .error why := by
  rcases h with ⟨ht, h⟩ | ⟨ht, rfl⟩
  · obtain ⟨hp, hs⟩ := hs ht
    rw [keepGrant_protect ht hc hd hp hs]
    rcases h with rfl | ⟨⟨ks, rfl⟩, rfl⟩
    · cases vd <;> rfl
    · rfl
  · rw [keepGrant_zeroSource ht hc hd]

/-- A lost keep sector stops the job; the engine stays free (R146). -/
theorem grant_stopActive_none (hfree : s.engine.grant = none) (o : JobOutcome) : (stopActive o s).engine.grant = none := by
  cases hg : (stopActive o s).engine.grant with
  | none => rfl
  | some g =>
    obtain ⟨b, hb, -⟩ := (tended_stopActive o s).grant g hg
    rw [hfree] at hb
    cases hb

/-- A stop of the job whose chunk is in flight while nothing is in the grant frees the chunk's buffers but where the job writes
(R147). -/
theorem buffers_stopActive {j : Job} {waiting : List Job} (law : s.keep.Law) (hq : s.keep.queue = j :: waiting)
    (hstop : j.stopOutcome = none) {c : Chunk} (hc : s.keep.chunk = some c) (hp : j.phase ≠ .writing)
    (hfree : s.engine.grant = none) (o : JobOutcome) {m : Nat} (hm : m < Config.bufferCount) (ho : (s.buffer m).owner = .keep)
    (hs : (s.buffer m).state ≠ .setAside) : ((stopActive o s).buffer m).state = .free := by
  have hne : s.keep.chunk ≠ none := by rw [hc]; nofun
  obtain ⟨-, hchunk, -⟩ := activeJob_of_law law hq
  obtain ⟨hidle, hrequest⟩ := hchunk hne
  obtain ⟨-, hended, hreading, -⟩ := (stopActive_spec law hq o).gives
  have hreleased : s.released (stopActive o s) .keep := by
    cases hph : j.phase with
    | idle => exact absurd hph hidle
    | reading => exact (hreading hne hstop hph).1
    | transforming =>
      obtain ⟨-, -, h, -⟩ := hended c hc hstop hph
      exact h
    | writing => exact absurd hph hp
  obtain ⟨hstate, -⟩ := (hreleased m hm ho hs).2 (by rw [hfree]; nofun)
  rcases hstate with h | ⟨-, h⟩
  · exact h
  · exact absurd hrequest h

end Start

/-- Settles O54. -/
theorem grantStarts : Obligations.GrantStarts := by
  intro s i rest ch hfree hch hq
  have hexec := exec_grantStart hfree hch hq
  obtain ⟨hpool, hgrant, hread, hwrite, -⟩ := grantTaken_engine ch i s
  refine ⟨fun read k x r p v hmem ho hx hr hp hv => ?_, fun c p vs vd hkeep hc hd hs hclear => ?_⟩
  · refine ⟨_, ⟨some i, (s.hostGrant read (s.buffer i)).1, .place, (s.hostGrant read (s.buffer i)).2⟩, hexec, ?_⟩
    rw [grantSector_host hmem]
    refine ⟨rfl, rfl, rfl, hpool, hread, hwrite, ?_, ?_⟩
    · rintro key rfl
      rw [hostGrant_of_verdict ho hx hr hp hv]
      cases read <;> exact ⟨rfl, rfl⟩
    · rintro why rfl
      rw [hostGrant_of_verdict ho hx hr hp hv]
      exact ⟨rfl, rfl⟩
  · have hsector := grantSector_keep (s := s) (i := i) hkeep
    refine ⟨?_, ?_, fun why j waiting law hqueue hstop hlost => ?_⟩
    · rintro ks kd ht rfl rfl
      obtain ⟨hp, hs⟩ := hs ht
      rw [keepGrant_protect ht hc hd hp hs] at hsector
      exact ⟨_, _, hexec, by rw [hsector]; rfl, rfl, rfl, rfl, by rw [hsector]; rfl⟩
    · rintro kd ht rfl
      rw [keepGrant_zeroSource ht hc hd] at hsector
      exact ⟨_, _, hexec, by rw [hsector]; rfl, rfl, rfl, rfl, by rw [hsector]; rfl⟩
    · rw [keepGrant_lost hc hd hs hlost] at hsector
      have hfree' : (grantTaken ch i s).engine.grant = none := hgrant.trans hfree
      have hspec := stopActive_spec (s := grantTaken ch i s) law hqueue (.failed why.failReason)
      have hne : s.keep.chunk ≠ none := by rw [hc]; nofun
      refine ⟨_, why.failReason, hexec, ?_⟩
      rw [hsector]
      refine ⟨grant_stopActive_none hfree' _, by cases why <;> rfl, fun m hm hp ho hst => ?_, fun hp => ⟨?_, ?_⟩, fun hp => ?_⟩
      · rw [← buffer_grantTaken ch i s m] at ho hst
        exact buffers_stopActive (s := grantTaken ch i s) law hqueue hstop hc hp hfree' _ hm ho hst
      · obtain ⟨-, b, hkeepv, -, -, hnew⟩ := hspec.stays (not_or.mpr ⟨hne, fun ht => absurd (hp.symm.trans ht.1) (by decide)⟩)
        rw [hkeepv, (hnew hstop).2]
        rfl
      · obtain ⟨-, -, hreading, -⟩ := hspec.gives
        exact (hreading hne hstop hp).2
      · obtain ⟨hkeepv, hline⟩ := hspec.ends (.inr ⟨hp, hstop⟩)
        obtain ⟨-, -, hnodup, -⟩ := activeJob_of_law law hqueue
        rw [hqueue] at hnodup
        obtain ⟨hfresh, -⟩ := List.nodup_cons.mp hnodup
        refine ⟨⟨?_, fun k hk => ?_, ?_, ?_⟩, by rw [hkeepv], by rw [hkeepv]⟩
        · rw [hqueue]
          exact List.cons_sublist_cons.mpr (List.nil_sublist waiting)
        · rw [hkeepv]
          rw [hqueue] at hk
          rcases List.mem_cons.mp hk with rfl | hwaits
          · exact iff_of_true List.mem_cons_self fun m hm he => hfresh (he ▸ List.mem_map_of_mem hm)
          · refine iff_of_false (fun h => ?_) fun h => h k hwaits rfl
            exact hfresh (List.mem_singleton.mp h ▸ List.mem_map_of_mem hwaits)
        · rw [hkeepv]
          rfl
        · rw [hline, if_neg (List.cons_ne_nil j []), BitVec.or_zero]
          rfl

end Sys2Proof.Machine
end

section
/-! SUPPORT. How a command leaves KeyWait (R38 to R40): refused by its timer, or by the re-check, which repeats the lookup. -/

namespace Sys2Proof.Machine

/-! ## A refusal at the lookup examines the ids waited for (R40) -/

theorem waiters_ne_zero_iff (s : State) (id : ProgId) :
    s.waiters id ≠ 0 ↔ ∃ z ∈ s.tracker.records, z.state = .keyWait ∧ id ∈ z.awaited := by
  rw [State.waiters, ← Nat.pos_iff_ne_zero, List.countP_pos_iff]
  simp

theorem mem_missList_dropUnwaited (ids : List ProgId) (s : State) (id : ProgId) :
    id ∈ (dropUnwaited ids s).keys.missList ↔ id ∈ s.keys.missList
      ∧ (id ∉ ids ∨ ∃ z ∈ s.tracker.records, z.state = .keyWait ∧ id ∈ z.awaited) := by
  rw [dropUnwaited, setMissList_keys_missList, List.mem_filter, ← waiters_ne_zero_iff]
  simp

theorem mem_missList_refuseKey {k : RecordKey} {why : HostReason} {s : State} {r : Record} (h : s.record? k = some r) (id : ProgId) :
    id ∈ (refuseKey k why s).keys.missList ↔ id ∈ s.keys.missList
      ∧ (id ∉ r.awaited ∨ ∃ z ∈ (refuseKey k why s).tracker.records, z.state = .keyWait ∧ id ∈ z.awaited) := by
  rw [refuseKey_eq h]
  exact mem_missList_dropUnwaited r.awaited (refuse k why s) id

theorem keyWait_refuseKey (k : RecordKey) (why : HostReason) (s : State) :
    (refuseKey k why s).tracker.keyWait = s.tracker.keyWait.filter (· ≠ k) :=
  List.filter_congr fun q _ => by by_cases hq : q = k <;> simp [hq]

theorem not_mem_keyWait_refuseKey (k : RecordKey) (why : HostReason) (s : State) :
    k ∉ (refuseKey k why s).tracker.keyWait := by
  rw [keyWait_refuseKey]
  simp

/-! ## Past the lookup no id is waited for -/

/-- The record is out of the order of KeyWait and waits for no id. -/
def State.KeysFound (s : State) (k : RecordKey) : Prop :=
  k ∉ s.tracker.keyWait ∧ ∀ x, s.record? k = some x → x.awaited = []

section KeysFound
variable {k : RecordKey} {s t : State}

theorem State.KeysFound.of_eq (h : s.KeysFound k) (hwait : t.tracker.keyWait = s.tracker.keyWait)
    (hrecords : t.tracker.records = s.tracker.records) : t.KeysFound k :=
  ⟨hwait ▸ h.1, fun x hx => h.2 x ((record?_congr hrecords k).symm.trans hx)⟩

theorem State.KeysFound.mapRecord (h : s.KeysFound k) {f : Record → Record} (hkey : ∀ r, r.key = k → (f r).key = k)
    (hawait : ∀ r, (f r).awaited = r.awaited) : (mapRecord k f s).KeysFound k := by
  refine ⟨h.1, fun x hx => ?_⟩
  rw [record?_mapRecord hkey] at hx
  obtain ⟨r, hr, rfl⟩ := Option.map_eq_some_iff.mp hx
  exact (hawait r).trans (h.2 r hr)

theorem keysFound_endHold (k : RecordKey) (s : State) : (endHold k s).KeysFound k := by
  refine ⟨by simp [endHold, leaveHolds], fun x hx => ?_⟩
  have hmap := record?_mapRecord (k := k) (s := s)
    (f := fun r => { r with state := .classify, timer := none, awaited := [], waitsFor := [] }) fun _ e => e
  obtain ⟨r, -, rfl⟩ := Option.map_eq_some_iff.mp (hmap.symm.trans hx)
  rfl

theorem keysFound_refuse (k : RecordKey) (why : HostReason) (s : State) : (refuse k why s).KeysFound k := by
  refine ⟨by simp [refuse, becomeDue, leaveHolds], fun x hx => ?_⟩
  have hmap := record?_mapRecord (k := k) (s := s) (f := fun r =>
    { r with state := .due, timer := none, awaited := [], waitsFor := [], outcome := some (.refused why) }) fun _ e => e
  obtain ⟨r, -, rfl⟩ := Option.map_eq_some_iff.mp (hmap.symm.trans hx)
  rfl

theorem State.KeysFound.takeHostTag (h : s.KeysFound k) : (takeHostTag k s).KeysFound k :=
  h.of_eq (by rw [takeHostTag_eq]) (by rw [takeHostTag_eq])

theorem State.KeysFound.stepIssue (h : s.KeysFound k) : (stepIssue k s).KeysFound k := by
  unfold Machine.stepIssue
  split
  next => exact h
  next r _ =>
    have hmarked := h.mapRecord (f := fun r => { r with state := .issued, part1 := .outstanding }) (fun _ e => e) fun _ => rfl
    have hrings : (mapRings (Ring.issueAccesses k)
      (Machine.mapRecord k (fun r => { r with state := .issued, part1 := .outstanding }) s)).KeysFound k := hmarked.of_eq rfl rfl
    exact hrings.takeHostTag.of_eq rfl rfl

theorem State.KeysFound.holdIn (h : s.KeysFound k) (st : RecordState) : (holdIn k st s).KeysFound k :=
  h.mapRecord (f := fun r => { r with state := st }) (fun _ e => e) fun _ => rfl

theorem State.KeysFound.stepSoleWait (h : s.KeysFound k) : (stepSoleWait k s).KeysFound k := by
  have hstands := h.mapRecord (f := fun r => { r with standing := true }) (fun _ e => e) fun _ => rfl
  have hwithdrawn := hstands.of_eq (t := withdrawRequest (Machine.mapRecord k (fun r => { r with standing := true }) s))
    (by rw [withdrawRequest_tracker]) (by rw [withdrawRequest_tracker])
  unfold Machine.stepSoleWait
  cases k == RecordKey.sole
  · exact h.stepIssue
  · dsimp only [cond_true]
    cases (withdrawRequest (Machine.mapRecord k (fun r => { r with standing := true }) s)).keep.chunk.isSome
    · exact hwithdrawn.stepIssue
    · exact hwithdrawn.holdIn .soleWait

theorem State.KeysFound.stepTagWait (h : s.KeysFound k) : (stepTagWait k s).KeysFound k := by
  unfold Machine.stepTagWait
  split
  next => exact h
  next r _ =>
    cases !(k == .sole) && r.split.isSome
    · exact h.stepSoleWait
    · rw [cond_true]
      split
      next t _ _ =>
        have htagged := h.mapRecord (f := fun r => { r with split := r.split.map fun x => { x with tag := some t } })
          (fun _ e => e) fun _ => rfl
        exact (htagged.of_eq (t := grantPartTag k t s) rfl rfl).stepSoleWait
      next =>
        exact (h.of_eq (t := { s with tracker := { s.tracker with tagWait := s.tracker.tagWait ++ [k] } }) rfl rfl).holdIn .tagWait

theorem State.KeysFound.stepOverrun (h : s.KeysFound k) : (stepOverrun k s).KeysFound k := by
  unfold Machine.stepOverrun
  cases s.blocked k
  · exact h.stepTagWait
  · exact (h.mapRecord (f := fun r => { r with state := .overrun, timer := some (.overrun s.line.profile.overrunMs) })
      (fun _ e => e) fun _ => rfl).of_eq rfl rfl

theorem State.KeysFound.stepRingOrder (h : s.KeysFound k) : (stepRingOrder k s).KeysFound k := by
  unfold Machine.stepRingOrder
  split
  · exact h.stepOverrun
  · exact (h.mapRecord (f := fun r => { r with state := .ringOrder, waitsFor := s.conflictsOf k })
      (fun _ e => e) fun _ => rfl).of_eq rfl rfl

theorem tracker_acceptAccesses (k : RecordKey) (write : Bool) (qs : List AccessRequest) (s : State) :
    (qs.foldl (acceptAccess k write) s).tracker = s.tracker := by
  induction qs generalizing s with
  | nil => rfl
  | cons q qs ih => exact ih (acceptAccess k write s q)

theorem State.KeysFound.stepAccept (h : s.KeysFound k) : (stepAccept k s).KeysFound k := by
  unfold Machine.stepAccept
  split
  next => exact h
  next r _ =>
    dsimp only
    split
    · exact keysFound_refuse k _ s
    · exact (h.of_eq (congrArg Tracker.keyWait (tracker_acceptAccesses k r.kind.isWrite (accessesOf r.runs) s))
        (congrArg Tracker.records (tracker_acceptAccesses k r.kind.isWrite (accessesOf r.runs) s))).stepRingOrder

end KeysFound

/-! ## The timer (R38) and the re-check (R39) -/

theorem lookupRuns_of_miss {s : State} {x : Record} (hopen : s.keys.lockdown = false) (hnot : ∀ q ∈ protectedIds x.runs, s.lookup q ≠ .expired)
    {id : ProgId} (hid : id ∈ protectedIds x.runs) (hmiss : s.lookup id = .miss) :
    s.lookupRuns x.runs = .misses ((protectedIds x.runs).filter fun id => s.lookup id == .miss) := by
  refine lookupRuns_misses (fun q hq => ⟨hnot q hq, fun hlocked => ?_⟩) ⟨id, hid, hmiss⟩
  rw [lookup_eq_locked_iff, hopen] at hlocked
  cases hlocked.2

section
variable {k : RecordKey} {s : State} {x : Record} (hx : s.record? k = some x)
include hx

theorem exec_keywaitTimerExpiry (hwait : k ∈ s.tracker.keyWait) :
    exec (.keywaitTimerExpiry k) s = .next (settle (refuseKey k .noKey s)) := by
  have hfires : keywaitExpired? k s = some (refuseKey k .noKey s) := by
    unfold keywaitExpired?
    rw [hx, List.contains_iff_mem.mpr hwait]
    rfl
  show execKeywaitTimerExpiry k s = _
  rw [execKeywaitTimerExpiry, hfires, Option.getD_some]

theorem exec_keywaitRecheck (hwait : k ∈ s.tracker.keyWait) (hslot : ∃ id ∈ x.awaited, s.holds id) :
    exec (.keywaitRecheck k) s = .next (settle (stepLookup k s)) := by
  have hany : x.awaited.any (fun id => (s.slotOf id).isSome) = true := by
    obtain ⟨id, hid, hholds⟩ := hslot
    exact List.any_eq_true.mpr ⟨id, hid, (slotOf_isSome_iff s id).mpr hholds⟩
  have hfires : keywaitRecheck? k s = some (stepLookup k s) := by
    unfold keywaitRecheck?
    rw [hx]
    dsimp only
    rw [hany, List.contains_iff_mem.mpr hwait]
    rfl
  show execKeywaitRecheck k s = _
  rw [execKeywaitRecheck, hfires, Option.getD_some]

theorem expired_at_recheck (h : ∃ id ∈ protectedIds x.runs, s.lookup id = .expired) {y : Record}
    (hy : (stepLookup k s).record? k = some y) :
    y.state = .due ∧ y.outcome = some (.refused .expired) ∧ k ∉ (stepLookup k s).tracker.keyWait := by
  rw [stepLookup_of_refused hx (lookupRuns_expired h)] at hy ⊢
  obtain rfl := Option.some.inj ((record?_refuseKey (record?_uncaptured hx)).symm.trans hy)
  exact ⟨rfl, rfl, not_mem_keyWait_refuseKey _ _ _⟩

theorem captured_at_recheck (h : ∀ id ∈ protectedIds x.runs, ∃ c, s.lookup id = .captured c) {y : Record}
    (hy : (stepLookup k s).record? k = some y) :
    y.state ≠ .keyWait ∧ y.state ≠ .classify ∧ k ∉ (stepLookup k s).tracker.keyWait ∧ y.awaited = []
      ∧ ∀ r ∈ y.runs, ∀ id, r.protectedId = some id → ∃ c, r.capture = some c ∧ s.lookup id = .captured c := by
  have hfound := lookupRuns_captured h
  obtain ⟨y', hwalk, -⟩ := stepLookup_captured hx hfound
  obtain rfl := Option.some.inj (hwalk.record.symm.trans hy)
  obtain ⟨hwait, hawait⟩ : (stepLookup k s).KeysFound k := by
    rw [stepLookup_of_captured hx hfound]
    exact (keysFound_endHold k _).stepAccept
  have hstate := hwalk.state
  refine ⟨fun he => ?_, fun he => ?_, hwait, hawait y' hy, fun r hr id hid => ?_⟩
  · rw [he] at hstate
    simp at hstate
  · rw [he] at hstate
    simp at hstate
  · rw [hwalk.alike.runs] at hr
    have hneeded : id ∈ protectedIds x.runs := by
      obtain ⟨r', hr', hsame⟩ := mem_of_uncaptured (captureRuns_uncaptured s x.runs).symm hr
      have hid' : r'.uncaptured.protectedId = r.uncaptured.protectedId := congrArg Run.protectedId hsame
      exact mem_protectedIds.mpr ⟨r', hr', hid'.trans hid⟩
    obtain ⟨c, hc⟩ := h id hneeded
    exact ⟨c, captureRuns_capture hr hid hc, hc⟩

/-- The missing ids that the Miss List has room for join it, and the command waits on for all that it misses. -/
theorem waits_at_recheck (hwait : k ∈ s.tracker.keyWait) {ids : List ProgId} (hl : s.lookupRuns x.runs = .misses ids)
    (hroom : (s.newMisses ids).length ≤ 4 - s.keys.missList.length) {y : Record} (hy : (stepLookup k s).record? k = some y) :
    y.state = .keyWait ∧ (stepLookup k s).tracker.keyWait = s.tracker.keyWait
      ∧ (stepLookup k s).keys = { s.keys with missList := s.keys.missList ++ s.newMisses ids }
      ∧ (stepLookup k s).line = { s.line with latched := s.line.latched ||| if s.newMisses ids = [] then 0x00#8 else 0x01#8 }
      ∧ (x.timer ≠ none → y.timer = x.timer) ∧ y.awaited = ids := by
  have hjoined : ∀ (b : Bool) (l : List ProgId), (latchIf b .keyMiss (setMissList l
      (mapRecord k (fun r => { r with runs := s.captureRuns r.runs }) s))).record? k = some { x with runs := s.captureRuns x.runs } :=
    fun b l => record?_latchIf b .keyMiss (record?_captured hx s.captureRuns)
  rw [stepLookup_of_room hx hl hroom] at hy ⊢
  obtain rfl := Option.some.inj ((record?_enterKeyWait (hjoined _ _) ids).symm.trans hy)
  refine ⟨rfl, ?_, ?_, ?_, fun ht => ?_, rfl⟩
  · have hstays : ∀ t : State, k ∈ t.tracker.keyWait → (enterKeyWait k ids t).tracker.keyWait = t.tracker.keyWait := by
      intro t ht
      unfold enterKeyWait
      dsimp only
      rw [mapRecord_tracker_keyWait, List.contains_iff_mem.mpr ht]
      rfl
    have htracker := fun b => congrArg State.tracker (latchIf_eq b .keyMiss (setMissList (s.keys.missList ++ s.newMisses ids)
      (mapRecord k (fun r => { r with runs := s.captureRuns r.runs }) s)))
    rw [hstays _ (by rw [htracker]; exact hwait), htracker]
    rfl
  · rw [enterKeyWait_eq, latchIf_eq]
    rfl
  · rw [enterKeyWait_eq]
    cases s.newMisses ids with
    | nil => exact (congrArg (fun b => { s.line with latched := b }) (BitVec.or_zero (x := s.line.latched))).symm
    | cons id rest => rfl
  · obtain ⟨t, ht⟩ := Option.ne_none_iff_exists'.mp ht
    simp only [ht]

/-- The missing ids that the Miss List has no room for end the wait (R36). -/
theorem full_at_recheck {ids : List ProgId} (hl : s.lookupRuns x.runs = .misses ids)
    (hfull : 4 - s.keys.missList.length < (s.newMisses ids).length) {y : Record} (hy : (stepLookup k s).record? k = some y) :
    y.state = .due ∧ y.outcome = some (.refused .noKey) ∧ (stepLookup k s).line = s.line
      ∧ (stepLookup k s).sys.sendOrder = s.sys.sendOrder ++ [.record k]
      ∧ (stepLookup k s).tracker.keyWait = s.tracker.keyWait.filter (· ≠ k)
      ∧ ∀ id, id ∈ (stepLookup k s).keys.missList ↔ id ∈ s.keys.missList ∧
          (id ∉ x.awaited ∨ ∃ z ∈ (stepLookup k s).tracker.records, z.state = .keyWait ∧ id ∈ z.awaited) := by
  have hrec := record?_captured hx s.captureRuns
  rw [stepLookup_of_full hx hl hfull] at hy ⊢
  obtain rfl := Option.some.inj ((record?_refuseKey hrec).symm.trans hy)
  exact ⟨rfl, rfl, rfl, rfl, keyWait_refuseKey _ _ _, fun id => mem_missList_refuseKey hrec id⟩

theorem goesOn_stepLookup : ∃ y, (stepLookup k s).record? k = some y ∧ s.goesOn (stepLookup k s) x y := by
  obtain ⟨y, hkept, -⟩ := stepLookup_kept hx
  obtain ⟨runs, -, halike⟩ := hkept.alike
  exact ⟨y, hkept.record, halike.key, halike.kind, halike.host, halike.count, halike.frame, halike.image, halike.split, hkept.issued⟩

end

/-- Settles O44. -/
theorem keyWaitEnds : Obligations.KeyWaitEnds := by
  intro k x s hx hwait
  refine ⟨⟨_, _, exec_keywaitTimerExpiry hx hwait, record?_refuseKey hx, rfl, rfl, rfl, keyWait_refuseKey k _ s,
    mem_missList_refuseKey hx⟩, fun hslot => ?_⟩
  obtain ⟨y, hy, hon⟩ := goesOn_stepLookup hx
  refine ⟨_, y, exec_keywaitRecheck hx hwait hslot, hy, fun h => expired_at_recheck hx h hy, hon,
    fun h => captured_at_recheck hx h hy, fun id hid hmiss hopen hnot hlisted => ?_, fun new hnew hsome hopen hnot => ?_⟩
  · have hl := lookupRuns_of_miss hopen hnot hid hmiss
    have hnone : s.newMisses ((protectedIds x.runs).filter fun id => s.lookup id == .miss) = [] := by
      refine List.filter_eq_nil_iff.mpr fun q hq => ?_
      obtain ⟨hq, hm⟩ := List.mem_filter.mp hq
      simp [hlisted q hq (eq_of_beq hm)]
    obtain ⟨hstate, horder, hkeys, -, htimer, hawait⟩ := waits_at_recheck hx hwait hl (by rw [hnone]; exact Nat.zero_le _) hy
    refine ⟨hstate, horder, ?_, htimer, fun q => ?_⟩
    · rw [hkeys, hnone, List.append_nil]
    · rw [hawait, List.mem_filter, beq_iff_eq]
  · have hsame : s.newMisses ((protectedIds x.runs).filter fun id => s.lookup id == .miss) = new := by
      rw [hnew, State.newMisses, List.filter_filter]
      refine List.filter_congr fun q _ => ?_
      cases hm : s.lookup q == .miss
      · have : s.lookup q ≠ .miss := by simpa using hm
        simp [this]
      · have : s.lookup q = .miss := eq_of_beq hm
        simp [this]
    obtain ⟨id, hid⟩ := List.exists_mem_of_ne_nil _ hsome
    rw [hnew] at hid
    obtain ⟨hid, hmiss⟩ := List.mem_filter.mp hid
    have hl := lookupRuns_of_miss hopen hnot hid (of_decide_eq_true hmiss).1
    refine ⟨fun hfull => full_at_recheck hx hl (by rw [hsame]; exact hfull) hy, fun hroom => ?_⟩
    obtain ⟨hstate, horder, hkeys, hline, htimer, hawait⟩ := waits_at_recheck hx hwait hl (by rw [hsame]; exact hroom) hy
    rw [hsame] at hkeys hline
    rw [if_neg hsome] at hline
    refine ⟨hstate, horder, hkeys, hline, htimer, fun q => ?_⟩
    rw [hawait, List.mem_filter, beq_iff_eq]

end Sys2Proof.Machine
end

section
/-! SUPPORT. The keys of a keep chunk (R42, R131, R141): the keep query, the source segments of the chunk, and its destination,
classified anew. -/

namespace Sys2Proof.Machine

/-! ## The keep query (R42) -/

/-- Where the Key Table is a map, the chunk's key query finds what the slots say. -/
theorem keyVerdict_iff {s : State} (law : s.KeyTableLaw) (id : ProgId) (v : Except FailReason Capture) :
    KeyVerdict s id v ↔ s.chunkKey id = v := by
  have hfound : ∀ {i : Nat}, i < Config.slotCount → (s.slot i).content.id? = some id → s.slotOf id = some (i, s.slot i) :=
    fun hi h => slotOf_eq_of_law law hi h
  constructor
  · intro h
    cases h with
    | live i key d hi hc => simp only [State.chunkKey, State.keepQuery, hfound hi (by rw [hc]; rfl), hc]
    | never i key d hi hc => simp only [State.chunkKey, State.keepQuery, hfound hi (by rw [hc]; rfl), hc]
    | expired h =>
      obtain ⟨i, hi, cls, d, hc⟩ := h
      simp only [State.chunkKey, State.keepQuery, hfound hi (by rw [hc]; rfl), hc]
    | absent h => simp only [State.chunkKey, State.keepQuery, (slotOf_eq_none_iff s id).mpr h]
  · rintro rfl
    cases hslot : s.slotOf id with
    | none =>
      simp only [State.chunkKey, State.keepQuery, hslot]
      exact .absent ((slotOf_eq_none_iff s id).mp hslot)
    | some found =>
      obtain ⟨i, x⟩ := found
      obtain ⟨hi, rfl, hid⟩ := slotOf_eq_some hslot
      cases hc : (s.slot i).content with
      | empty => rw [hc] at hid; cases hid
      | expired p cls d =>
        simp only [State.chunkKey, State.keepQuery, hslot, hc]
        obtain rfl : p = id := by rw [hc] at hid; exact Option.some.inj hid
        exact .expired ⟨i, hi, cls, d, hc⟩
      | live p key cls d =>
        obtain rfl : p = id := by rw [hc] at hid; exact Option.some.inj hid
        cases cls with
        | keepAllowed =>
          simp only [State.chunkKey, State.keepQuery, hslot, hc]
          exact .live i key d hi hc
        | keepNever =>
          simp only [State.chunkKey, State.keepQuery, hslot, hc]
          exact .never i key d hi hc

/-! ## The source segments (R141) -/

/-- The segment at this place of a list holds an offset of `[u, u + n)`. -/
def holdsAt (u n : Nat) (l : List Epoch) (m : Nat) (e : Epoch) : Prop :=
  l[m]? = some e ∧ ∃ v, u ≤ v ∧ v < u + n ∧ e.start ≤ v ∧ ∀ f, l[m + 1]? = some f → v < f.start

section Segments
variable {u n : Nat} {e : Epoch} {l : List Epoch}

theorem holdsAt_cons_zero {f : Epoch} (h : holdsAt u n (e :: l) 0 f) : f = e :=
  (Option.some.inj h.1).symm

theorem not_holdsAt_nil {m : Nat} : ¬ holdsAt u n [] m e := fun h => by simp [holdsAt] at h

theorem segmentsHolding_cons_of_holds (h : holdsAt u n (e :: l) 0 e) :
    segmentsHolding u n (e :: l) = e :: segmentsHolding u n l := by
  obtain ⟨-, v, hlo, hhi, hstart, hnext⟩ := h
  cases l with
  | nil => simp only [segmentsHolding, decide_eq_true (show e.start < u + n by omega), cond_true]
  | cons f l =>
    have hmeets : rangesMeet e.start f.start u (u + n) = true :=
      (rangesMeet_iff _ _ _ _).mpr ⟨v, hstart, hnext f rfl, hlo, hhi⟩
    rw [segmentsHolding, hmeets, cond_true]

theorem segmentsHolding_cons_of_not_holds (hn : 0 < n) (h : ¬ holdsAt u n (e :: l) 0 e) :
    segmentsHolding u n (e :: l) = segmentsHolding u n l := by
  cases l with
  | nil =>
    have hpast : ¬ e.start < u + n := fun hlt =>
      h ⟨rfl, max e.start u, by omega, by omega, by omega, nofun⟩
    simp only [segmentsHolding, decide_eq_false hpast, cond_false]
  | cons f l =>
    have hapart : rangesMeet e.start f.start u (u + n) = false := by
      refine Bool.eq_false_iff.mpr fun hmeets => h ?_
      obtain ⟨v, hstart, hnext, hlo, hhi⟩ := (rangesMeet_iff _ _ _ _).mp hmeets
      exact ⟨rfl, v, hlo, hhi, hstart, fun g hg => Option.some.inj hg ▸ hnext⟩
    rw [segmentsHolding, hapart, cond_false]

end Segments

section Sources
variable {s : State} (law : s.KeyTableLaw)
include law

theorem sourceKeys_cons_of_ok {e : Epoch} {c : Capture} (h : KeyVerdict s e.id (.ok c)) {l : List Epoch}
    {sources : List (Nat × Capture)} (hl : s.sourceKeys l = .ok sources) :
    s.sourceKeys (e :: l) = .ok ((e.start, c) :: sources) := by
  simp only [State.sourceKeys, (keyVerdict_iff law _ _).mp h, hl]

theorem sourceKeys_cons_of_later {e : Epoch} {c : Capture} (h : KeyVerdict s e.id (.ok c)) {l : List Epoch} {why : FailReason}
    (hl : s.sourceKeys l = .error why) : s.sourceKeys (e :: l) = .error why := by
  simp only [State.sourceKeys, (keyVerdict_iff law _ _).mp h, hl]

theorem sourceKeys_cons_of_error {e : Epoch} {why : FailReason} (h : KeyVerdict s e.id (.error why)) (l : List Epoch) :
    s.sourceKeys (e :: l) = .error why := by
  simp only [State.sourceKeys, (keyVerdict_iff law _ _).mp h]

variable {u n : Nat} (hn : 0 < n)
include hn

/-- Every source segment's key is found: their pairs, oldest segment first. -/
theorem sourceKeys_of_found {l : List Epoch} (h : ∀ m e, holdsAt u n l m e → ∃ c, KeyVerdict s e.id (.ok c)) :
    ∃ sources, s.sourceKeys (segmentsHolding u n l) = .ok sources ∧ (sources.map Prod.fst).Sublist (l.map Epoch.start)
      ∧ ∀ p, p ∈ sources ↔ ∃ m e, holdsAt u n l m e ∧ p.1 = e.start ∧ KeyVerdict s e.id (.ok p.2) := by
  induction l with
  | nil => exact ⟨[], rfl, List.Sublist.slnil, fun p => ⟨nofun, fun ⟨_, _, hm, _⟩ => absurd hm not_holdsAt_nil⟩⟩
  | cons e l ih =>
    obtain ⟨sources, hkeys, hsub, hmem⟩ := ih fun m f hf => h (m + 1) f hf
    by_cases hholds : holdsAt u n (e :: l) 0 e
    · obtain ⟨c, hc⟩ := h 0 e hholds
      refine ⟨(e.start, c) :: sources, ?_, hsub.cons_cons e.start, fun p => ?_⟩
      · rw [segmentsHolding_cons_of_holds hholds, sourceKeys_cons_of_ok law hc hkeys]
      · rw [List.mem_cons, hmem]
        constructor
        · rintro (rfl | ⟨m, f, hf, hp⟩)
          · exact ⟨0, e, hholds, rfl, hc⟩
          · exact ⟨m + 1, f, hf, hp⟩
        · rintro ⟨m, f, hf, hstart, hv⟩
          cases m with
          | zero =>
            obtain rfl := holdsAt_cons_zero hf
            have hsame : Except.ok c = Except.ok p.2 :=
              ((keyVerdict_iff law _ _).mp hc).symm.trans ((keyVerdict_iff law _ _).mp hv)
            exact .inl (Prod.ext hstart (Except.ok.inj hsame).symm)
          | succ m => exact .inr ⟨m, f, hf, hstart, hv⟩
    · refine ⟨sources, ?_, hsub.cons e.start, fun p => ?_⟩
      · rw [segmentsHolding_cons_of_not_holds hn hholds, hkeys]
      · rw [hmem]
        constructor
        · rintro ⟨m, f, hf, hp⟩
          exact ⟨m + 1, f, hf, hp⟩
        · rintro ⟨m, f, hf, hp⟩
          cases m with
          | zero => exact absurd (holdsAt_cons_zero hf ▸ hf) hholds
          | succ m => exact ⟨m, f, hf, hp⟩

/-- The first source segment whose key is not found gives the reason. -/
theorem sourceKeys_of_failed {l : List Epoch} {m : Nat} {e : Epoch} (hholds : holdsAt u n l m e) {why : FailReason}
    (hv : KeyVerdict s e.id (.error why)) (hbefore : ∀ k f, k < m → holdsAt u n l k f → ∃ c, KeyVerdict s f.id (.ok c)) :
    s.sourceKeys (segmentsHolding u n l) = .error why := by
  induction l generalizing m with
  | nil => exact absurd hholds not_holdsAt_nil
  | cons f l ih =>
    cases m with
    | zero =>
      obtain rfl := holdsAt_cons_zero hholds
      rw [segmentsHolding_cons_of_holds hholds, sourceKeys_cons_of_error law hv]
    | succ m =>
      have hlater := ih hholds fun k g hk hg => hbefore (k + 1) g (Nat.succ_lt_succ hk) hg
      by_cases hfirst : holdsAt u n (f :: l) 0 f
      · obtain ⟨c, hc⟩ := hbefore 0 f (Nat.succ_pos m) hfirst
        rw [segmentsHolding_cons_of_holds hfirst, sourceKeys_cons_of_later law hc hlater]
      · rw [segmentsHolding_cons_of_not_holds hn hfirst, hlater]

end Sources

/-! ## The destination (R135, R141) -/

theorem ring_of_programme {s : State} {y : Nat} (h : (s.classOf y).kind = .programme) : (s.classOf y).ring = none := by
  cases hy : s.binding y with
  | none => rw [classOf_unmapped hy]
  | some e =>
    obtain ⟨i, d⟩ := e
    cases hk : d.kind with
    | clear t => rw [classOf_clear hy hk]
    | programme t id => rw [classOf_programme hy hk]
    | barred => rw [classOf_barred hy hk]
    | overlay => exact absurd hk (binding_not_overlay hy)
    | ring r =>
      rw [classOf_ring hy hk] at h
      cases hl : (s.ring r).live
      · rw [ringSector_idle hl] at h; cases h
      · rw [ringSector_live hl] at h; cases h

/-- The disk LBAs of a destination piece lie in no ring's span. -/
theorem clear_of_spans_iff (s : State) (a b : Nat) : s.meetsSpan none a b = false ↔
    ∀ c, a ≤ c → c < b → ∀ q < Config.ringCount, ¬ ((s.ring q).base ≤ c ∧ c < (s.ring q).base + (s.ring q).span) := by
  rw [← Bool.not_eq_true, meetsSpan_iff]
  constructor
  · rintro h c hlo hhi q hq ⟨hbase, htop⟩
    exact h ⟨q, hq, nofun, c, hlo, hhi, hbase, htop⟩
  · rintro h ⟨q, hq, -, c, hlo, hhi, hin⟩
    exact h c hlo hhi q hq hin

/-- The pieces of the destination meet the conditions exactly when all its sectors do. -/
theorem destinationFits_iff (s : State) (id : ProgId) (h : Nat) {n : Nat} (hn : 0 < n) (disk : Nat) :
    s.destinationFits id h n disk = true ↔ s.extentAllowed id (h, n) disk := by
  simp only [State.destinationFits, List.all_eq_true, Bool.and_eq_true, beq_iff_eq, Bool.not_eq_true', clear_of_spans_iff, and_assoc]
  constructor
  · intro hall y hlo hhi
    obtain ⟨p, hp, hplo, hphi⟩ := (tiles_pieces s h hn).covers hlo hhi
    obtain ⟨-, hpin, -⟩ := (tiles_pieces s h hn).of_mem hp
    obtain ⟨hkind, hid, hbar, hdisk, hspans⟩ := hall p hp
    have huncut := uncut_of_piece hn hp hplo hphi
    have hsame := sameRun_of_uncut huncut
    obtain ⟨-, hkinds, -⟩ := (sameRun_iff _ _).mp hsame
    have hshift : (s.classOf y).disk = some (disk + (p.1 - h) + (y - p.1)) := by
      rcases disk_shift (binding_uncut huncut) hplo hdisk with ⟨-, hd⟩ | ⟨q, v, -, hring, -⟩
      · exact hd
      · rw [ring_of_programme hkind] at hring
        cases hring
    refine ⟨hkinds ▸ hkind, (id_of_sameRun hsame).trans hid, (barred_uncut huncut true).trans hbar, ?_, ?_⟩
    · rw [hshift]
      exact congrArg some (by dsimp only; omega)
    · exact hspans _ (by dsimp only; omega) (by dsimp only; omega)
  · intro hall p hp
    obtain ⟨hcount, hpin, hstop⟩ := (tiles_pieces s h hn).of_mem hp
    obtain ⟨hkind, hid, hbar, hdisk, -⟩ := hall p.1 hpin (by dsimp only; omega)
    refine ⟨hkind, hid, hbar, hdisk, fun c hlo hhi => ?_⟩
    obtain ⟨-, -, -, -, hspans⟩ := hall (h + (c - disk)) (by dsimp only; omega) (by dsimp only; omega)
    have hc : disk + (h + (c - disk) - h) = c := by omega
    rw [hc] at hspans
    exact hspans

/-! ## What the start of a chunk finds (R141) -/

section Verdict
variable {s : State} (law : s.KeyTableLaw) {j : Job} {n : Nat} (hn : 0 < n) {h disk : Nat}
include law hn

theorem chunkKeys_of_error {why : FailReason} (v : ChunkVerdict s j n h disk (.error why)) : s.chunkKeys j h disk n = .error why := by
  cases v with
  | source _ m e hholds hfails hbefore =>
    simp only [State.chunkKeys, sourceKeys_of_failed law hn hholds hfails hbefore]
  | target _ hfound hfails =>
    obtain ⟨sources, hsources, -⟩ := sourceKeys_of_found law hn hfound
    simp only [State.chunkKeys, hsources, (keyVerdict_iff law _ _).mp hfails]
  | mismatch c hfound htarget hbad =>
    obtain ⟨sources, hsources, -⟩ := sourceKeys_of_found law hn hfound
    have hfits : s.destinationFits j.destination h n disk = false :=
      Bool.eq_false_iff.mpr (mt (destinationFits_iff s _ h hn disk).mp hbad)
    simp only [State.chunkKeys, hsources, (keyVerdict_iff law _ _).mp htarget, hfits, cond_false]

theorem chunkKeys_of_ok {pairs : List (Nat × Capture) × Capture} (v : ChunkVerdict s j n h disk (.ok pairs)) :
    ∃ sources target, s.chunkKeys j h disk n = .ok (sources, target) ∧ ChunkVerdict s j n h disk (.ok (sources, target)) := by
  cases v with
  | starts _ c _ _ hfound htarget hallowed =>
    obtain ⟨sources, hsources, hsub, hmem⟩ := sourceKeys_of_found law hn hfound
    refine ⟨sources, c, ?_, .starts sources c hsub hmem hfound htarget hallowed⟩
    simp only [State.chunkKeys, hsources, (keyVerdict_iff law _ _).mp htarget, (destinationFits_iff s _ h hn disk).mpr hallowed,
      cond_true]

end Verdict

end Sys2Proof.Machine
end

section
/-! SUPPORT. The starts of the Keep Unit (R120, R138, R139, R141, R142): its buffers, its part tag, its chunk. -/

namespace Sys2Proof.Machine

/-! ## Buffers given new fields -/

theorem buffer_setBuffers (b : Buffer) (l : List Nat) (s : State) {i : Nat} (hi : i < Config.bufferCount) :
    (l.foldl (fun s m => setBuffer m b s) s).buffer i = if i ∈ l then b else s.buffer i := by
  induction l generalizing s with
  | nil => rfl
  | cons m l ih =>
    rw [List.foldl_cons, ih, buffer_setBuffer]
    by_cases hl : i ∈ l
    · rw [if_pos hl, if_pos (List.mem_cons_of_mem m hl)]
    · by_cases him : i = m
      · rw [if_neg hl, if_pos ⟨him, him ▸ hi⟩, if_pos (him ▸ List.mem_cons_self)]
      · rw [if_neg hl, if_neg fun h => him h.1, if_neg fun h => (List.mem_cons.mp h).elim him hl]

theorem engineOnly_setBuffers (b : Buffer) (l : List Nat) (s : State) : EngineOnly s (l.foldl (fun s m => setBuffer m b s) s) :=
  EngineOnly.foldl (f := fun s m => setBuffer m b s) (fun _ _ => rfl) l s

/-- The fields of the chunk's buffer for its `p`-th sector (R142). -/
def Job.placedBuffer (j : Job) (h : Nat) (sources : List (Nat × Capture)) (p : Nat) : Buffer :=
  { Buffer.takenForKeep with
    lba := h + p, treatment := .protect, srcTweak := j.sourceBase + (j.cursor + p), srcPair := pairOf sources (j.cursor + p) }

theorem placeBuffers_cons (j : Job) (h : Nat) (sources : List (Nat × Capture)) (p i : Nat) (l : List Nat) (s : State) :
    placeBuffers j h sources p (i :: l) s = placeBuffers j h sources (p + 1) l (setBuffer i (j.placedBuffer h sources p) s) := rfl

theorem engineOnly_placeBuffers (j : Job) (h : Nat) (sources : List (Nat × Capture)) (p : Nat) (l : List Nat) (s : State) :
    EngineOnly s (placeBuffers j h sources p l s) := by
  induction l generalizing p s with
  | nil => exact .refl s
  | cons i l ih =>
    have hset : EngineOnly s (setBuffer i (j.placedBuffer h sources p) s) := rfl
    exact hset.trans (ih (p + 1) _)

theorem buffer_placeBuffers_of_notMem (j : Job) (h : Nat) (sources : List (Nat × Capture)) (p : Nat) {l : List Nat} (s : State) {i : Nat}
    (hi : i ∉ l) : (placeBuffers j h sources p l s).buffer i = s.buffer i := by
  induction l generalizing p s with
  | nil => rfl
  | cons m l ih =>
    rw [placeBuffers_cons, ih _ _ fun h => hi (List.mem_cons_of_mem m h), buffer_setBuffer,
      if_neg fun hm : i = m ∧ _ => hi (hm.1 ▸ List.mem_cons_self)]

/-- The buffers of a list get their places in its order. -/
theorem buffer_placeBuffers (j : Job) (h : Nat) (sources : List (Nat × Capture)) (p : Nat) {l : List Nat} (hnodup : l.Nodup) (s : State)
    {q i : Nat} (hq : l[q]? = some i) (hi : i < Config.bufferCount) :
    (placeBuffers j h sources p l s).buffer i = j.placedBuffer h sources (p + q) := by
  induction l generalizing p q s with
  | nil => cases hq
  | cons m l ih =>
    obtain ⟨hm, hl⟩ := List.nodup_cons.mp hnodup
    rw [placeBuffers_cons]
    cases q with
    | zero =>
      obtain rfl : m = i := Option.some.inj hq
      rw [buffer_placeBuffers_of_notMem _ _ _ _ _ hm, buffer_setBuffer, if_pos ⟨rfl, hi⟩, Nat.add_zero]
    | succ q =>
      rw [ih (p + 1) hl _ hq, Nat.add_assoc, Nat.add_comm 1]

/-! ## The buffer request is met (R120) -/

theorem exec_bufferRequestMet {s : State} {q : KeepRequest} (hq : s.keep.request = some q) (hmet : q.met = false)
    (hcount : q.count ≤ s.setAsideBuffers) : exec .bufferRequestMet s = .next (settle
      ((s.buffersWhere fun b => b.state == .setAside).foldl (fun s i => setBuffer i Buffer.takenForKeep s)
        (setRequest (some { q with met := true }) s))) := by
  have hmeets : requestMet? s = some ((s.buffersWhere fun b => b.state == .setAside).foldl
      (fun s i => setBuffer i Buffer.takenForKeep s) (setRequest (some { q with met := true }) s)) := by
    unfold requestMet?
    rw [hq]
    dsimp only
    rw [hmet, decide_eq_true hcount]
    rfl
  show execBufferRequestMet s = _
  rw [execBufferRequestMet, hmeets, Option.getD_some]

theorem bufferRequestMet_takes {s : State} {q : KeepRequest} (hq : s.keep.request = some q) (hmet : q.met = false)
    (hcount : q.count ≤ s.setAsideBuffers) :
    ∃ u, exec .bufferRequestMet s = .next (settle u) ∧ u.keep.request = some { q with met := true }
      ∧ ∀ i < Config.bufferCount, u.buffer i = if (s.buffer i).state = .setAside then
          { Buffer.empty with state := .taken, cls := some .keep, owner := .keep } else s.buffer i := by
  refine ⟨_, exec_bufferRequestMet hq hmet hcount, ?_, fun i hi => ?_⟩
  · rw [(engineOnly_setBuffers _ _ _).request]
    rfl
  · rw [buffer_setBuffers _ _ _ hi]
    have hmem : i ∈ s.buffersWhere (fun b => b.state == .setAside) ↔ (s.buffer i).state = .setAside := by
      rw [mem_buffersWhere, beq_iff_eq]
      exact and_iff_right hi
    exact if_congr hmem rfl rfl

/-! ## The start of a chunk (R141) -/

theorem freePartTag_of_lowest {s : State} {t : Nat} (h : s.lowestPartTag t) : s.freePartTag = some t := by
  obtain ⟨hlo, hhi, hfree, hlowest⟩ := h
  have hrising : ((List.range Config.tagCount).filter fun t => decide (s.hostTags ≤ t)).Pairwise fun a b => id a < id b :=
    List.pairwise_lt_range.filter _
  refine find?_eq_some_of_rising hrising (List.mem_filter.mpr ⟨List.mem_range.mpr hhi, decide_eq_true hlo⟩)
    (by rw [hfree]; rfl) fun x hx hlt => ?_
  have hpart : s.hostTags ≤ x := of_decide_eq_true (List.mem_filter.mp hx).2
  exact Option.isNone_eq_false_iff.mpr (Option.isSome_iff_ne_none.mpr (hlowest x hpart hlt))

theorem exec_keepChunkStart {s : State} {j : Job} {rest : List Job} {q : KeepRequest} {t : Nat} (hqueue : s.keep.queue = j :: rest)
    (hq : s.keep.request = some q) (hmet : q.met = true) (hchunk : s.keep.chunk = none) (hwait : s.tracker.tagWait = [])
    (hup : s.driveUp) (ht : s.lowestPartTag t) :
    exec .keepChunkStart s = .next (settle (startChunk j q.count t s)) := by
  have hactive : s.activeJob = some j := by rw [State.activeJob, hqueue, List.head?_cons]
  have hstarts : chunkStart? s = some (startChunk j q.count t s) := by
    unfold chunkStart?
    rw [hactive, hq, freePartTag_of_lowest ht]
    dsimp only
    rw [hmet, hwait, (driveUsable_iff s).mpr hup, hchunk]
    rfl
  show execKeepChunkStart s = _
  rw [execKeepChunkStart, hstarts, Option.getD_some]

section Started
variable (j : Job) (n t h : Nat) (sources : List (Nat × Capture)) (target : Capture) (s : State)

/-- The chunk that starts (R141). -/
def State.newChunk : Chunk :=
  { count := n, tag := t, sources := sources, target := target, counted := s.matchedEntries h n, readEnded := false,
    zeroSource := false }

/-- The state that holds the new chunk, its buffers in their places. -/
def State.chunkTaken : State :=
  mapActive (fun j => { j with phase := .reading }) (setChunk (some (s.newChunk n t h sources target)) (setRequest none
    (placeBuffers j h sources 0 (s.buffersWhere fun b => b.owner == .keep) s)))

/-- The state in which the chunk has taken its counts and its tag. -/
def State.chunkCounted : State :=
  setTag t (some .keep) (usersUp [j.ring] (countUp (s.matchedEntries h n) (s.chunkTaken j n t h sources target)))

theorem startChunk_of_ok {disk left : Nat} (htarget : j.target = some (h, disk, left))
    (hkeys : s.chunkKeys j h disk n = .ok (sources, target)) : startChunk j n t s =
    handOver (keepCommand t .read (((s.chunkCounted j n t h sources target).ring j.ring).fold j.cursor) n h)
      (s.chunkCounted j n t h sources target) := by
  simp only [startChunk, htarget, hkeys]
  rfl

theorem startChunk_of_error {disk left : Nat} (htarget : j.target = some (h, disk, left)) {why : FailReason}
    (hkeys : s.chunkKeys j h disk n = .error why) : startChunk j n t s = endActive (.failed why) (withdrawRequest s) := by
  simp only [startChunk, htarget, hkeys]

/-- Taking the chunk touches the pool and the Keep Unit alone. -/
theorem chunkTaken_eq : s.chunkTaken j n t h sources target =
    { s with engine := (s.chunkTaken j n t h sources target).engine, keep := (s.chunkTaken j n t h sources target).keep } := by
  have hplaced := engineOnly_placeBuffers j h sources 0 (s.buffersWhere fun b => b.owner == .keep) s
  unfold State.chunkTaken
  rw [hplaced]
  rfl

variable {j s} {rest : List Job}

theorem keep_chunkTaken (hqueue : s.keep.queue = j :: rest) : (s.chunkTaken j n t h sources target).keep =
    { s.keep with request := none, chunk := some (s.newChunk n t h sources target), queue := { j with phase := .reading } :: rest } := by
  have hplaced := engineOnly_placeBuffers j h sources 0 (s.buffersWhere fun b => b.owner == .keep) s
  unfold State.chunkTaken
  rw [hplaced]
  refine (congrArg State.keep (mapActive_eq (a := j) (rest := rest) ?_ _)).trans rfl
  exact hqueue

theorem keep_chunkCounted (hqueue : s.keep.queue = j :: rest) : (s.chunkCounted j n t h sources target).keep =
    { s.keep with request := none, chunk := some (s.newChunk n t h sources target), queue := { j with phase := .reading } :: rest } := by
  show (usersUp [j.ring] (countUp _ _)).keep = _
  rw [usersUp_keep, countUp_keep, keep_chunkTaken n t h sources target hqueue]

variable (j s)

theorem entry_chunkCounted {i : Nat} (hi : i < Config.regionCount) : (s.chunkCounted j n t h sources target).entry i =
    { s.entry i with inFlight := (s.entry i).inFlight + if i ∈ s.matchedEntries h n then 1 else 0 } := by
  have hregions : (s.chunkCounted j n t h sources target).regions
      = (countUp (s.matchedEntries h n) (s.chunkTaken j n t h sources target)).regions :=
    usersUp_regions [j.ring] (countUp (s.matchedEntries h n) (s.chunkTaken j n t h sources target))
  have hentry : (s.chunkCounted j n t h sources target).entry i
      = (countUp (s.matchedEntries h n) (s.chunkTaken j n t h sources target)).entry i := by
    unfold State.entry
    rw [hregions]
  have hbefore : (s.chunkTaken j n t h sources target).entry i = s.entry i := by rw [chunkTaken_eq]; rfl
  rw [hentry, entry_countUp _ _ hi, hbefore, count_of_nodup (matchedEntries_nodup s h n)]

theorem ring_chunkCounted (r : Nat) : (s.chunkCounted j n t h sources target).ring r =
    { s.ring r with users := ((s.chunkCounted j n t h sources target).ring r).users } := by
  have hbefore : (countUp (s.matchedEntries h n) (s.chunkTaken j n t h sources target)).ring r = s.ring r := by
    rw [ring_congr (countUp_rings _ _), chunkTaken_eq]
    rfl
  show (mapRing j.ring (fun x => { x with users := x.users + 1 })
    (countUp (s.matchedEntries h n) (s.chunkTaken j n t h sources target))).ring r = { s.ring r with users :=
      ((mapRing j.ring (fun x => { x with users := x.users + 1 })
        (countUp (s.matchedEntries h n) (s.chunkTaken j n t h sources target))).ring r).users }
  rw [ring_mapRing, hbefore]
  split
  · rename_i hr
    rw [← hr.1, hbefore]
  · rfl

theorem users_chunkCounted {r : Nat} (hr : r < Config.ringCount) :
    ((s.chunkCounted j n t h sources target).ring r).users = (s.ring r).users + if r = j.ring then 1 else 0 := by
  have hbefore : (countUp (s.matchedEntries h n) (s.chunkTaken j n t h sources target)).ring r = s.ring r := by
    rw [ring_congr (countUp_rings _ _), chunkTaken_eq]
    rfl
  show ((usersUp [j.ring] (countUp (s.matchedEntries h n) (s.chunkTaken j n t h sources target))).ring r).users = _
  rw [users_usersUp _ _ hr, hbefore, count_of_nodup (List.nodup_singleton j.ring)]
  exact congrArg _ (if_congr List.mem_singleton rfl rfl)

theorem tagUser_chunkCounted (ht : t < Config.tagCount) : (s.chunkCounted j n t h sources target).tagUser t = some .keep := by
  unfold State.chunkCounted
  rw [tagUser_setTag, if_pos ⟨rfl, ht⟩]

theorem issueOrder_chunkCounted : (s.chunkCounted j n t h sources target).drive.issueOrder = s.drive.issueOrder := by
  show (usersUp [j.ring] (countUp _ _)).drive.issueOrder = _
  rw [usersUp_drive, countUp_drive, chunkTaken_eq]

/-- Each sector of the chunk has its buffer. -/
theorem buffer_chunkCounted (hcount : ((List.range Config.bufferCount).countP fun i => (s.buffer i).owner == .keep) = n) {p : Nat}
    (hp : p < n) : ∃ i < Config.bufferCount, (s.buffer i).owner = .keep
      ∧ (s.chunkCounted j n t h sources target).buffer i = j.placedBuffer h sources p := by
  have hlen : (s.buffersWhere fun b => b.owner == .keep).length = n := by
    rw [buffersWhere_eq, ← List.countP_eq_length_filter]
    exact hcount
  have hq : (s.buffersWhere fun b => b.owner == .keep)[p]? = some (s.buffersWhere fun b => b.owner == .keep)[p] :=
    List.getElem?_eq_getElem (by rw [hlen]; exact hp)
  obtain ⟨hi, howner⟩ := mem_buffersWhere.mp (List.mem_of_getElem? hq)
  refine ⟨_, hi, beq_iff_eq.mp howner, ?_⟩
  have hplaced := buffer_placeBuffers j h sources 0 (buffersWhere_nodup s fun b => b.owner == .keep) s hq hi
  rw [Nat.zero_add] at hplaced
  have hengine : (s.chunkCounted j n t h sources target).engine
      = (placeBuffers j h sources 0 (s.buffersWhere fun b => b.owner == .keep) s).engine := by
    show (usersUp [j.ring] (countUp _ _)).engine = _
    rw [usersUp_eq, countUp_eq]
    rfl
  rw [← hplaced]
  unfold State.buffer
  rw [hengine]

end Started

/-! ## A start that fails (R141, R151) -/

theorem unqueued_releaseList (l : List Nat) (s : State) :
    QueuesShrink s (l.foldl (fun s i => releaseNow i s) s) ∧ ∀ i ∈ l, (l.foldl (fun s i => releaseNow i s) s).unqueued i := by
  induction l generalizing s with
  | nil => exact ⟨⟨.refl _, .refl _, .refl _⟩, nofun⟩
  | cons m l ih =>
    obtain ⟨-, -, -, hout, hshrink⟩ := releaseNow_spec m s
    obtain ⟨hlater, hall⟩ := ih (releaseNow m s)
    refine ⟨hshrink.trans hlater, fun i hi => ?_⟩
    rcases List.mem_cons.mp hi with rfl | hl
    · exact hout.mono hlater
    · exact hall i hl

/-- The buffers of a withdrawn request are Free and in no queue; the others stay (R140, R141). -/
theorem pool_withdrawRequest {s : State} (hr : s.keep.request ≠ none) {i : Nat} (hi : i < Config.bufferCount) :
    if (s.buffer i).owner = .keep then
      (withdrawRequest s).buffer i = Buffer.empty ∧ i ∉ (withdrawRequest s).engine.keepQ
    else (withdrawRequest s).buffer i = s.buffer i := by
  obtain ⟨q, hq⟩ := Option.ne_none_iff_exists'.mp hr
  have hmem : i ∈ s.buffersWhere (fun b => b.owner == .keep) ↔ (s.buffer i).owner = .keep := by
    rw [mem_buffersWhere, beq_iff_eq]
    exact and_iff_right hi
  have hbuffer := buffer_releaseList_of_none (s.buffersWhere fun b => b.owner == .keep)
    (s := { s with keep := { s.keep with request := none } }) rfl hi
  have hqueues := (unqueued_releaseList (s.buffersWhere fun b => b.owner == .keep) { s with keep := { s.keep with request := none } }).2 i
  have hw : withdrawRequest s = (s.buffersWhere fun b => b.owner == .keep).foldl (fun s i => releaseNow i s)
      { s with keep := { s.keep with request := none } } := by
    unfold withdrawRequest
    rw [hq]
    rfl
  rw [hw]
  split
  · rename_i ho
    obtain ⟨-, -, hkeepQ⟩ := hqueues (hmem.mpr ho)
    exact ⟨hbuffer.trans (if_pos (hmem.mpr ho)), hkeepQ⟩
  · rename_i ho
    exact hbuffer.trans (if_neg (mt hmem.mp ho))

/-- The job of a chunk that cannot start ends, and its buffer request is withdrawn. -/
theorem endActive_withdrawRequest {s : State} {j : Job} {rest : List Job} (hqueue : s.keep.queue = j :: rest) (o : JobOutcome) :
    endActive o (withdrawRequest s) = { s with
      engine := (withdrawRequest s).engine
      keep := { s.keep with
        request := none
        queue := s.keep.queue.filter fun x => decide (x.id ≠ j.id)
        outcomes := (j.entry o :: s.keep.outcomes).take Config.outcomePlaces }
      line := { s.line with latched := s.line.latched ||| 0x04#8 } } := by
  have hkeep : (withdrawRequest s).keep = { s.keep with request := none } := by rw [withdrawRequest_eq]
  have hactive : (withdrawRequest s).activeJob = some j := by rw [State.activeJob, hkeep, hqueue, List.head?_cons]
  unfold endActive
  rw [hactive, withdrawRequest_eq]
  rfl

/-- Settles O56. -/
theorem keepStarts : Obligations.KeepStarts := by
  intro s
  refine ⟨rfl, fun q hq hmet hcount => bufferRequestMet_takes hq hmet hcount,
    fun j rest q t h disk left hqueue hq hmet hpos hchunk hwait hup ht hdest law => ?_⟩
  have hexec := exec_keepChunkStart hqueue hq hmet hchunk hwait hup ht
  have htarget := target_of_destinationAt hdest
  obtain ⟨-, htag, hfree, -⟩ := ht
  constructor
  · rintro ⟨pairs, hv⟩
    obtain ⟨sources, target, hkeys, hverdict⟩ := chunkKeys_of_ok law hpos hv
    rw [startChunk_of_ok j q.count t h sources target s htarget hkeys] at hexec
    have hkeep := keep_chunkCounted q.count t h sources target hqueue
    refine ⟨_, s.newChunk q.count t h sources target, hexec, congrArg KeepUnit.request hkeep, congrArg KeepUnit.queue hkeep,
      congrArg KeepUnit.chunk hkeep, rfl, rfl, hverdict, matchedEntries_nodup s h q.count, fun i => mem_matchedEntries,
      fun i hi => entry_chunkCounted j q.count t h sources target s hi, rfl, rfl, fun hcount p hp => ?_,
      tagUser_chunkCounted j q.count t h sources target s htag, ?_, fun r hr => users_chunkCounted j q.count t h sources target s hr⟩
    · exact buffer_chunkCounted j q.count t h sources target s hcount hp
    · show (s.chunkCounted j q.count t h sources target).drive.issueOrder ++ _ = _
      rw [issueOrder_chunkCounted, ring_chunkCounted]
      rfl
  · intro why hv
    rw [startChunk_of_error j q.count t h s htarget (chunkKeys_of_error law hpos hv), endActive_withdrawRequest hqueue] at hexec
    have hne : s.keep.request ≠ none := by rw [hq]; nofun
    refine ⟨_, hexec, rfl, hchunk, fun x hx => of_decide_eq_true (List.mem_filter.mp hx).2, rfl, rfl, fun i hi => ?_, rfl, rfl, rfl,
      hfree⟩
    have hpool := pool_withdrawRequest hne hi
    split at hpool
    · rename_i ho
      obtain ⟨hbuffer, hkeepQ⟩ := hpool
      rw [if_pos ho]
      exact ⟨congrArg Buffer.state hbuffer, congrArg Buffer.cls hbuffer, hkeepQ⟩
    · rename_i ho
      rw [if_neg ho]
      exact hpool

end Sys2Proof.Machine
end

section
/-! SUPPORT. The ring descriptors under the shared operations of the internal steps: all but the steps of a record leave every ring
as it was but for its user count, and those steps keep the laws of R46, R47, R58 and R63. -/

namespace Sys2Proof.Machine

/-! ## Rings left as they were, but for their user counts -/

/-- Every ring stays as it was, but for its user count. -/
def RingsSame (s t : State) : Prop := ∀ q, t.ring q = { s.ring q with users := (t.ring q).users }

theorem RingsSame.of_eq {s t : State} (h : t.rings = s.rings) : RingsSame s t := fun q => by
  rw [ring_congr h]

theorem RingsSame.refl (s : State) : RingsSame s s := .of_eq rfl

theorem RingsSame.trans {s t u : State} (h : RingsSame s t) (k : RingsSame t u) : RingsSame s u := fun q => by
  rw [k q, h q]

/-- The same, read backwards from the later state. -/
theorem RingsSame.after {s t u : State} (k : RingsSame t u) (h : RingsSame s t) : RingsSame s u := h.trans k

/-- The same, before a change that leaves the rings. -/
theorem RingsSame.and {s t u : State} (h : RingsSame s t) (hr : u.rings = t.rings) : RingsSame s u := h.trans (.of_eq hr)

theorem RingsSame.foldl {α : Type} (f : State → α → State) (hf : ∀ s a, RingsSame s (f s a)) (l : List α) (s : State) :
    RingsSame s (l.foldl f s) := by
  induction l generalizing s with
  | nil => exact .refl s
  | cons a l ih => exact (hf s a).trans (ih (f s a))

theorem RingsSame.cond (b : Bool) {s t u : State} (h : RingsSame s t) (k : RingsSame s u) : RingsSame s (bif b then t else u) := by
  cases b <;> assumption

theorem RingsSame.of_engineOnly {s t : State} (h : EngineOnly s t) : RingsSame s t := by
  unfold EngineOnly at h
  rw [h]
  exact .of_eq rfl

theorem ringsSame_mapRing {r : Nat} {f : Ring → Ring} (hf : ∀ x : Ring, f x = { x with users := (f x).users }) (s : State) :
    RingsSame s (mapRing r f s) := fun q => by
  rw [ring_mapRing]
  split
  · rename_i h
    rw [h.1]
    exact hf _
  · rfl

theorem ringsSame_usersUp (l : List Nat) (s : State) : RingsSame s (usersUp l s) :=
  .foldl _ (fun s _ => ringsSame_mapRing (f := fun x => { x with users := x.users + 1 }) (fun _ => rfl) s) l s

theorem ringsSame_usersDown (l : List Nat) (s : State) : RingsSame s (usersDown l s) :=
  .foldl _ (fun s _ => ringsSame_mapRing (f := fun x => { x with users := x.users - 1 }) (fun _ => rfl) s) l s

theorem ringsSame_countUp (l : List Nat) (s : State) : RingsSame s (countUp l s) := by
  rw [countUp_eq]
  exact .of_eq rfl

theorem ringsSame_countDown (l : List Nat) (s : State) : RingsSame s (countDown l s) := by
  rw [countDown_eq]
  exact .of_eq rfl

theorem ringsSame_releaseNow (i : Nat) (s : State) : RingsSame s (releaseNow i s) := .of_engineOnly (engineOnly_releaseNow i s)

theorem ringsSame_releaseBuffer (i : Nat) (s : State) : RingsSame s (releaseBuffer i s) :=
  .cond _ (.of_eq rfl) (ringsSame_releaseNow i s)

theorem ringsSame_releaseOwner (o : Owner) (s : State) : RingsSame s (releaseOwner o s) :=
  .of_engineOnly (engineOnly_releaseOwner o s)

theorem ringsSame_withdrawRequest (s : State) : RingsSame s (withdrawRequest s) := .of_eq (withdrawRequest_rings s)

theorem ringsSame_joinQueue (c : BufClass) (i : Nat) (s : State) : RingsSame s (joinQueue c i s) := by
  cases c <;> exact .of_eq rfl

theorem ringsSame_enterKeyWait (k : RecordKey) (ids : List ProgId) (s : State) : RingsSame s (enterKeyWait k ids s) := by
  rw [enterKeyWait_eq]
  exact .of_eq rfl

theorem ringsSame_latchIf (b : Bool) (c : Cause) (s : State) : RingsSame s (latchIf b c s) := by
  rw [latchIf_eq]
  exact .of_eq rfl

theorem ringsSame_missHandling (k : RecordKey) (ids : List ProgId) (s : State) : RingsSame s (missHandling k ids s) :=
  .cond _ (.of_eq rfl) (.after (ringsSame_enterKeyWait _ _ _) (.after (ringsSame_latchIf _ _ _) (.of_eq rfl)))

/-! ## The Keep Unit -/

theorem ringsSame_endActive (o : JobOutcome) (s : State) : RingsSame s (endActive o s) := by
  unfold endActive
  split <;> exact .of_eq rfl

theorem ringsSame_endChunk (s : State) : RingsSame s (endChunk s) := by
  unfold endChunk
  split
  · refine .and (t := usersDown _ _) ?_ rfl
    exact .after (ringsSame_usersDown _ _) (.after (ringsSame_countDown _ _) (ringsSame_releaseOwner _ s))
  · exact .refl s

theorem ringsSame_stopActive (o : JobOutcome) (s : State) : RingsSame s (stopActive o s) := by
  unfold stopActive
  split
  · exact .refl s
  · refine .cond _ (.refl s) ?_
    split
    · refine .and (t := releaseOwner .keep _) ?_ rfl
      exact .after (ringsSame_releaseOwner _ _) (.of_eq rfl)
    · exact .after (ringsSame_endActive _ _) (ringsSame_endChunk s)
    · exact .of_eq rfl
    · exact .after (ringsSame_endActive _ _) (ringsSame_withdrawRequest s)

theorem ringsSame_stopJob (o : JobOutcome) (s : State) (id : Nat) : RingsSame s (stopJob o s id) := by
  unfold stopJob
  split
  · exact .refl s
  · refine .cond _ (ringsSame_stopActive o s) ?_
    split <;> exact .of_eq rfl

theorem ringsSame_stopJobs (p : Job → Bool) (o : JobOutcome) (s : State) : RingsSame s (stopJobs p o s) :=
  .foldl _ (ringsSame_stopJob o) _ s

theorem ringsSame_truncateJob (s : State) (id : Nat) : RingsSame s (truncateJob s id) := by
  unfold truncateJob
  split
  · exact .refl s
  · refine .cond _ (.cond _ (.refl s) ?_) ?_
    · split
      · exact .after (ringsSame_stopActive _ _) (.of_eq rfl)
      · exact .of_eq rfl
      · exact .of_eq rfl
      · exact .after (ringsSame_stopActive _ _) (.of_eq rfl)
    · split <;> exact .of_eq rfl

theorem ringsSame_markZeroSource (s : State) : RingsSame s (markZeroSource s) := by
  unfold markZeroSource
  dsimp only
  refine .and (t := List.foldl _ _ _) (.after (.foldl _ (fun s i => ?_) _ _) (.foldl _ (fun s i => ?_) _ s)) rfl
  · refine .cond _ (.of_eq rfl) (.after (ringsSame_joinQueue _ _ _) ?_)
    exact .of_eq rfl
  · exact .of_eq rfl

theorem ringsSame_keepReadEnded (good : Bool) (s : State) : RingsSame s (keepReadEnded good s) := by
  unfold keepReadEnded
  split
  · split
    · exact .after (ringsSame_endActive _ _) (ringsSame_endChunk s)
    · refine .cond _ (.of_eq rfl) ?_
      split
      · exact .after (ringsSame_endActive _ _) (ringsSame_endChunk s)
      · exact .after (ringsSame_markZeroSource _) (.of_eq rfl)
  · exact .refl s

theorem ringsSame_afterWrite (good : Bool) (s : State) : RingsSame s (afterWrite good s) := by
  unfold afterWrite
  split
  · exact .refl s
  · split
    · exact ringsSame_endActive _ s
    · exact .cond _ (ringsSame_endActive _ s) (.cond _ (ringsSame_endActive _ s) (.refl s))

theorem ringsSame_keepWriteEnded (good : Bool) (s : State) : RingsSame s (keepWriteEnded good s) := by
  unfold keepWriteEnded
  split
  · exact .after (ringsSame_afterWrite _ _) ((ringsSame_endChunk s).and rfl)
  · exact .refl s

theorem ringsSame_dropChunk (s : State) : RingsSame s (dropChunk s) := by
  unfold dropChunk
  split
  · have h : RingsSame s (endChunk (removeDown (fun c => c.user == .keep) s)) := .after (ringsSame_endChunk _) (.of_eq rfl)
    dsimp only
    split
    · exact .after (ringsSame_endActive _ _) h
    · exact .cond _ (.after (ringsSame_endActive _ _) (h.and rfl)) h
  · exact .refl s

theorem ringsSame_startChunk (j : Job) (n t : Nat) (s : State) : RingsSame s (startChunk j n t s) := by
  unfold startChunk
  split
  · exact .after (ringsSame_endActive _ _) (ringsSame_withdrawRequest s)
  · split
    · exact .after (ringsSame_endActive _ _) (ringsSame_withdrawRequest s)
    · refine .and (t := usersUp _ _) ?_ rfl
      refine .after (ringsSame_usersUp _ _) (.after (ringsSame_countUp _ _) ?_)
      exact (RingsSame.of_engineOnly (engineOnly_placeBuffers j _ _ 0 _ s)).and rfl

/-- What an operation that may not apply answers has the rings of its argument. -/
def RingsSameBy (f : State → Option State) : Prop := ∀ s t, f s = some t → RingsSame s t

theorem ringsSameBy_placeRequest : RingsSameBy placeRequest? := by
  intro s t h
  unfold placeRequest? at h
  split at h
  · cases h
  · dsimp only [cond] at h
    split at h <;> cases h
    exact .after (.of_engineOnly (engineOnly_setBuffers _ _ _)) (.of_eq rfl)

theorem ringsSameBy_requestMet : RingsSameBy requestMet? := by
  intro s t h
  unfold requestMet? at h
  split at h
  · cases h
  · dsimp only [cond] at h
    split at h <;> cases h
    exact .after (.of_engineOnly (engineOnly_setBuffers _ _ _)) (.of_eq rfl)

theorem ringsSameBy_chunkStart : RingsSameBy chunkStart? := by
  intro s t h
  unfold chunkStart? at h
  split at h
  · dsimp only [cond] at h
    split at h <;> cases h
    exact ringsSame_startChunk _ _ _ s
  · cases h

theorem ringsSameBy_destinationWrite : RingsSameBy destinationWrite? := by
  intro s t h
  unfold destinationWrite? at h
  split at h
  · split at h
    · dsimp only [cond] at h
      split at h <;> cases h
      exact .of_eq rfl
    · cases h
  · cases h

/-! ## Transfers -/

theorem ringsSame_releaseWhere (p : Buffer → Bool) (s : State) : RingsSame s (releaseWhere p s) :=
  .foldl _ (fun s i => ringsSame_releaseBuffer i s) _ s

theorem ringsSame_discardInvited (k : RecordKey) (lo hi : Nat) (s : State) : RingsSame s (discardInvited k lo hi s) := by
  unfold discardInvited
  refine .foldl _ (fun s i => ?_) _ s
  exact .of_eq rfl

theorem ringsSame_dropFailedData (k : RecordKey) (second : Bool) (s : State) : RingsSame s (dropFailedData k second s) := by
  unfold dropFailedData
  split
  · exact .refl s
  · exact .cond _ (.after (ringsSame_releaseWhere _ _) (.of_eq rfl)) (.after (ringsSame_releaseWhere _ _)
      (.after (ringsSame_discardInvited _ _ _ _) (.of_eq rfl)))

theorem ringsSame_freeTag (t : Option Nat) (s : State) : RingsSame s (freeTag t s) := by
  cases t <;> exact .of_eq rfl

theorem ringsSame_releaseSplitTag (k : RecordKey) (s : State) : RingsSame s (releaseSplitTag k s) := by
  unfold releaseSplitTag
  split
  · split
    · exact (ringsSame_freeTag _ s).and rfl
    · exact .refl s
  · exact .refl s

theorem ringsSame_partEnded (k : RecordKey) (second : Bool) (st : PartStatus) (s : State) :
    RingsSame s (partEnded k second st s) := by
  unfold partEnded
  dsimp only
  split
  · cases second
    · exact .after (ringsSame_releaseSplitTag _ _) (.after (ringsSame_dropFailedData _ _ _) (.of_eq rfl))
    · exact .after (ringsSame_dropFailedData _ _ _) (.of_eq rfl)
  · exact .of_eq rfl

theorem ringsSame_endToUser (c : DownCmd) (st : PartStatus) (s : State) : RingsSame s (endToUser c st s) := by
  unfold endToUser
  split
  · exact ringsSame_partEnded _ _ _ s
  · exact ringsSame_partEnded _ _ _ s
  · cases c.op == .read
    · exact ringsSame_keepWriteEnded _ s
    · exact ringsSame_keepReadEnded _ s

theorem ringsSame_stopSending (tag : Option Nat) (s : State) : RingsSame s (stopSending tag s) := by
  unfold stopSending
  split
  · exact .cond _ (.of_eq rfl) (.refl s)
  · exact .refl s

theorem ringsSame_endDown (c : DownCmd) (st : PartStatus) (s : State) : RingsSame s (endDown c st s) :=
  .after (ringsSame_endToUser _ _ _) (.after (.cond _ (.refl _) (ringsSame_freeTag _ _))
    (.after (ringsSame_stopSending _ _) (.of_eq rfl)))

theorem ringsSame_failAll (error : Byte) (s : State) : RingsSame s (failAll error s) :=
  .foldl _ (fun _ _ => ringsSame_endDown _ _ _) _ s

theorem ringsSame_breakCommand (tag : Option Nat) (s : State) : RingsSame s (breakCommand tag s) :=
  (ringsSame_stopSending tag s).and rfl

theorem ringsSame_takeReadSector (k : RecordKey) (lba : Nat) (data : Sector) (i : Nat) (r : Record) (s : State) :
    RingsSame s (takeReadSector k lba data i r s) := by
  unfold takeReadSector
  refine .cond _ (.refl s) ?_
  dsimp only
  split
  · exact .after (ringsSame_joinQueue _ _ _) (.of_eq rfl)
  · exact .of_eq rfl

theorem ringsSame_takeKeepSector (lba : Nat) (data : Sector) (s : State) : RingsSame s (takeKeepSector lba data s) := by
  unfold takeKeepSector
  split
  · exact .after (ringsSame_joinQueue _ _ _) (.of_eq rfl)
  · exact .refl s

theorem ringsSame_takeSector {c : DownCmd} {data : Sector} {s t : State} (h : takeSector c data s = some t) : RingsSame s t := by
  unfold takeSector at h
  split at h
  · cases h
    exact .after (ringsSame_takeKeepSector _ _ _) (.of_eq rfl)
  · split at h
    · dsimp only [cond] at h
      split at h <;> cases h
      exact .after (ringsSame_takeReadSector _ _ _ _ _ _) (.of_eq rfl)
    · cases h
      exact .of_eq rfl
    · cases h

theorem ringsSame_takeData {tag : Option Nat} {offset : Nat} {sectors : List Sector} {rest : List DiskFrame} {s t : State}
    (h : takeData tag offset sectors rest s = some t) : RingsSame s t := by
  unfold takeData at h
  split at h
  · cases h
    exact .of_eq rfl
  · cases h
    exact .of_eq rfl
  · dsimp only [cond] at h
    split at h
    · cases h
      exact .of_eq rfl
    · split at h
      · cases h
        exact (ringsSame_breakCommand tag s).and rfl
      · obtain ⟨u, hu, rfl⟩ := Option.map_eq_some_iff.mp h
        exact (ringsSame_takeSector hu).and rfl

theorem ringsSame_takeWriteRequest (tag : Option Nat) (n : Nat) (s : State) : RingsSame s (takeWriteRequest tag n s) := by
  unfold takeWriteRequest
  split
  · exact .refl s
  · refine .cond _ (.refl s) (.cond _ (ringsSame_breakCommand tag s) (.cond _ (.refl s) ?_))
    dsimp only
    split <;> exact .of_eq rfl

theorem ringsSame_takeEnd (tag : Option Nat) (good : Bool) (error : Byte) (lba : Nat) (s : State) :
    RingsSame s (takeEnd tag good error lba s) := by
  unfold takeEnd
  split
  · exact .refl s
  · exact ringsSame_endDown _ _ s

theorem ringsSame_takeOne {f : DiskFrame} {rest : List DiskFrame} {s t : State} (h : takeOne f rest s = some t) :
    RingsSame s t := by
  cases f with
  | data tag offset sectors => exact ringsSame_takeData h
  | writeRequest tag n => cases h; exact .after (ringsSame_takeWriteRequest _ _ _) (.of_eq rfl)
  | commandEnd tag good error lba => cases h; exact .after (ringsSame_takeEnd _ _ _ _ _) (.of_eq rfl)
  | failure error => cases h; exact .after (ringsSame_failAll _ _) (.of_eq rfl)

theorem ringsSameBy_takeFrame : RingsSameBy takeFrame? := by
  intro s t h
  unfold takeFrame? at h
  split at h
  · cases h
  · exact ringsSame_takeOne h

theorem ringsSameBy_wakeDrive : RingsSameBy wakeDrive? := by
  intro s t h
  unfold wakeDrive? at h
  split at h <;> cases h
  exact .of_eq rfl

theorem ringsSameBy_sendCommand : RingsSameBy sendCommand? := by
  intro s t h
  unfold sendCommand? at h
  split at h
  · dsimp only [cond] at h
    split at h <;> cases h
    exact .of_eq rfl
  · cases h

theorem ringsSameBy_sendSector : RingsSameBy sendSector? := by
  intro s t h
  unfold sendSector? at h
  dsimp only [cond] at h
  split at h
  · split at h
    · cases h
    · cases h
      split
      · refine .and (t := releaseBuffer _ _) (.after (ringsSame_releaseBuffer _ _) ?_) rfl
        exact .of_eq rfl
      · exact .after (ringsSame_releaseBuffer _ _) (.of_eq rfl)
  · cases h

theorem ringsSameBy_secondPart (k : RecordKey) : RingsSameBy (secondPart? k) := by
  intro s t h
  unfold secondPart? at h
  split at h
  · cases h
  · split at h
    · cases h
    · dsimp only [cond] at h
      split at h <;> cases h
      exact .of_eq rfl

theorem ringsSameBy_decide (k : RecordKey) : RingsSameBy (decide? k) := by
  intro s t h
  unfold decide? at h
  split at h
  · cases h
  · dsimp only [cond] at h
    split at h <;> cases h
    exact .of_eq rfl

theorem ringsSameBy_applyPending (i : Nat) : RingsSameBy (applyPending? i) := by
  intro s t h
  unfold applyPending? at h
  dsimp only [cond] at h
  split at h <;> cases h
  exact .of_eq rfl

theorem ringsSameBy_systemPortReady : RingsSameBy systemPortReady? := by
  intro s t h
  unfold systemPortReady? at h
  dsimp only [cond] at h
  split at h <;> cases h
  exact .of_eq rfl

theorem ringsSameBy_wakeSystem : RingsSameBy wakeSystem? := by
  intro s t h
  unfold wakeSystem? at h
  split at h
  · dsimp only [cond] at h
    split at h <;> cases h
    exact .of_eq rfl
  · cases h

end Sys2Proof.Machine
end

section
/-! SUPPORT. The laws of the rings (R46, R47, R58, R63) over the steps of a record and over `settle`. -/

namespace Sys2Proof.Machine

/-! ## The records of the Command Table -/

theorem record?_isSome_iff (s : State) (k : RecordKey) :
    (s.record? k).isSome = true ↔ k ∈ s.tracker.records.map Record.key := by
  rw [Option.isSome_iff_ne_none, ne_eq, record?_eq_none_iff, not_not, List.mem_map]
  rfl

/-- The commands of the Command Table are those of before. -/
def KeysSame (s t : State) : Prop := t.tracker.records.map Record.key = s.tracker.records.map Record.key

theorem Settled.keysSame {s t : State} (h : Settled s t) : KeysSame s t := by
  have hk := congrArg (List.map Prod.fst) h.records
  rw [List.map_map, List.map_map] at hk
  exact hk

theorem KeysSame.isSome {s t : State} (h : KeysSame s t) {k : RecordKey} (hk : (s.record? k).isSome = true) :
    (t.record? k).isSome = true := by
  rw [record?_isSome_iff] at hk ⊢
  rw [h]
  exact hk

/-! ## One ring -/

/-- The ring keeps its laws, its shape, and the commands that its accesses belong to. -/
structure RingKept (a b : Ring) : Prop where
  law      : a.Law → b.Law
  shape    : a.ShapeLaw → b.ShapeLaw
  accesses : ∀ x ∈ b.accesses, ∃ y ∈ a.accesses, y.record = x.record

theorem RingKept.of_users {a b : Ring} (h : b = { a with users := b.users }) : RingKept a b := by
  rw [h]
  exact ⟨id, id, fun x hx => ⟨x, hx, rfl⟩⟩

theorem RingKept.refl (a : Ring) : RingKept a a := .of_users rfl

/-- The floor that the dropping of epochs leaves lies no higher than the bound (R61). -/
theorem dropEpochs_floor_le (behind floor : Nat) (es : List Epoch) : (dropEpochs behind floor es).1 ≤ max floor behind := by
  induction es generalizing floor with
  | nil => exact Nat.le_max_left _ _
  | cons e es ih =>
    cases es with
    | nil => exact Nat.le_max_left _ _
    | cons f rest =>
      unfold dropEpochs
      split
      · exact (ih f.start).trans (by omega)
      · exact Nat.le_max_left _ _

/-- The epochs of a Live ring, as its law has them. -/
theorem Ring.Law.of_live {r : Ring} (hlive : r.live = true) (hlen : r.epochs.length ≤ Config.epochPlaces)
    (hfirst : r.epochs.head?.map Epoch.start = some r.floor) (hrise : (r.epochs.map Epoch.start).Pairwise (· < ·))
    (hclaim : ∀ e ∈ r.epochs, e.start ≤ r.claim) (hfloor : r.floor ≤ r.head) (hhead : r.head ≤ r.claim) (hspan : 0 < r.span)
    (hends : ∀ a ∈ r.accesses, a.first + a.count ≤ r.claim) : r.Law :=
  ⟨fun _ => ⟨hlen, hfirst, hrise, hclaim, hfloor, hhead, hspan, hends⟩, fun h => absurd (hlive.symm.trans h) (by decide)⟩

/-- The head rises within the claim (R60), and the epochs below the window go (R61). -/
theorem raiseHead_law {r : Ring} (law : r.Law) (hlive : r.live = true) {upto : Nat} (h : upto ≤ r.claim) :
    (r.raiseHead upto).Law := by
  obtain ⟨hlen, hfirst, hrise, hclaim, hfloor, hhead, hspan, hends⟩ := law.1 hlive
  obtain ⟨hsuffix, -, hkept⟩ := dropEpochs_spec (max r.head upto - r.trail) r.floor r.epochs
  have hle := dropEpochs_floor_le (max r.head upto - r.trail) r.floor r.epochs
  refine .of_live hlive (hsuffix.length_le.trans hlen) ?_ (hrise.sublist (hsuffix.sublist.map _))
    (fun e he => hclaim e (hsuffix.subset he)) ?_ (max_le hhead h) hspan hends
  · rcases hkept with ⟨hes, hf⟩ | hf
    · exact (congrArg (fun l : List Epoch => l.head?.map Epoch.start) hes).trans (hfirst.trans (congrArg some hf.symm))
    · exact hf
  · show (dropEpochs (max r.head upto - r.trail) r.floor r.epochs).1 ≤ max r.head upto
    omega

/-- The ring with a record's accesses marked issued (R60). -/
def Ring.marked (k : RecordKey) (r : Ring) : Ring :=
  { r with accesses := r.accesses.map fun a => bif a.record == k then { a with issued := true } else a }

/-- The head of a ring raised to the ends of accesses, one after another (R60). -/
def Ring.raiseHeads (r : Ring) (l : List Access) : Ring := l.foldl (fun x a => x.raiseHead (a.first + a.count)) r

theorem issueAccesses_eq (k : RecordKey) (r : Ring) : r.issueAccesses k =
    bif r.live then (r.marked k).raiseHeads (r.accesses.filter fun a => a.record == k && a.write) else r.marked k := rfl

theorem raiseHeads_eq (r : Ring) (l : List Access) :
    r.raiseHeads l = { r with
      head := (r.raiseHeads l).head, floor := (r.raiseHeads l).floor, epochs := (r.raiseHeads l).epochs } := by
  induction l generalizing r with
  | nil => rfl
  | cons a l ih => exact ih (r.raiseHead (a.first + a.count))

theorem raiseHeads_law {r : Ring} (law : r.Law) (hlive : r.live = true) {l : List Access}
    (h : ∀ a ∈ l, a.first + a.count ≤ r.claim) : (r.raiseHeads l).Law := by
  induction l generalizing r with
  | nil => exact law
  | cons a l ih =>
    exact ih (raiseHead_law law hlive (h a List.mem_cons_self)) hlive fun b hb => h b (List.mem_cons_of_mem a hb)

theorem mem_marked {k : RecordKey} {r : Ring} {x : Access} (h : x ∈ (r.marked k).accesses) :
    ∃ a ∈ r.accesses, a.record = x.record ∧ a.first = x.first ∧ a.count = x.count := by
  obtain ⟨a, ha, rfl⟩ := List.mem_map.mp h
  refine ⟨a, ha, ?_⟩
  cases a.record == k <;> exact ⟨rfl, rfl, rfl⟩

theorem ringKept_marked (k : RecordKey) (r : Ring) : RingKept r (r.marked k) := by
  refine ⟨fun law => ⟨fun hlive => ?_, law.2⟩, id, fun x hx => ?_⟩
  · obtain ⟨hlen, hfirst, hrise, hclaim, hfloor, hhead, hspan, hends⟩ := law.1 hlive
    refine ⟨hlen, hfirst, hrise, hclaim, hfloor, hhead, hspan, fun x hx => ?_⟩
    obtain ⟨a, ha, -, hf, hc⟩ := mem_marked hx
    rw [← hf, ← hc]
    exact hends a ha
  · obtain ⟨a, ha, hr, -⟩ := mem_marked hx
    exact ⟨a, ha, hr⟩

/-- The issue of a record's accesses (R60, R61). -/
theorem ringKept_issueAccesses (k : RecordKey) (r : Ring) : RingKept r (r.issueAccesses k) := by
  have hmarked := ringKept_marked k r
  rw [issueAccesses_eq]
  cases hlive : r.live
  · exact hmarked
  · rw [cond_true]
    refine ⟨fun law => ?_, ?_, ?_⟩
    · obtain ⟨-, -, -, -, -, -, -, hends⟩ := law.1 hlive
      exact raiseHeads_law (hmarked.law law) hlive fun a ha => hends a (List.mem_filter.mp ha).1
    · rw [raiseHeads_eq]
      exact hmarked.shape
    · rw [raiseHeads_eq]
      exact hmarked.accesses

/-! ## Acceptance (R56 to R58) -/

/-- The ring with an accepted access of a record on its list, the claim moved by a write (R56, R58). -/
def Ring.accepted (k : RecordKey) (write : Bool) (q : AccessRequest) (r : Ring) : Ring :=
  { r with
    claim := bif write then max r.claim (q.first + q.count) else r.claim
    accesses := r.accesses ++ [{ record := k, write := write, first := q.first, count := q.count, issued := false }] }

theorem accessesOf_rings_nodup (runs : List Run) : ((accessesOf runs).map AccessRequest.ring).Nodup := by
  have h : (accessesOf runs).map AccessRequest.ring = distinct (runs.filterMap Run.ring) := by
    unfold accessesOf
    rw [List.map_map]
    exact List.map_id _
  rw [h]
  exact distinct_nodup _

/-- What the acceptance of accesses on different rings leaves of each ring (R56). -/
theorem ring_acceptAccesses (k : RecordKey) (write : Bool) {qs : List AccessRequest} (hnodup : (qs.map AccessRequest.ring).Nodup)
    (s : State) {p : Nat} (hp : p < Config.ringCount) : (qs.foldl (acceptAccess k write) s).ring p =
      match qs.find? fun q => q.ring == p with
      | some q => (s.ring p).accepted k write q
      | none => s.ring p := by
  induction qs generalizing s with
  | nil => rfl
  | cons q qs ih =>
    obtain ⟨hq, hnodup'⟩ := List.nodup_cons.mp hnodup
    have hone : (acceptAccess k write s q).ring p = if p = q.ring ∧ q.ring < 4 then (s.ring q.ring).accepted k write q else s.ring p :=
      ring_mapRing _ _ s p
    rw [List.foldl_cons, ih hnodup', hone]
    by_cases h : q.ring = p
    · subst h
      have hnone : qs.find? (fun x => x.ring == q.ring) = none :=
        List.find?_eq_none.mpr fun x hx he => hq (beq_iff_eq.mp he ▸ List.mem_map_of_mem hx)
      rw [hnone, List.find?_cons_of_pos (by simp), if_pos ⟨rfl, hp⟩]
    · rw [List.find?_cons_of_neg (by simpa using h), if_neg fun hc => h hc.1.symm]

/-- An access that passes its tests keeps the ring within its laws (R57, R58). -/
theorem accepted_law {s : State} {write : Bool} {q : AccessRequest} (h : s.accessFailure write q = none) (k : RecordKey)
    (law : (s.ring q.ring).Law) : ((s.ring q.ring).accepted k write q).Law := by
  unfold State.accessFailure at h
  dsimp only at h
  split at h
  · cases h
  rename_i hidle
  have hlive : (s.ring q.ring).live = true := by
    cases hl : (s.ring q.ring).live
    · rw [hl, Bool.not_false, Bool.or_true] at hidle
      exact absurd rfl hidle
    · rfl
  split at h
  · cases h
  obtain ⟨hlen, hfirst, hrise, hclaim, hfloor, hhead, hspan, hends⟩ := law.1 hlive
  have hgrow : (s.ring q.ring).claim ≤ ((s.ring q.ring).accepted k write q).claim := by
    cases write
    · exact Nat.le_refl _
    · exact Nat.le_max_left _ _
  have hown : q.first + q.count ≤ ((s.ring q.ring).accepted k write q).claim := by
    cases write
    · rw [cond_false] at h
      unfold Ring.readFailure at h
      split at h
      · cases h
      split at h
      · cases h
      rename_i hahead
      exact (Nat.not_lt.mp hahead).trans hhead
    · exact Nat.le_max_right _ _
  refine .of_live hlive hlen hfirst hrise (fun e he => (hclaim e he).trans hgrow) hfloor (hhead.trans hgrow) hspan fun a ha => ?_
  rcases List.mem_append.mp ha with ha | ha
  · exact (hends a ha).trans hgrow
  · cases List.mem_singleton.mp ha
    exact hown

/-! ## The laws over the state -/

/-- The laws of the rings hold of the one state where they hold of the other. -/
def RingLawKept (s t : State) : Prop := s.RingLaw → t.RingLaw

theorem RingLawKept.refl (s : State) : RingLawKept s s := id

theorem RingLawKept.trans {s t u : State} (h : RingLawKept s t) (k : RingLawKept t u) : RingLawKept s u := fun law => k (h law)

/-- The same, read backwards from the later state. -/
theorem RingLawKept.after {s t u : State} (k : RingLawKept t u) (h : RingLawKept s t) : RingLawKept s u := h.trans k

theorem RingLawKept.cond (b : Bool) {s t u : State} (h : RingLawKept s t) (k : RingLawKept s u) :
    RingLawKept s (bif b then t else u) := by
  cases b <;> assumption

/-- Rings that keep their laws, in a state with the same commands. -/
theorem RingLawKept.of_kept {s t : State} (hkeys : KeysSame s t) (h : ∀ q < Config.ringCount, RingKept (s.ring q) (t.ring q)) :
    RingLawKept s t := by
  intro law q hq
  obtain ⟨hlaw, hshape, haccesses⟩ := law q hq
  obtain ⟨klaw, kshape, kaccesses⟩ := h q hq
  refine ⟨klaw hlaw, kshape hshape, fun a ha => hkeys.isSome ?_⟩
  obtain ⟨b, hb, he⟩ := kaccesses a ha
  rw [← he]
  exact haccesses b hb

theorem RingLawKept.of_same {s t : State} (hkeys : KeysSame s t) (h : RingsSame s t) : RingLawKept s t :=
  .of_kept hkeys fun q _ => .of_users (h q)

theorem RingLawKept.of_settled {s t : State} (hsettled : Settled s t) (h : RingsSame s t) : RingLawKept s t :=
  .of_same hsettled.keysSame h

theorem keysSame_mapRecord {k : RecordKey} {f : Record → Record} (hf : ∀ r, (f r).key = r.key) (s : State) :
    KeysSame s (mapRecord k f s) := by
  unfold KeysSame mapRecord
  rw [List.map_map]
  refine List.map_congr_left fun r _ => ?_
  show (bif r.key == k then f r else r).key = r.key
  cases r.key == k
  · rfl
  · exact hf r

/-- A change of one record that keeps its key. -/
theorem ringLawKept_mapRecord (k : RecordKey) (f : Record → Record) (s : State) (hf : ∀ r, (f r).key = r.key) :
    RingLawKept s (mapRecord k f s) := .of_same (keysSame_mapRecord hf s) (.of_eq rfl)

theorem ringLawKept_holdIn (k : RecordKey) (st : RecordState) (s : State) : RingLawKept s (holdIn k st s) :=
  ringLawKept_mapRecord _ _ s fun _ => rfl

/-- A change of the Command Tracker's orders alone. -/
theorem ringLawKept_tracker (x : Tracker) (s : State) (h : x.records = s.tracker.records) :
    RingLawKept s { s with tracker := x } := .of_same (congrArg (List.map Record.key) h) (.of_eq rfl)

theorem ringLawKept_setDrain (l : List RecordKey) (s : State) : RingLawKept s (setDrain l s) := .of_same rfl (.of_eq rfl)

/-! ## The steps of a record -/

theorem ringLawKept_stepIssue (k : RecordKey) (s : State) : RingLawKept s (stepIssue k s) := by
  refine .of_kept (settled_stepIssue k s).keysSame fun q hq => ?_
  unfold stepIssue
  split
  · exact .refl _
  · rename_i r _
    have hrings : (takeHostTag k (mapRings (Ring.issueAccesses k)
        (mapRecord k (fun r => { r with state := .issued, part1 := .outstanding }) s))).rings
        = (mapRings (Ring.issueAccesses k) s).rings := by
      rw [takeHostTag_eq]
      rfl
    have hring := (ring_congr (t := handOver r.firstCommand (takeHostTag k _)) hrings q).trans (ring_mapRings _ s q)
    rw [if_pos (show q < 4 from hq)] at hring
    dsimp only
    rw [hring]
    exact ringKept_issueAccesses k _

theorem ringLawKept_stepSoleWait (k : RecordKey) (s : State) : RingLawKept s (stepSoleWait k s) := by
  unfold stepSoleWait
  have h : RingLawKept s (withdrawRequest (mapRecord k (fun r => { r with standing := true }) s)) :=
    .after (.of_settled (settled_withdrawRequest _) (ringsSame_withdrawRequest _)) (ringLawKept_mapRecord _ _ s fun _ => rfl)
  exact .cond _ (.cond _ (.after (ringLawKept_holdIn _ _ _) h) (h.trans (ringLawKept_stepIssue _ _)))
    (ringLawKept_stepIssue k s)

theorem ringLawKept_grantPartTag (k : RecordKey) (t : Nat) (s : State) : RingLawKept s (grantPartTag k t s) :=
  .of_settled (settled_grantPartTag k t s) (.of_eq rfl)

theorem ringLawKept_stepTagWait (k : RecordKey) (s : State) : RingLawKept s (stepTagWait k s) := by
  unfold stepTagWait
  split
  · exact .refl s
  · refine .cond _ ?_ (ringLawKept_stepSoleWait k s)
    split
    · exact .after (ringLawKept_stepSoleWait _ _) (ringLawKept_grantPartTag _ _ s)
    · exact .after (ringLawKept_holdIn _ _ _) (ringLawKept_tracker _ s rfl)

theorem ringLawKept_stepOverrun (k : RecordKey) (s : State) : RingLawKept s (stepOverrun k s) :=
  .cond _ (.after (ringLawKept_tracker _ _ rfl) (ringLawKept_mapRecord _ _ s fun _ => rfl)) (ringLawKept_stepTagWait k s)

theorem ringLawKept_stepRingOrder (k : RecordKey) (s : State) : RingLawKept s (stepRingOrder k s) := by
  unfold stepRingOrder
  split
  · exact ringLawKept_stepOverrun k s
  · exact .after (ringLawKept_tracker _ _ rfl) (ringLawKept_mapRecord _ _ s fun _ => rfl)

/-- Accesses that pass their tests join the rings' lists (R56 to R58). -/
theorem ringLawKept_acceptAccesses {k : RecordKey} {s : State} (hk : (s.record? k).isSome = true) {write : Bool}
    {qs : List AccessRequest} (hnodup : (qs.map AccessRequest.ring).Nodup) (hpass : ∀ q ∈ qs, s.accessFailure write q = none) :
    RingLawKept s (qs.foldl (acceptAccess k write) s) := by
  have hsettled : Settled s (qs.foldl (acceptAccess k write) s) := Settled.foldl _ (settled_acceptAccess k write) qs s
  intro law p hp
  obtain ⟨hlaw, hshape, haccesses⟩ := law p hp
  have hold : ∀ a ∈ (s.ring p).accesses, ((qs.foldl (acceptAccess k write) s).record? a.record).isSome = true :=
    fun a ha => hsettled.keysSame.isSome (haccesses a ha)
  rw [ring_acceptAccesses k write hnodup s hp]
  split
  · rename_i q hq
    have hring : q.ring = p := by simpa using List.find?_some hq
    subst hring
    refine ⟨accepted_law (hpass q (List.mem_of_find?_eq_some hq)) k hlaw, hshape, fun a ha => ?_⟩
    rcases List.mem_append.mp ha with ha | ha
    · exact hold a ha
    · cases List.mem_singleton.mp ha
      exact hsettled.keysSame.isSome hk
  · exact ⟨hlaw, hshape, hold⟩

theorem ringLawKept_stepAccept (k : RecordKey) (s : State) : RingLawKept s (stepAccept k s) := by
  unfold stepAccept
  split
  · exact .refl s
  · rename_i r hr
    dsimp only
    split
    · exact .of_settled (settled_refuse _ _ s) (.of_eq rfl)
    · rename_i hpass
      exact .after (ringLawKept_stepRingOrder _ _) (ringLawKept_acceptAccesses (by rw [hr]; rfl)
        (accessesOf_rings_nodup r.runs) (List.findSome?_eq_none_iff.mp hpass))

theorem ringLawKept_stepLookup (k : RecordKey) (s : State) : RingLawKept s (stepLookup k s) := by
  unfold stepLookup
  split
  · exact .refl s
  split
  · exact .after (.of_settled (settled_refuseKey _ _ _) (.of_eq rfl)) (ringLawKept_mapRecord _ _ s fun _ => rfl)
  · exact .after (.of_settled (settled_missHandling _ _ _) (ringsSame_missHandling _ _ _)) (ringLawKept_mapRecord _ _ s fun _ => rfl)
  · exact .after (ringLawKept_stepAccept _ _) (.after (.of_settled (settled_endHold _ _) (.of_eq rfl))
      (ringLawKept_mapRecord _ _ s fun _ => rfl))

theorem ringLawKept_stepClassify (k : RecordKey) (s : State) : RingLawKept s (stepClassify k s) := by
  unfold stepClassify
  split
  · exact .refl s
  · dsimp only
    split
    · exact .of_settled (settled_refuse _ _ s) (.of_eq rfl)
    · exact .after (ringLawKept_stepLookup _ _) (.after (.of_settled (settled_usersUp _ _) (ringsSame_usersUp _ _))
        (.after (.of_settled (settled_countUp _ _) (ringsSame_countUp _ _)) (ringLawKept_mapRecord _ _ s fun _ => rfl)))

theorem ringLawKept_stepDrain (k : RecordKey) (s : State) : RingLawKept s (stepDrain k s) := by
  unfold stepDrain
  split
  · exact .refl s
  · exact .cond _ (.after (ringLawKept_holdIn _ _ _) (ringLawKept_setDrain _ s)) (ringLawKept_stepClassify k s)

theorem ringLawKept_startSteps (k : RecordKey) (s : State) : RingLawKept s (startSteps k s) := by
  unfold startSteps
  split
  · exact .refl s
  · exact .cond _ (ringLawKept_stepDrain k s) (ringLawKept_stepSoleWait k s)

/-! ## The internal steps -/

/-- What an operation that may not apply answers keeps the laws of the rings. -/
def RingLawKeptBy (f : State → Option State) : Prop := ∀ s t, f s = some t → RingLawKept s t

theorem RingLawKeptBy.of_settled {f : State → Option State} (h : SettledBy f) (k : RingsSameBy f) : RingLawKeptBy f :=
  fun s t ht => .of_settled (h s t ht) (k s t ht)

theorem ringLawKeptBy_drainRelease (k : RecordKey) : RingLawKeptBy (drainRelease? k) := by
  intro s t h
  unfold drainRelease? at h
  split at h
  · cases h
  · dsimp only [cond] at h
    split at h <;> cases h
    exact .after (ringLawKept_stepClassify _ _) (.after (ringLawKept_holdIn _ _ _) (ringLawKept_setDrain _ s))

theorem ringLawKeptBy_keywaitRecheck (k : RecordKey) : RingLawKeptBy (keywaitRecheck? k) := by
  intro s t h
  unfold keywaitRecheck? at h
  split at h
  · cases h
  · dsimp only [cond] at h
    split at h <;> cases h
    exact ringLawKept_stepLookup k s

theorem ringLawKept_endHold (k : RecordKey) (s : State) : RingLawKept s (endHold k s) :=
  .of_settled (settled_endHold k s) (.of_eq rfl)

theorem ringLawKeptBy_ringorderRelease (k : RecordKey) : RingLawKeptBy (ringorderRelease? k) := by
  intro s t h
  unfold ringorderRelease? at h
  split at h
  · cases h
  · dsimp only [cond] at h
    split at h <;> cases h
    exact .after (ringLawKept_stepOverrun _ _) (ringLawKept_endHold k s)

theorem ringLawKeptBy_overrunRelease (k : RecordKey) : RingLawKeptBy (overrunRelease? k) := by
  intro s t h
  unfold overrunRelease? at h
  split at h
  · cases h
  · dsimp only [cond] at h
    split at h <;> cases h
    exact .after (ringLawKept_stepTagWait _ _) (ringLawKept_endHold k s)

theorem ringLawKeptBy_tagwaitGrant : RingLawKeptBy tagwaitGrant? := by
  intro s t h
  unfold tagwaitGrant? at h
  split at h <;> cases h
  exact .after (ringLawKept_stepSoleWait _ _) (.after (ringLawKept_grantPartTag _ _ _) (ringLawKept_endHold _ s))

theorem ringLawKeptBy_solewaitRelease : RingLawKeptBy solewaitRelease? := by
  intro s t h
  unfold solewaitRelease? at h
  split at h
  · cases h
  · dsimp only [cond] at h
    split at h <;> cases h
    exact .after (ringLawKept_stepIssue _ _) (ringLawKept_endHold _ s)

theorem RingLawKeptBy.orElse {f g : State → Option State} (hf : RingLawKeptBy f) (hg : RingLawKeptBy g) :
    RingLawKeptBy fun s => f s <|> g s := by
  intro s t h
  cases hs : f s with
  | none => exact hg s t (by simpa [hs] using h)
  | some u =>
      have : u = t := by simpa [hs] using h
      exact this ▸ hf s u hs

theorem RingLawKeptBy.findSome {α : Type} {f : α → State → Option State} (l : State → List α) (hf : ∀ a, RingLawKeptBy (f a)) :
    RingLawKeptBy fun s => (l s).findSome? (f · s) := by
  intro s t h
  obtain ⟨a, _, ha⟩ := List.exists_of_findSome?_eq_some h
  exact hf a s t ha

/-- One internal step keeps the laws of the rings. -/
theorem ringLawKeptBy_internalStep : RingLawKeptBy internalStep :=
  .orElse (.findSome (fun _ => List.range Config.regionCount)
    fun i => .of_settled (settledBy_applyPending i) (ringsSameBy_applyPending i)) <|
  .orElse (.findSome (fun s => s.tracker.records.map Record.key)
    fun k => .orElse (ringLawKeptBy_drainRelease k) (.of_settled (settledBy_decide k) (ringsSameBy_decide k))) <|
  .orElse (.findSome (fun s => s.tracker.keyWait) ringLawKeptBy_keywaitRecheck) <|
  .orElse (.findSome (fun s => s.tracker.ringOrder) ringLawKeptBy_ringorderRelease) <|
  .orElse (.findSome (fun s => s.tracker.overrun) ringLawKeptBy_overrunRelease) <|
  .orElse ringLawKeptBy_tagwaitGrant <|
  .orElse ringLawKeptBy_solewaitRelease <|
  .orElse (.findSome (fun s => s.tracker.records.map Record.key)
    fun k => .of_settled (settledBy_secondPart k) (ringsSameBy_secondPart k)) <|
  .orElse (.of_settled settledBy_destinationWrite ringsSameBy_destinationWrite) <|
  .orElse (.of_settled settledBy_requestMet ringsSameBy_requestMet) <|
  .orElse (.of_settled settledBy_chunkStart ringsSameBy_chunkStart) <|
  .orElse (.of_settled settledBy_takeFrame ringsSameBy_takeFrame) <|
  .orElse (.of_settled settledBy_placeRequest ringsSameBy_placeRequest) <|
  .orElse (.of_settled settledBy_wakeDrive ringsSameBy_wakeDrive) <|
  .orElse (.of_settled settledBy_sendCommand ringsSameBy_sendCommand) <|
  .orElse (.of_settled settledBy_sendSector ringsSameBy_sendSector) <|
  .orElse (.of_settled settledBy_systemPortReady ringsSameBy_systemPortReady)
    (.of_settled settledBy_wakeSystem ringsSameBy_wakeSystem)

/-- `settle` keeps the laws of the rings. -/
theorem settle_ringLawKept (s : State) : RingLawKept s (settle s) :=
  settle_keeps (RingLawKept s) (fun t u h k => h.trans (ringLawKeptBy_internalStep t u k)) s (.refl s)

end Sys2Proof.Machine
end

section
/-! SUPPORT. The laws of the rings (R46, R47, R58, R63) over every command. -/

namespace Sys2Proof.Machine

/-! ## Rings held -/

/-- A ring keeps its laws and its shape, and where it is Live now it was Live with a claim and a head no higher (R47). -/
structure RingHeld (a b : Ring) : Prop where
  law   : a.Law → b.Law
  shape : a.ShapeLaw → b.ShapeLaw
  rises : b.live = true → a.live = true ∧ a.claim ≤ b.claim ∧ a.head ≤ b.head

theorem RingHeld.refl (a : Ring) : RingHeld a a := ⟨id, id, fun h => ⟨h, Nat.le_refl _, Nat.le_refl _⟩⟩

/-- Accesses that leave the list, and another user count (R63). -/
theorem ringHeld_accesses {a : Ring} {l : List Access} (h : l ⊆ a.accesses) (u : Nat) :
    RingHeld a { a with accesses := l, users := u } := by
  refine ⟨fun law => ⟨fun hlive => ?_, law.2⟩, id, fun h => ⟨h, Nat.le_refl _, Nat.le_refl _⟩⟩
  obtain ⟨hlen, hfirst, hrise, hclaim, hfloor, hhead, hspan, hends⟩ := law.1 hlive
  exact ⟨hlen, hfirst, hrise, hclaim, hfloor, hhead, hspan, fun x hx => hends x (h hx)⟩

/-- A ring that closes has no epochs (R54). -/
theorem ringHeld_closed (a : Ring) : RingHeld a a.closed := by
  refine ⟨fun law => ⟨fun h => absurd ((closed_live a).symm.trans h) (by decide), fun _ => ?_⟩, fun h => ?_,
    fun h => absurd ((closed_live a).symm.trans h) (by decide)⟩
  · rw [closed_eq]
    cases hlive : a.live
    · exact law.2 hlive
    · rfl
  · rw [closed_eq]
    exact h

/-- The laws of the rings are kept, and a ring that is Live now was Live with a claim and a head no higher (R47). -/
structure RingsHeld (s t : State) : Prop where
  law   : RingLawKept s t
  rises : ∀ q < Config.ringCount, (t.ring q).live = true →
    (s.ring q).live = true ∧ (s.ring q).claim ≤ (t.ring q).claim ∧ (s.ring q).head ≤ (t.ring q).head

theorem RingsHeld.trans {s t u : State} (h : RingsHeld s t) (k : RingsHeld t u) : RingsHeld s u :=
  ⟨h.law.trans k.law, fun q hq hlive => by
    obtain ⟨ht, hclaim, hhead⟩ := k.rises q hq hlive
    obtain ⟨hs, hclaim', hhead'⟩ := h.rises q hq ht
    exact ⟨hs, hclaim'.trans hclaim, hhead'.trans hhead⟩⟩

/-- Rings held one by one, where the commands of the accesses that stay are in the Command Table still. -/
theorem RingsHeld.of_rings {s t : State} (h : ∀ q < Config.ringCount, RingHeld (s.ring q) (t.ring q))
    (hrecords : ∀ q < Config.ringCount, ∀ x ∈ (t.ring q).accesses,
      x ∈ (s.ring q).accesses ∧ ((s.record? x.record).isSome = true → (t.record? x.record).isSome = true)) : RingsHeld s t := by
  refine ⟨fun law q hq => ?_, fun q hq => (h q hq).rises⟩
  obtain ⟨hlaw, hshape, haccesses⟩ := law q hq
  refine ⟨(h q hq).law hlaw, (h q hq).shape hshape, fun x hx => ?_⟩
  obtain ⟨hmem, hkept⟩ := hrecords q hq x hx
  exact hkept (haccesses x hmem)

/-- A state with the same rings and with the same commands, others beside them. -/
theorem RingsHeld.of_eq {s t : State} (hr : t.rings = s.rings) (ht : s.tracker.records ⊆ t.tracker.records) : RingsHeld s t := by
  have hring := ring_congr hr
  refine .of_rings (fun q _ => by rw [hring]; exact .refl _) fun q _ x hx => ⟨by rwa [hring] at hx, fun hs => ?_⟩
  rw [record?_isSome_iff] at hs ⊢
  exact List.map_subset _ ht hs

theorem RingsHeld.refl (s : State) : RingsHeld s s := .of_eq rfl (List.Subset.refl _)

theorem RingsHeld.and {s t u : State} (h : RingsHeld s t) (hr : u.rings = t.rings) (ht : u.tracker = t.tracker) : RingsHeld s u :=
  h.trans (.of_eq hr (by rw [ht]; exact List.Subset.refl _))

theorem RingsHeld.of_kept {s t : State} (hsettled : Settled s t) (h : RingLawKept s t) : RingsHeld s t :=
  ⟨h, fun q _ hlive => ⟨(hsettled.rings q).live.symm.trans hlive, (hsettled.rings q).claim, (hsettled.rings q).head⟩⟩

theorem RingsHeld.of_settled {s t : State} (hsettled : Settled s t) (h : RingsSame s t) : RingsHeld s t :=
  .of_kept hsettled (.of_settled hsettled h)

theorem RingsHeld.cond (b : Bool) {s t u : State} (h : RingsHeld s t) (k : RingsHeld s u) :
    RingsHeld s (bif b then t else u) := by
  cases b <;> assumption

theorem RingsHeld.foldl {α : Type} (f : State → α → State) (hf : ∀ s a, RingsHeld s (f s a)) (l : List α) (s : State) :
    RingsHeld s (l.foldl f s) := by
  induction l generalizing s with
  | nil => exact .refl s
  | cons a l ih => exact (hf s a).trans (ih (f s a))

theorem ringsHeld_settle (s : State) : RingsHeld s (settle s) := .of_kept (settle_settled s) (settle_ringLawKept s)

theorem RingsHeld.settle {s u : State} (h : RingsHeld s u) : RingsHeld s (settle u) := h.trans (ringsHeld_settle u)

/-- A command that takes a step where it is due, and settles. -/
theorem RingsHeld.settle_getD {s : State} {o : Option State} (h : ∀ t, o = some t → RingsHeld s t) :
    RingsHeld s (Sys2Proof.Machine.settle (o.getD s)) := by
  cases o with
  | none => exact ringsHeld_settle s
  | some t => exact (h t rfl).settle

theorem ringsHeld_step {f : State → Option State} (h : SettledBy f) (k : RingLawKeptBy f) (s : State) :
    RingsHeld s (settle ((f s).getD s)) := .settle_getD fun t ht => .of_kept (h s t ht) (k s t ht)

theorem ringsHeld_sameStep {f : State → Option State} (h : SettledBy f) (k : RingsSameBy f) (s : State) :
    RingsHeld s (settle ((f s).getD s)) := ringsHeld_step h (.of_settled h k) s

/-- A change of every ring that holds it and adds no access. -/
theorem ringsHeld_mapRings {f : Ring → Ring} (hf : ∀ x, RingHeld x (f x)) (ha : ∀ x, (f x).accesses ⊆ x.accesses) (s : State) :
    RingsHeld s (mapRings f s) := by
  have hring : ∀ q < Config.ringCount, (mapRings f s).ring q = f (s.ring q) := fun q hq => by
    rw [ring_mapRings, if_pos (show q < 4 from hq)]
  exact .of_rings (fun q hq => by rw [hring q hq]; exact hf _) fun q hq x hx => ⟨ha _ (hring q hq ▸ hx), id⟩

/-- A change of one ring that holds it and adds no access. -/
theorem ringsHeld_mapRing {r : Nat} {f : Ring → Ring} {s : State} (hf : RingHeld (s.ring r) (f (s.ring r)))
    (ha : (f (s.ring r)).accesses ⊆ (s.ring r).accesses) : RingsHeld s (mapRing r f s) := by
  refine .of_rings (fun q _ => ?_) fun q _ x hx => ⟨?_, id⟩
  · rw [ring_mapRing]
    split
    · rename_i h
      rw [h.1]
      exact hf
    · exact .refl _
  · rw [ring_mapRing] at hx
    split at hx
    · rename_i h
      rw [h.1]
      exact ha hx
    · exact hx

/-! ## Resets, links and Lockdown -/

theorem ringsHeld_dropAllAccesses (s : State) : RingsHeld s (mapRings (fun q => { q with accesses := [] }) s) :=
  ringsHeld_mapRings (f := fun q => { q with accesses := [] }) (fun x => ringHeld_accesses (List.nil_subset _) x.users)
    (fun _ => List.nil_subset _) s

/-- Every access is gone with the commands (R88 step 1). -/
theorem ringsHeld_clearTables {s t : State} (hr : t.rings = s.rings) (hnone : ∀ q < Config.ringCount, (s.ring q).accesses = []) :
    RingsHeld s t := by
  have hring := ring_congr hr
  refine .of_rings (fun q _ => by rw [hring]; exact .refl _) fun q hq x hx => ?_
  rw [hring, hnone q hq] at hx
  cases hx

theorem ringsHeld_abandonHost (s : State) : RingsHeld s (abandonHost s) := by
  have hgiven : ∀ u : State, RingsHeld u (u.tracker.records.foldl giveUp u) := fun u => RingsHeld.foldl _ (fun v r =>
    .of_settled (Settled.after (settled_releaseOwner _ _) (Settled.after (settled_usersDown _ _) (settled_countDown _ v)))
      (.after (ringsSame_releaseOwner _ _) (.after (ringsSame_usersDown _ _) (ringsSame_countDown _ v)))) _ u
  refine ((hgiven s).trans (ringsHeld_dropAllAccesses _)).trans (ringsHeld_clearTables rfl fun q hq => ?_)
  rw [ring_mapRings, if_pos (show q < 4 from hq)]

theorem ringsHeld_linkGone (l : SysLink) (s : State) : RingsHeld s (setSysLink l (resetDownstream (abandonWork s))) := by
  have hhost : RingsHeld s (abandonHost (clearDisk s)) :=
    RingsHeld.trans (t := clearDisk s) (.of_eq rfl (List.Subset.refl _)) (ringsHeld_abandonHost _)
  have hwork : RingsHeld s (abandonWork s) := hhost.trans (.of_settled (settled_dropChunk _) (ringsSame_dropChunk _))
  have hdown : RingsHeld s (resetDownstream (abandonWork s)) := hwork.trans (.cond _ (.refl _) (.of_eq rfl (List.Subset.refl _)))
  exact hdown.and rfl rfl

theorem ringsHeld_lineResetBlocks (s : State) : RingsHeld s (lineResetBlocks s) := by
  have hrings : RingsHeld s (mapRings (fun q => { q with accesses := [], users := 0 }) s) :=
    ringsHeld_mapRings (f := fun q => { q with accesses := [], users := 0 })
      (fun _ => ringHeld_accesses (List.nil_subset _) 0) (fun _ => List.nil_subset _) s
  refine hrings.trans (ringsHeld_clearTables rfl fun q hq => ?_)
  rw [ring_mapRings, if_pos (show q < 4 from hq)]

theorem ringsHeld_loseDisk (l : DriveLink) (s : State) : RingsHeld s (loseDisk l s) := by
  have hcut : ∀ u : State, RingsHeld u (failLost u) := fun u => RingsHeld.foldl _ (fun v c =>
    RingsHeld.trans (t := { v with fresh := v.fresh + 1 }) (.of_eq rfl (List.Subset.refl _))
      (.of_settled (settled_endDown _ _ _) (ringsSame_endDown _ _ _))) _ u
  have h : RingsHeld s (failLost (clearDisk s)) :=
    RingsHeld.trans (t := clearDisk s) (.of_eq rfl (List.Subset.refl _)) (hcut _)
  exact (h.and (u := setDriveLink l _) rfl rfl).settle

theorem ringsHeld_latchIf (b : Bool) (c : Cause) (s : State) : RingsHeld s (latchIf b c s) :=
  .of_settled (settled_latchIf _ _ _) (ringsSame_latchIf _ _ _)

theorem ringsHeld_enterLockdown (s : State) : RingsHeld s (enterLockdown s) := by
  have hrefused : ∀ (l : List RecordKey) (u : State), RingsHeld u (l.foldl (fun s k => refuse k .locked s) u) := fun l u =>
    .foldl _ (fun v k => .of_settled (settled_refuse k .locked v) (.of_eq rfl)) l u
  have hkeys : RingsHeld s { s with keys := s.keys.locked } := .of_eq rfl (List.Subset.refl _)
  have hclosed : RingsHeld s (lockdownClosed s) := (hkeys.trans (hrefused s.tracker.keyWait _)).trans
    (ringsHeld_mapRings ringHeld_closed (fun x => by rw [closed_eq]; exact List.Subset.refl _) _)
  have hstopped : RingsHeld s (stopJobs (fun _ => true) (.failed .lockdown) (lockdownClosed s)) :=
    hclosed.trans (.of_settled (settled_stopJobs _ _ _) (ringsSame_stopJobs _ _ _))
  exact hstopped.trans (.of_settled (settled_latch _ _) (.of_eq rfl))

theorem ringsHeld_endLoad (r : ProfileRead) (s : State) : RingsHeld s (endLoad r s) := by
  have h : RingsHeld s (latchIf ((profileOf r).result != .good) .profileFault (takeProfile (profileOf r) s)) :=
    RingsHeld.trans (t := takeProfile (profileOf r) s) (.of_eq rfl (List.Subset.refl _)) (ringsHeld_latchIf _ _ _)
  exact .cond _ (.settle (.cond _ (h.trans (ringsHeld_enterLockdown _)) h)) (.refl s)

/-! ## Host commands, disk frames and data -/

theorem ringsHeld_arrive (tag : Option Nat) (unsupported : Bool) (kind : HostKind) (host count : Nat) (frame : List Byte)
    (s : State) : RingsHeld s (arrive tag unsupported kind host count frame s) := by
  unfold arrive
  split
  · refine RingsHeld.settle (RingsHeld.trans (t := closeGate s) (.of_eq rfl (List.Subset.refl _)) ?_)
    unfold takeArrival
    split
    · exact .of_eq rfl (List.Subset.refl _)
    · exact RingsHeld.trans (t := addRecord _ _ _ _ _ (closeGate s)) (.of_eq rfl (List.subset_append_left _ _))
        (.of_kept (settled_startSteps _ _) (ringLawKept_startSteps _ _))
  · exact .of_eq rfl (List.Subset.refl _)
  · exact .refl s
  · exact .refl s

theorem ringsSame_frameArrives (f : DiskFrame) (s : State) : RingsSame s (frameArrives f s) := by
  unfold frameArrives
  split
  · cases h : takeOne f [] s with
    | none => exact .of_eq rfl
    | some t => exact ringsSame_takeOne h
  · exact .of_eq rfl

theorem ringsHeld_diskFrame (f : DiskFrame) (s : State) : RingsHeld s (diskFrame f s) :=
  .cond _ (RingsHeld.of_settled (settled_frameArrives f s) (ringsSame_frameArrives f s)).settle (.refl s)

theorem ringsHeld_keepEnd (op : DownOp) (good : Bool) (error : Byte) (lba : Nat) (s : State) :
    RingsHeld s (keepEnd op good error lba s) := by
  unfold keepEnd
  split
  · exact ringsHeld_diskFrame _ s
  · exact .refl s

theorem ringsSame_fillInvited (i : Nat) (data : Sector) (s : State) : RingsSame s (fillInvited i data s) := by
  unfold fillInvited
  refine .cond _ (ringsSame_releaseBuffer i s) ?_
  split
  · exact .after (ringsSame_joinQueue _ _ _) (.of_eq rfl)
  · exact .of_eq rfl

theorem ringsHeld_takeWriteData {k : RecordKey} {data : Sector} {s t : State} (h : takeWriteData? k data s = some t) :
    RingsHeld s t := by
  unfold takeWriteData? at h
  split at h
  · cases h
    exact .of_settled (Settled.after (settled_fillInvited _ _ _) (settled_record _ _ _ fun _ => rfl))
      (.after (ringsSame_fillInvited _ _ _) (.of_eq rfl))
  · cases h

theorem rings_placeInvited (r : Record) (l : List Nat) (lba : Nat) (s : State) : (placeInvited r lba l s).rings = s.rings := by
  induction l generalizing lba s with
  | nil => rfl
  | cons i rest ih => exact ih _ _

theorem RingsHeld.setLastServed {s u : State} (n : Nat) (h : RingsHeld s u) :
    RingsHeld s (Sys2Proof.Machine.setLastServed n u) := h.and rfl rfl

theorem ringsHeld_invite (r : Record) (q : WriteRequest) (s : State) : RingsHeld s (invite r q s) :=
  .setLastServed _ (.of_settled (Settled.after (settled_emitUp _ _) (Settled.after (settled_record _ _ _ fun _ => rfl)
    (settled_placeInvited r _ _ s))) (.of_eq (rings_placeInvited _ _ _ s)))

theorem ringsHeld_writeRequest {s t : State} (h : writeRequest? s = some t) : RingsHeld s t := by
  unfold writeRequest? at h
  split at h
  · split at h
    · dsimp only [cond] at h
      split at h <;> cases h
      exact ringsHeld_invite _ _ s
    · cases h
  · cases h

theorem ringsHeld_deliver (r : Record) (s : State) : RingsHeld s (deliver r s) := by
  unfold deliver
  dsimp only
  refine RingsHeld.and (t := List.foldl _ _ _) (RingsHeld.trans ?_ (RingsHeld.foldl _ (fun v i => ?_) _ _)) rfl rfl
  · exact .of_settled (Settled.after (settled_record _ _ _ fun _ => rfl) (settled_emitUp _ _)) (.of_eq rfl)
  · exact .of_settled (settled_releaseBuffer i v) (ringsSame_releaseBuffer i v)

theorem ringsHeld_readBurst {s t : State} (h : readBurst? s = some t) : RingsHeld s t := by
  unfold readBurst? at h
  split at h
  · dsimp only [cond] at h
    split at h <;> cases h
    exact ringsHeld_deliver _ s
  · cases h

theorem isSome_record?_dropped {s : State} {k x : RecordKey} (h : (s.record? x).isSome = true) (hne : x ≠ k) :
    ((dropRecord k (dropAccesses k s)).record? x).isSome = true := by
  rw [record?_isSome_iff, List.mem_map] at h ⊢
  obtain ⟨r, hr, rfl⟩ := h
  exact ⟨_, List.mem_filter.mpr ⟨List.mem_map_of_mem hr, by simpa using hne⟩, rfl⟩

/-- A command that is Done takes its accesses off the lists (R109). -/
theorem ringsHeld_dropped (k : RecordKey) (s : State) : RingsHeld s (dropRecord k (dropAccesses k s)) := by
  have hring : ∀ q < Config.ringCount, (dropRecord k (dropAccesses k s)).ring q =
      { s.ring q with accesses := (s.ring q).accesses.filter fun a => !(a.record == k) } := fun q hq => by
    have h := ring_mapRings (fun q => { q with accesses := q.accesses.filter fun a => !(a.record == k) }) s q
    rw [if_pos (show q < 4 from hq)] at h
    exact (ring_congr rfl q).trans h
  refine .of_rings (fun q hq => ?_) fun q hq x hx => ?_
  · rw [hring q hq]
    exact ringHeld_accesses List.filter_sublist.subset _
  · rw [hring q hq] at hx
    obtain ⟨hmem, hne⟩ := List.mem_filter.mp hx
    exact ⟨hmem, fun hs => isSome_record?_dropped hs (by simpa using hne)⟩

theorem ringsHeld_retire (r : Record) (s : State) : RingsHeld s (retire r s) := by
  have hcounts : RingsHeld s (usersDown r.rings (countDown r.counted s)) :=
    .of_settled (Settled.after (settled_usersDown _ _) (settled_countDown _ s))
      (.after (ringsSame_usersDown _ _) (ringsSame_countDown _ s))
  exact hcounts.trans (ringsHeld_dropped r.key _)

theorem ringsHeld_completion {s t : State} (h : completion? s = some t) : RingsHeld s t := by
  have sent : ∀ (x : UpItem) (l : List DueItem), RingsHeld s (emitUp x { s with sys := { s.sys with sendOrder := l } }) :=
    fun _ _ => .of_eq rfl (List.Subset.refl _)
  unfold completion? at h
  dsimp only [cond] at h
  split at h
  · cases h
  · split at h
    · cases h
    · cases h; exact sent _ _
    · split at h
      · cases h
      · split at h
        · cases h
        · cases h; exact (sent _ _).trans (ringsHeld_retire _ _)

theorem ringsHeld_grantSector (c : Choice) (i : Nat) (s : State) : RingsHeld s (grantSector c i s) := by
  have h : RingsHeld s (withdrawFromQueues i (countGrant c s)) := .of_eq rfl (List.Subset.refl _)
  unfold grantSector
  dsimp only
  split
  · exact h.and rfl rfl
  · exact h.and rfl rfl
  · split
    · exact h.and rfl rfl
    · exact h.trans (.of_settled (settled_stopActive _ _) (ringsSame_stopActive _ _))

theorem ringsHeld_grantStart {s t : State} (h : grantStart? s = some t) : RingsHeld s t := by
  unfold grantStart? at h
  split at h
  · split at h <;> cases h
    exact ringsHeld_grantSector _ _ s
  · cases h

theorem ringsSame_noteLost (b : Buffer) (lost : Option LostReason) (s : State) : RingsSame s (noteLost b lost s) := by
  unfold noteLost
  split <;> exact .of_eq rfl

theorem ringsHeld_endGrant (g : Grant) (s : State) : RingsHeld s (endGrant g s) := by
  have h : RingsHeld s { s with engine := { s.engine with grant := none } } := .of_eq rfl (List.Subset.refl _)
  unfold endGrant
  dsimp only
  split
  · exact h
  · split
    · exact h.trans (.of_settled (Settled.after (settled_noteLost _ _ _) (settled_mapBuffer _ _ _))
        (.after (ringsSame_noteLost _ _ _) (.of_eq rfl)))
    · exact h.trans (.of_settled (settled_releaseNow _ _) (ringsSame_releaseNow _ _))
    · exact h.trans (.of_settled (settled_joinQueue _ _ _) (ringsSame_joinQueue _ _ _))

theorem ringsSameBy_keywaitExpired (k : RecordKey) : RingsSameBy (keywaitExpired? k) := by
  intro s t h
  unfold keywaitExpired? at h
  dsimp only [cond] at h
  split at h <;> cases h
  exact .of_eq rfl

theorem ringsSameBy_overrunExpired (k : RecordKey) : RingsSameBy (overrunExpired? k) := by
  intro s t h
  unfold overrunExpired? at h
  split at h
  · cases h
  · dsimp only [cond] at h
    split at h <;> cases h
    exact .after (.of_eq rfl) (.foldl _ ringsSame_truncateJob _ s)

/-! ## Link power and the clock -/

theorem ringsHeld_lowPowerAsked (d : Depth) (s : State) : RingsHeld s (lowPowerAsked d s) := by
  have same : ∀ t : State, t.rings = s.rings → t.tracker = s.tracker → RingsHeld s t := fun _ => RingsHeld.and (.refl s)
  unfold lowPowerAsked
  split
  · exact .refl s
  · exact .refl s
  · exact .cond _ (same _ rfl rfl) (same _ rfl rfl)

theorem ringsHeld_carryLowPower (s : State) : RingsHeld s (carryLowPower s) := by
  unfold carryLowPower
  split
  · exact .cond _ (.of_eq rfl (List.Subset.refl _)) (.refl s)
  · exact .refl s

theorem ringsHeld_lowPowerAnswered (accepted : Bool) (s : State) : RingsHeld s (lowPowerAnswered accepted s) := by
  unfold lowPowerAnswered
  split
  · exact .cond _ (.of_eq rfl (List.Subset.refl _)) (.of_eq rfl (List.Subset.refl _))
  · exact .refl s

theorem ringsHeld_setClock (c : Clock) (s : State) : RingsHeld s (setClock c s) := .of_eq rfl (List.Subset.refl _)

theorem ringsHeld_expireSlots (minute : Nat) (s : State) : RingsHeld s (expireSlots minute s) := by
  refine RingsHeld.trans ?_ (ringsHeld_latchIf _ _ _)
  exact .of_eq rfl (List.Subset.refl _)

theorem ringsHeld_countSecond (s : State) : RingsHeld s (countSecond s) := by
  unfold countSecond
  dsimp only
  split
  · exact ringsHeld_setClock _ s
  · split
    · exact (ringsHeld_setClock _ s).trans (ringsHeld_expireSlots _ _)
    · exact ringsHeld_setClock _ s

theorem ringsHeld_countCycle (s : State) : RingsHeld s (countCycle s) := by
  unfold countCycle
  dsimp only
  cases s.clock.carries
  · exact ringsHeld_setClock _ s
  · exact (ringsHeld_setClock _ s).trans (ringsHeld_countSecond _)

end Sys2Proof.Machine
end

section
/-! SUPPORT. The laws of the rings over the requests, the entries that name the rings (R19), and the settling of O8. -/

namespace Sys2Proof.Machine

/-! ## Requests -/

theorem ringsHeld_reply (f : List Byte) (a : Answer) (u : State) : RingsHeld u (placeReply f a (settle u)) :=
  (ringsHeld_settle u).and rfl rfl

theorem ringsHeld_takeRequest {row : RequestRow} {serve : Request → State → State × Answer} {s : State}
    (h : ∀ r, RingsHeld s (serve r s).1) : RingsHeld s (takeRequest row serve s) :=
  takeRequest_keeps (RingsHeld s) (.refl s) (fun f a u hu => hu.trans (ringsHeld_reply f a u)) h

/-- A request of the Region Map changes the Region Map alone. -/
theorem ringsHeld_regions {row : RequestRow} {serve : Request → State → State × Answer} (s : State) (h : serve ∈ regionServers) :
    RingsHeld s (takeRequest row serve s) := by
  refine ringsHeld_takeRequest fun r => ?_
  obtain ⟨m, hm⟩ := regionServers_regions r s serve h
  rw [hm]
  exact .of_eq rfl (List.Subset.refl _)

theorem ringsHeld_status {row : RequestRow} {serve : Request → State → State × Answer} (s : State) (h : serve ∈ statusServers) :
    RingsHeld s (takeRequest row serve s) :=
  ringsHeld_takeRequest fun r => by rw [statusServers_unchanged r s serve h]; exact .refl s

theorem ringsHeld_serveSetClock (r : Request) (s : State) : RingsHeld s (serveSetClock r s).1 := by
  unfold serveSetClock
  split
  · unfold setClockTo
    dsimp only [cond]
    split
    · exact ringsHeld_setClock _ _
    · split
      · exact .refl s
      · split
        · exact .refl s
        · exact (ringsHeld_setClock _ _).trans (ringsHeld_expireSlots _ _)
  · exact .refl s

theorem ringsHeld_serveTrimClock (r : Request) (s : State) : RingsHeld s (serveTrimClock r s).1 := by
  unfold serveTrimClock
  split
  · exact ringsHeld_setClock _ s
  · exact .refl s

theorem ringsHeld_setSlot (i : Nat) (x : Slot) (s : State) : RingsHeld s (setSlot i x s) := .of_eq rfl (List.Subset.refl _)

theorem ringsHeld_serveLoadKey (r : Request) (s : State) : RingsHeld s (serveLoadKey r s).1 := by
  unfold serveLoadKey
  split
  · unfold loadKeyInto
    dsimp only [cond]
    repeat' split
    all_goals first | exact .refl s | exact .of_eq rfl (List.Subset.refl _)
  · exact .refl s

theorem ringsHeld_serveDropKey (r : Request) (s : State) : RingsHeld s (serveDropKey r s).1 := by
  unfold serveDropKey
  split
  · unfold dropKeyOf
    split
    · exact .refl s
    · split
      · exact .refl s
      · exact ringsHeld_setSlot _ _ s
  · exact .refl s

theorem ringsHeld_giveDeadline (i : Nat) (x : Slot) (d : Option Nat) (s : State) : RingsHeld s (giveDeadline i x d s).1 := by
  unfold giveDeadline
  dsimp only [cond]
  split
  · exact (ringsHeld_setSlot i _ s).trans (.of_settled (settled_latch _ _) (.of_eq rfl))
  · exact ringsHeld_setSlot i _ s

theorem ringsHeld_serveSetDeadline (r : Request) (s : State) : RingsHeld s (serveSetDeadline r s).1 := by
  unfold serveSetDeadline
  split
  · unfold setDeadlineOf
    split
    · exact .refl s
    · split
      · exact .refl s
      · split
        · dsimp only [cond]
          split
          · exact .refl s
          · exact ringsHeld_giveDeadline _ _ _ s
        · exact .refl s
  · exact .refl s

/-- An Idle ring takes any shape that fits (R50). -/
theorem ringsHeld_shapeRingTo (r pb p w : Nat) (s : State) : RingsHeld s (shapeRingTo r pb p w s).1 := by
  unfold shapeRingTo
  split
  · exact .refl s
  cases hfits : shapeFits pb p w
  · exact .refl s
  cases hlive : (s.ring r).live
  case true => exact .refl s
  dsimp only [cond, Bool.not]
  split
  · exact .refl s
  · split
    · exact .refl s
    · refine ringsHeld_mapRing (f := fun x => { x with base := pb, span := p, trail := w })
        ⟨fun law => ⟨fun h => ?_, law.2⟩, fun _ => hfits, fun h => ?_⟩ (List.Subset.refl _)
      · exact absurd (hlive.symm.trans h) (by decide)
      · exact absurd (hlive.symm.trans h) (by decide)

theorem ringsHeld_serveShapeRing (r : Request) (s : State) : RingsHeld s (serveShapeRing r s).1 := by
  unfold serveShapeRing
  split
  · exact ringsHeld_shapeRingTo _ _ _ _ s
  · exact .refl s

/-- Another epoch list and floor on a Live ring. -/
theorem ringHeld_epochs {x : Ring} {f : Nat} {es : List Epoch} (hlive : x.live = true)
    (h : x.Law → es.length ≤ Config.epochPlaces ∧ es.head?.map Epoch.start = some f
      ∧ (es.map Epoch.start).Pairwise (· < ·) ∧ (∀ e ∈ es, e.start ≤ x.claim) ∧ f ≤ x.head) :
    RingHeld x { x with floor := f, epochs := es } := by
  refine ⟨fun law => ?_, id, fun h => ⟨h, Nat.le_refl _, Nat.le_refl _⟩⟩
  obtain ⟨hlen, hfirst, hrise, hclaim, hfloor⟩ := h law
  obtain ⟨-, -, -, -, -, hhead, hspan, hends⟩ := law.1 hlive
  exact .of_live hlive hlen hfirst hrise hclaim hfloor hhead hspan hends

/-- The newest epoch is renamed, where it starts at the claim (R52). -/
theorem ringHeld_renamed {x : Ring} (hlive : x.live = true) (id : ProgId) (h : x.epochs.getLast?.map Epoch.start = some x.claim) :
    RingHeld x { x with epochs := x.epochs.dropLast ++ [{ start := x.claim, id := id }] } := by
  refine ringHeld_epochs (f := x.floor) hlive fun law => ?_
  obtain ⟨hlen, hfirst, hrise, hclaim, hfloor, -⟩ := law.1 hlive
  obtain ⟨e, hlast, hstart⟩ := Option.map_eq_some_iff.mp h
  obtain ⟨l, hl⟩ := List.getLast?_eq_some_iff.mp hlast
  have hstarts : (x.epochs.dropLast ++ [({ start := x.claim, id := id } : Epoch)]).map Epoch.start = x.epochs.map Epoch.start := by
    rw [hl, List.dropLast_concat, List.map_append, List.map_append, ← hstart]
    rfl
  have hlength := congrArg List.length hstarts
  rw [List.length_map, List.length_map] at hlength
  refine ⟨hlength ▸ hlen, ?_, hstarts ▸ hrise, fun e he => ?_, hfloor⟩
  · rw [← List.head?_map, hstarts, List.head?_map, hfirst]
  · have hmem := List.mem_map_of_mem (f := Epoch.start) he
    rw [hstarts] at hmem
    obtain ⟨e', he', heq⟩ := List.mem_map.mp hmem
    exact heq ▸ hclaim e' he'

/-- Where the newest epoch does not start at the claim, every epoch starts below it (R47). -/
theorem starts_lt_claim {x : Ring} (hrise : (x.epochs.map Epoch.start).Pairwise (· < ·)) (hclaim : ∀ e ∈ x.epochs, e.start ≤ x.claim)
    (h : x.epochs.getLast?.map Epoch.start ≠ some x.claim) : ∀ e ∈ x.epochs, e.start < x.claim := by
  intro e he
  refine Nat.lt_of_le_of_ne (hclaim e he) fun heq => h ?_
  obtain ⟨l, hl⟩ | hnil := (List.eq_nil_or_concat' x.epochs).symm
  · obtain ⟨n, hl⟩ := hl
    rw [hl, List.getLast?_concat, Option.map_some]
    rw [hl] at he hrise
    rcases List.mem_append.mp he with hmem | hmem
    · rw [List.map_append, List.pairwise_append] at hrise
      have hlt := hrise.2.2 e.start (List.mem_map_of_mem hmem) n.start (by simp)
      have hle := hclaim n (hl ▸ List.mem_append_right l (List.mem_singleton.mpr rfl))
      omega
    · rw [← List.mem_singleton.mp hmem, heq]
  · rw [hnil] at he
    cases he

/-- Epochs that start below the claim, with a new one that starts there (R52). -/
theorem pairwise_joined {l : List Epoch} {claim : Nat} (hrise : (l.map Epoch.start).Pairwise (· < ·))
    (hbelow : ∀ e ∈ l, e.start < claim) (id : ProgId) :
    ((l ++ [({ start := claim, id := id } : Epoch)]).map Epoch.start).Pairwise (· < ·) := by
  rw [List.map_append, List.pairwise_append]
  refine ⟨hrise, List.pairwise_singleton _ _, fun a ha b hb => ?_⟩
  obtain ⟨e, he, rfl⟩ := List.mem_map.mp ha
  rw [List.map_singleton, List.mem_singleton] at hb
  exact hb ▸ hbelow e he

theorem le_claim_joined {l : List Epoch} {claim : Nat} (hbelow : ∀ e ∈ l, e.start < claim) (id : ProgId) :
    ∀ e ∈ l ++ [{ start := claim, id := id }], e.start ≤ claim := by
  intro e he
  rcases List.mem_append.mp he with he | he
  · exact (hbelow e he).le
  · rw [List.mem_singleton.mp he]

/-- A new epoch joins at the claim (R52). -/
theorem ringHeld_joined {x : Ring} (hlive : x.live = true) (id : ProgId) (h : x.epochs.getLast?.map Epoch.start ≠ some x.claim)
    (hplace : x.epochs.length < Config.epochPlaces) :
    RingHeld x { x with epochs := x.epochs ++ [{ start := x.claim, id := id }] } := by
  refine ringHeld_epochs (f := x.floor) hlive fun law => ?_
  obtain ⟨-, hfirst, hrise, hclaim, hfloor, -⟩ := law.1 hlive
  have hbelow := starts_lt_claim hrise hclaim h
  refine ⟨?_, ?_, pairwise_joined hrise hbelow id, le_claim_joined hbelow id, hfloor⟩
  · rw [List.length_append]
    exact hplace
  · cases hes : x.epochs with
    | nil => rw [hes] at hfirst; cases hfirst
    | cons e es => rw [hes] at hfirst; exact hfirst

/-- A new epoch joins a full list, the oldest cut from it (R53). -/
theorem ringHeld_cut {x : Ring} (hlive : x.live = true) (id : ProgId) (h : x.epochs.getLast?.map Epoch.start ≠ some x.claim)
    {first second : Epoch} {rest : List Epoch} (hes : x.epochs = first :: second :: rest) (hbehind : second.start ≤ x.head) :
    RingHeld x { x with floor := second.start, epochs := second :: rest ++ [{ start := x.claim, id := id }] } := by
  refine ringHeld_epochs hlive fun law => ?_
  obtain ⟨hlen, -, hrise, hclaim, -⟩ := law.1 hlive
  have hbelow := starts_lt_claim hrise hclaim h
  rw [hes] at hbelow hrise hlen
  have hrest : ∀ e ∈ second :: rest, e.start < x.claim := fun e he => hbelow e (List.mem_cons_of_mem _ he)
  refine ⟨?_, rfl, pairwise_joined (List.pairwise_cons.mp hrise).2 hrest id, le_claim_joined hrest id, hbehind⟩
  simpa using hlen

theorem ringsHeld_switched {r : Nat} {x : Ring} {s : State} (h : RingHeld (s.ring r) x) (ha : x.accesses = (s.ring r).accesses) :
    RingsHeld s (switched r x s).1 :=
  ringsHeld_mapRing (f := fun _ => x) h (by rw [ha]; exact List.Subset.refl _)

theorem ringsHeld_switchLive (r : Nat) (id : ProgId) {s : State} (hlive : (s.ring r).live = true) :
    RingsHeld s (switchLive r id s).1 := by
  unfold switchLive
  dsimp only
  cases hlast : (s.ring r).epochs.getLast?.map Epoch.start == some (s.ring r).claim
  case true => exact ringsHeld_switched (ringHeld_renamed hlive id (beq_iff_eq.mp hlast)) rfl
  have hne : (s.ring r).epochs.getLast?.map Epoch.start ≠ some (s.ring r).claim := beq_eq_false_iff_ne.mp hlast
  dsimp only [cond]
  split
  · rename_i hplace
    exact ringsHeld_switched (ringHeld_joined hlive id hne hplace) rfl
  · split
    · rename_i first second rest hes
      split
      · exact .refl s
      · rename_i hbehind
        have hlatch : RingsHeld s (latch .epochCut s) := .of_settled (settled_latch .epochCut s) (.of_eq rfl)
        exact hlatch.trans (ringsHeld_switched (s := latch .epochCut s)
          (ringHeld_cut hlive id hne hes (Nat.not_lt.mp hbehind)) rfl)
    · exact .refl s

theorem ringsHeld_serveSwitchRing (r : Request) (s : State) : RingsHeld s (serveSwitchRing r s).1 := by
  unfold serveSwitchRing
  split
  · rename_i q id
    unfold switchRingTo
    split
    · exact .refl s
    · cases hlive : (s.ring q).live
      · exact .refl s
      · exact ringsHeld_switchLive q id hlive
  · exact .refl s

theorem ringsHeld_serveCloseRing (r : Request) (s : State) : RingsHeld s (serveCloseRing r s).1 := by
  unfold serveCloseRing
  split
  · unfold closeRingOf
    dsimp only [cond]
    split
    · exact .refl s
    · split
      · exact .refl s
      · exact (ringsHeld_mapRing (ringHeld_closed _) (by rw [closed_eq]; exact List.Subset.refl _)).trans
          (.of_settled (settled_stopJobs _ _ _) (ringsSame_stopJobs _ _ _))
  · exact .refl s

theorem ringsHeld_serveSubmitKeep (r : Request) (s : State) : RingsHeld s (serveSubmitKeep r s).1 := by
  unfold serveSubmitKeep
  split
  · unfold submitKeepOf
    repeat' split
    all_goals first | exact .refl s | exact .of_eq rfl (List.Subset.refl _)
  · exact .refl s

theorem ringsHeld_serveCancelKeep (r : Request) (s : State) : RingsHeld s (serveCancelKeep r s).1 := by
  unfold serveCancelKeep
  split
  · unfold cancelKeepOf
    dsimp only [cond]
    split
    · exact .refl s
    · split
      · exact .refl s
      · exact .of_settled (settled_stopJob _ s _) (ringsSame_stopJob _ s _)
  · exact .refl s

theorem ringsHeld_serveClearAlerts (r : Request) (s : State) : RingsHeld s (serveClearAlerts r s).1 := by
  unfold serveClearAlerts
  split
  · unfold clearAlertsOf
    cases AlertSet.beyond _ <;> exact .of_eq rfl (List.Subset.refl _)
  · exact .refl s

theorem ringsHeld_serveMaskAlerts (r : Request) (s : State) : RingsHeld s (serveMaskAlerts r s).1 := by
  unfold serveMaskAlerts
  split
  · unfold maskAlertsTo
    cases AlertSet.beyond _ <;> exact .of_eq rfl (List.Subset.refl _)
  · exact .refl s

theorem ringsHeld_send (f : List Byte) (s : State) : RingsHeld s (sendFrame f s) := by
  unfold sendFrame
  split
  · exact .of_settled (settled_latch _ s) (.of_eq rfl)
  · exact .of_eq rfl (List.Subset.refl _)

/-! ## Every command -/

/-- Every command but OPEN RING and POWER_ON_RESET holds the rings. -/
theorem exec_ringsHeld {c : Instr} {s t : State} (h : exec c s = .next t) (hopen : c ≠ .openRing) (hpor : c ≠ .powerOnReset) :
    RingsHeld s t := by
  have same : ∀ u : State, u.rings = s.rings → u.tracker = s.tracker → RingsHeld s u := fun _ => RingsHeld.and (.refl s)
  cases c <;> injection h with h <;> subst h
  case powerOnReset => exact absurd rfl hpor
  case openRing => exact absurd rfl hopen
  case profileLoadEnd | profileLoadTimeout => exact ringsHeld_endLoad _ s
  case resetAsserted => exact .cond _ (.refl s) (ringsHeld_lineResetBlocks s).settle
  case linkReset | upstreamLinkLost => exact .cond _ (.refl s) (ringsHeld_linkGone _ s).settle
  case lockdown => exact .cond _ (same _ rfl rfl) (.cond _ (.refl s) (ringsHeld_enterLockdown s).settle)
  case upstreamLinkEstablished | downstreamLinkUp | diskReadySignature =>
    exact .cond _ (RingsHeld.settle (same _ rfl rfl)) (.refl s)
  case downstreamLinkLost => exact .cond _ (.refl s) (ringsHeld_loseDisk _ s)
  case diskSelfReset => exact .cond _ (ringsHeld_loseDisk _ s) (.refl s)
  case read | write | soleRead | soleWrite | flush | identify | passNoData | unknownCommand =>
    exact ringsHeld_arrive _ _ _ _ _ _ s
  case requestForWriteData | diskReadData | downstreamCommandEnd | diskFailure => exact ringsHeld_diskFrame _ s
  case keepReadEnd | keepWriteEnd => exact ringsHeld_keepEnd _ _ _ _ s
  case systemPortReady => exact ringsHeld_sameStep settledBy_systemPortReady ringsSameBy_systemPortReady s
  case drainRelease k => exact ringsHeld_step (settledBy_drainRelease k) (ringLawKeptBy_drainRelease k) s
  case pendingDefinitionApplied i => exact ringsHeld_sameStep (settledBy_applyPending i) (ringsSameBy_applyPending i) s
  case keywaitRecheck k => exact ringsHeld_step (settledBy_keywaitRecheck k) (ringLawKeptBy_keywaitRecheck k) s
  case keywaitTimerExpiry k => exact ringsHeld_sameStep (settledBy_keywaitExpired k) (ringsSameBy_keywaitExpired k) s
  case ringorderRelease k => exact ringsHeld_step (settledBy_ringorderRelease k) (ringLawKeptBy_ringorderRelease k) s
  case overrunRelease k => exact ringsHeld_step (settledBy_overrunRelease k) (ringLawKeptBy_overrunRelease k) s
  case overrunTimerExpiry k => exact ringsHeld_sameStep (settledBy_overrunExpired k) (ringsSameBy_overrunExpired k) s
  case tagwaitGrant => exact ringsHeld_step settledBy_tagwaitGrant ringLawKeptBy_tagwaitGrant s
  case solewaitRelease => exact ringsHeld_step settledBy_solewaitRelease ringLawKeptBy_solewaitRelease s
  case secondPartIssue k => exact ringsHeld_sameStep (settledBy_secondPart k) (ringsSameBy_secondPart k) s
  case bufferRequestMet => exact ringsHeld_sameStep settledBy_requestMet ringsSameBy_requestMet s
  case keepChunkStart => exact ringsHeld_sameStep settledBy_chunkStart ringsSameBy_chunkStart s
  case hostWriteData => exact .settle_getD fun _ => ringsHeld_takeWriteData
  case writeDataRequest => exact .settle_getD fun _ => ringsHeld_writeRequest
  case readDataBurst => exact .settle_getD fun _ => ringsHeld_readBurst
  case completion => exact .settle_getD fun _ => ringsHeld_completion
  case grantStart => exact .settle_getD fun _ => ringsHeld_grantStart
  case grantEnd =>
    split
    · exact (ringsHeld_endGrant _ s).settle
    · exact .refl s
  case idleGateOpen => exact RingsHeld.settle (same _ rfl rfl)
  case lowPowerRequest => exact (ringsHeld_lowPowerAsked _ s).settle
  case downstreamLowPower => exact (ringsHeld_carryLowPower s).settle
  case diskLowPowerAnswer => exact (ringsHeld_lowPowerAnswered _ s).settle
  case resetDeasserted | fetch => exact same _ rfl rfl
  case diskLowPowerRequest => exact .cond _ (same _ rfl rfl) (.refl s)
  case hostWake | diskWake =>
    split
    · exact RingsHeld.settle (same _ rfl rfl)
    · exact .refl s
  case secondCounted | minuteTick | oscillatorCycle => exact .cond _ (ringsHeld_countCycle s) (.refl s)
  case send => exact ringsHeld_send _ s
  case malformedFrame | unknownRequest => exact ringsHeld_takeRequest fun _ => .refl s
  case setClock => exact ringsHeld_takeRequest fun r => ringsHeld_serveSetClock r s
  case trimClock => exact ringsHeld_takeRequest fun r => ringsHeld_serveTrimClock r s
  case loadKey => exact ringsHeld_takeRequest fun r => ringsHeld_serveLoadKey r s
  case dropKey => exact ringsHeld_takeRequest fun r => ringsHeld_serveDropKey r s
  case setDeadline => exact ringsHeld_takeRequest fun r => ringsHeld_serveSetDeadline r s
  case putRegionNow | putRegionBoundary | freeRegionNow | freeRegionBoundary =>
    exact ringsHeld_regions s (by simp [regionServers])
  case shapeRing => exact ringsHeld_takeRequest fun r => ringsHeld_serveShapeRing r s
  case switchRing => exact ringsHeld_takeRequest fun r => ringsHeld_serveSwitchRing r s
  case closeRing => exact ringsHeld_takeRequest fun r => ringsHeld_serveCloseRing r s
  case submitKeep => exact ringsHeld_takeRequest fun r => ringsHeld_serveSubmitKeep r s
  case cancelKeep => exact ringsHeld_takeRequest fun r => ringsHeld_serveCancelKeep r s
  case clearAlerts => exact ringsHeld_takeRequest fun r => ringsHeld_serveClearAlerts r s
  case maskAlerts => exact ringsHeld_takeRequest fun r => ringsHeld_serveMaskAlerts r s
  case readStatusAlerts | readStatusClock | readStatusKeyTable | readStatusRegion | readStatusRing | readStatusKeepQueue
      | readStatusOutcomeList | readStatusMissList | readStatusProfileInUse =>
    exact ringsHeld_status s (by simp [statusServers])

end Sys2Proof.Machine
end

section
/-! SUPPORT. OPEN RING (R51), the entries that name the rings (R19), and the settling of O8. -/

namespace Sys2Proof.Machine

/-! ## OPEN RING -/

/-- The rings after OPEN RING: held, but that an Idle ring with its entry may be Live now (R51). -/
structure RingsOpened (s t : State) : Prop where
  law   : RingLawKept s t
  rises : ∀ q < Config.ringCount, (t.ring q).live = true →
    ((s.ring q).live = true ∧ (s.ring q).claim ≤ (t.ring q).claim ∧ (s.ring q).head ≤ (t.ring q).head)
      ∨ (s.ring q).live = false ∧ s.mappedRing q = true

theorem RingsHeld.opened {s t : State} (h : RingsHeld s t) : RingsOpened s t := ⟨h.law, fun q hq hlive => .inl (h.rises q hq hlive)⟩

theorem RingsOpened.trans {s t u : State} (h : RingsOpened s t) (k : RingsHeld t u) : RingsOpened s u := by
  refine ⟨h.law.trans k.law, fun q hq hlive => ?_⟩
  obtain ⟨ht, hclaim, hhead⟩ := k.rises q hq hlive
  rcases h.rises q hq ht with ⟨hs, hclaim', hhead'⟩ | hopened
  · exact .inl ⟨hs, hclaim'.trans hclaim, hhead'.trans hhead⟩
  · exact .inr hopened

/-- A ring with a span is opened on one epoch (R51). -/
theorem opened_law {x : Ring} (hspan : x.span ≠ 0) (id : ProgId) : (x.opened id).Law :=
  .of_live rfl (Nat.le_add_left 1 3) rfl (List.pairwise_singleton _ _) (fun _ he => (List.mem_singleton.mp he) ▸ Nat.le_refl 0)
    (Nat.le_refl 0) (Nat.le_refl 0) (Nat.pos_of_ne_zero hspan) nofun

theorem ringsOpened_opened {r : Nat} {s : State} (hspan : (s.ring r).span ≠ 0) (hlive : (s.ring r).live = false)
    (hmapped : s.mappedRing r = true) (id : ProgId) : RingsOpened s (mapRing r (fun x => x.opened id) s) := by
  have hring := ring_mapRing r (fun x => x.opened id) s
  refine ⟨fun law q hq => ?_, fun q hq hq' => ?_⟩
  · rw [hring]
    split
    · rename_i h
      exact ⟨opened_law hspan id, (law r h.2).2.1, nofun⟩
    · exact law q hq
  · by_cases h : q = r
    · exact .inr (h ▸ ⟨hlive, hmapped⟩)
    · rw [hring, if_neg fun hc => h hc.1] at hq' ⊢
      exact .inl ⟨hq', Nat.le_refl _, Nat.le_refl _⟩

theorem ringsOpened_openRingAt (r : Nat) (id : ProgId) (s : State) : RingsOpened s (openRingAt r id s).1 := by
  have same : RingsOpened s s := (RingsHeld.refl s).opened
  unfold openRingAt
  split
  · exact same
  rename_i hargs
  cases s.keys.lockdown
  case true => exact same
  cases hlive : (s.ring r).live
  case true => exact same
  cases hmapped : s.mappedRing r
  case false => exact same
  dsimp only [cond, Bool.not]
  split
  · exact same
  · exact ringsOpened_opened (fun h => hargs (.inr (.inr h))) hlive hmapped id

theorem ringsOpened_openRing (s : State) : RingsOpened s (takeRequest .openRing serveOpenRing s) := by
  refine takeRequest_keeps (RingsOpened s) (RingsHeld.refl s).opened (fun f a u hu => hu.trans (ringsHeld_reply f a u)) fun r => ?_
  unfold serveOpenRing
  split
  · exact ringsOpened_openRingAt _ _ s
  · exact (RingsHeld.refl s).opened

/-- What every command but POWER_ON_RESET leaves of the rings. -/
theorem exec_ringsOpened {c : Instr} {s t : State} (h : exec c s = .next t) (hpor : c ≠ .powerOnReset) : RingsOpened s t := by
  by_cases hopen : c = .openRing
  · subst hopen
    injection h with h
    subst h
    exact ringsOpened_openRing s
  · exact (exec_ringsHeld h hopen hpor).opened

/-! ## The entries that name a ring (R19) -/

/-- The entry's active definition names the ring, and it holds no pending definition (R19). -/
def RegionEntry.maps (r : Nat) (e : RegionEntry) : Prop := (∃ d, e.active = some d ∧ d.kind = .ring r) ∧ e.staged = none

theorem mappedRing_iff (s : State) (r : Nat) : s.mappedRing r = true ↔ ∃ i < Config.regionCount, (s.entry i).maps r := by
  have hentry : ∀ e : RegionEntry, ((e.active.bind fun d => d.kind.ring?) == some r && e.staged.isNone) = true ↔ e.maps r := by
    intro e
    unfold RegionEntry.maps
    simp only [Bool.and_eq_true, beq_iff_eq, Option.isNone_iff_eq_none, Option.bind_eq_some_iff, ring?_eq_some]
  unfold State.mappedRing
  simp only [entries_toList, List.any_map, List.any_eq_true, List.mem_range, Function.comp, hentry]

/-- A pending definition that is applied was one of the names of its entry. -/
theorem names_of_settled {e f : RegionEntry} (h : EntrySettled e f) {r : Nat} (hf : f.names r = true) : e.names r = true := by
  rw [names_iff] at hf ⊢
  obtain ⟨d, hd, hf⟩ := hf
  rcases h with ⟨ha, hs⟩ | ⟨-, ha, hs⟩
  · rw [ha, hs] at hf
    exact ⟨d, hd, hf⟩
  · rw [ha, hs] at hf
    rcases hf with hf | hf
    · unfold RegionEntry.applied at hf
      split at hf
      · exact ⟨d, hd, .inr (by simp_all)⟩
      · cases hf
      · exact ⟨d, hd, .inl hf⟩
    · cases hf

theorem maps_of_settled {e f : RegionEntry} (h : EntrySettled e f) {r : Nat} (he : e.maps r) : f.maps r := by
  obtain ⟨hactive, hstaged⟩ := he
  rcases h with ⟨ha, hs⟩ | ⟨hsome, -⟩
  · exact ⟨ha ▸ hactive, hs.trans hstaged⟩
  · rw [hstaged] at hsome
    cases hsome

theorem EntriesKept.mappedRing {s t : State} (h : EntriesKept s t) {r : Nat} (hs : s.mappedRing r = true) : t.mappedRing r = true := by
  obtain ⟨i, hi, hmaps⟩ := (mappedRing_iff s r).mp hs
  exact (mappedRing_iff t r).mpr ⟨i, hi, maps_of_settled (h i) hmaps⟩

/-- Entries that keep their definitions keep each ring named once (R19). -/
theorem ringNameLaw_of_kept {s t : State} (h : EntriesKept s t)
    (hlive : ∀ r < Config.ringCount, (t.ring r).live = true → (s.ring r).live = true ∨ s.mappedRing r = true) (law : s.RingNameLaw) :
    t.RingNameLaw := by
  intro r hr
  obtain ⟨honce, hmapped⟩ := law r hr
  refine ⟨fun i hi j hj hni hnj => honce i hi j hj (names_of_settled (h i) hni) (names_of_settled (h j) hnj), fun ht => ?_⟩
  exact h.mappedRing ((hlive r hr ht).elim hmapped id)

theorem RingsOpened.live {s t : State} (h : RingsOpened s t) : ∀ r < Config.ringCount, (t.ring r).live = true →
    (s.ring r).live = true ∨ s.mappedRing r = true := fun r hr hlive => (h.rises r hr hlive).imp And.left And.right

/-- A change of an entry that maps no Live ring, to definitions whose rings no other entry names (R19). -/
theorem ringNameLaw_mapEntry {i : Nat} {f : RegionEntry → RegionEntry} {s : State} (hlive : s.entryLive i = false)
    (hnames : ∀ r, (f (s.entry i)).names r = true → (s.entry i).names r = true ∨ ¬ s.namedElsewhere i r) (law : s.RingNameLaw) :
    (mapEntry i f s).RingNameLaw := by
  have hentry := entry_mapEntry i f s
  have elsewhere : ∀ r j, j < Config.regionCount → j ≠ i → (s.entry j).names r = true → s.namedElsewhere i r := fun r j hj hne hn =>
    ⟨j, hj, hne, (names_iff r _).mp hn⟩
  intro r hr
  obtain ⟨honce, hmapped⟩ := law r hr
  refine ⟨fun j hj k hk hnj hnk => ?_, fun hring => ?_⟩
  · rw [hentry] at hnj hnk
    split at hnj <;> split at hnk
    · rename_i hj' hk'
      exact hj'.1.trans hk'.1.symm
    · rename_i hj' hk'
      have hne : k ≠ i := fun hc => hk' ⟨hc, hj'.2⟩
      rcases hnames r hnj with hold | hnot
      · exact honce j hj k hk (hj'.1 ▸ hold) hnk
      · exact absurd (elsewhere r k hk hne hnk) hnot
    · rename_i hj' hk'
      have hne : j ≠ i := fun hc => hj' ⟨hc, hk'.2⟩
      rcases hnames r hnk with hold | hnot
      · exact honce j hj k hk hnj (hk'.1 ▸ hold)
      · exact absurd (elsewhere r j hj hne hnj) hnot
    · exact honce j hj k hk hnj hnk
  · have hring' : (s.ring r).live = true := hring
    obtain ⟨j, hj, hmaps⟩ := (mappedRing_iff s r).mp (hmapped hring')
    refine (mappedRing_iff _ r).mpr ⟨j, hj, ?_⟩
    rw [hentry, if_neg]
    · exact hmaps
    · rintro ⟨rfl, -⟩
      obtain ⟨⟨d, hd, hk⟩, -⟩ := hmaps
      have : s.entryLive j = true := (entryLive_iff s j).mpr ⟨d, r, hd, hk, hring'⟩
      rw [hlive] at this
      cases this

theorem putCheck_ok {s : State} {i : Nat} {d : RawDefinition} {x : Definition} (h : s.putCheck i d = .ok x) :
    s.entryLive i = false ∧ ∀ r, x.kind = .ring r → ¬ s.namedElsewhere i r := by
  unfold State.putCheck at h
  split at h
  · cases h
  split at h
  · cases h
  rename_i y _
  cases hlive : s.entryLive i
  case true => rw [hlive] at h; cases h
  cases htaken : s.ringTaken i y
  case true => rw [hlive, htaken] at h; cases h
  rw [hlive, htaken] at h
  cases h
  refine ⟨rfl, fun r hr hn => ?_⟩
  rw [(ringTaken_iff s i x r hr).mpr hn] at htaken
  cases htaken

theorem freeCheck_none {s : State} {i : Nat} (h : s.freeCheck i = none) : s.entryLive i = false := by
  unfold State.freeCheck at h
  split at h
  · cases h
  · cases hlive : s.entryLive i
    · rfl
    · rw [hlive] at h
      cases h

/-- A definition that passes its checks, applied or staged (R18 to R21). -/
theorem ringNameLaw_define {s : State} {i : Nat} {d : RawDefinition} {x : Definition} (h : s.putCheck i d = .ok x)
    (law : s.RingNameLaw) : (defineEntry i x s).RingNameLaw ∧ (stageEntry i (.define x) s).RingNameLaw := by
  obtain ⟨hlive, hfree⟩ := putCheck_ok h
  constructor
  · refine ringNameLaw_mapEntry hlive (fun r hn => .inr ?_) law
    obtain ⟨y, hy, ha | hs⟩ := (names_iff r _).mp hn
    · cases ha
      exact hfree r hy
    · cases hs
  · refine ringNameLaw_mapEntry hlive (fun r hn => ?_) law
    obtain ⟨y, hy, ha | hs⟩ := (names_iff r _).mp hn
    · exact .inl ((names_iff r _).mpr ⟨y, hy, .inl ha⟩)
    · cases hs
      exact .inr (hfree r hy)

/-- An entry made Vacant, at once or at the boundary (R24). -/
theorem ringNameLaw_vacate {s : State} {i : Nat} (h : s.freeCheck i = none) (law : s.RingNameLaw) :
    (vacateEntry i s).RingNameLaw ∧ (stageEntry i .vacate s).RingNameLaw := by
  have hlive := freeCheck_none h
  constructor
  · refine ringNameLaw_mapEntry hlive (fun r hn => ?_) law
    obtain ⟨y, -, ha | hs⟩ := (names_iff r _).mp hn
    · cases ha
    · cases hs
  · refine ringNameLaw_mapEntry hlive (fun r hn => .inl ?_) law
    obtain ⟨y, hy, ha | hs⟩ := (names_iff r _).mp hn
    · exact (names_iff r _).mpr ⟨y, hy, .inl ha⟩
    · cases hs

theorem ringNameLaw_putNow (i : Nat) (d : RawDefinition) {s : State} (law : s.RingNameLaw) : (putNow i d s).1.RingNameLaw := by
  unfold putNow
  split
  · exact law
  · rename_i h
    exact (ringNameLaw_define h law).1

theorem ringNameLaw_putBoundary (i : Nat) (d : RawDefinition) {s : State} (law : s.RingNameLaw) :
    (putBoundary i d s).1.RingNameLaw := by
  unfold putBoundary
  split
  · exact law
  · rename_i h
    split
    · exact (ringNameLaw_define h law).1
    · exact (ringNameLaw_define h law).2

theorem ringNameLaw_freeNow (i : Nat) {s : State} (law : s.RingNameLaw) : (freeNow i s).1.RingNameLaw := by
  unfold freeNow
  split
  · exact law
  · rename_i h
    exact (ringNameLaw_vacate h law).1

theorem ringNameLaw_freeBoundary (i : Nat) {s : State} (law : s.RingNameLaw) : (freeBoundary i s).1.RingNameLaw := by
  unfold freeBoundary
  split
  · exact law
  · rename_i h
    dsimp only [cond]
    split
    · exact law
    · split
      · exact (ringNameLaw_vacate h law).1
      · exact (ringNameLaw_vacate h law).2

theorem ringNameLaw_regionServers (r : Request) {s : State} (law : s.RingNameLaw) :
    ∀ serve ∈ regionServers, (serve r s).1.RingNameLaw := by
  intro serve h
  simp only [regionServers, List.mem_cons, List.not_mem_nil, or_false] at h
  rcases h with rfl | rfl | rfl | rfl
  · unfold servePutNow
    split
    · exact ringNameLaw_putNow _ _ law
    · exact law
  · unfold servePutBoundary
    split
    · exact ringNameLaw_putBoundary _ _ law
    · exact law
  · unfold serveFreeNow
    split
    · exact ringNameLaw_freeNow _ law
    · exact law
  · unfold serveFreeBoundary
    split
    · exact ringNameLaw_freeBoundary _ law
    · exact law

theorem ringNameLaw_reply (f : List Byte) (a : Answer) {u : State} (law : u.RingNameLaw) : (placeReply f a (settle u)).RingNameLaw :=
  ringNameLaw_of_kept (mapFrame_reply f a u).1 (ringsHeld_reply f a u).opened.live law

theorem ringNameLaw_regions {row : RequestRow} {serve : Request → State → State × Answer} {s : State} (h : serve ∈ regionServers)
    (law : s.RingNameLaw) : (takeRequest row serve s).RingNameLaw :=
  takeRequest_keeps State.RingNameLaw law (fun f a _ hu => ringNameLaw_reply f a hu) fun r => ringNameLaw_regionServers r law serve h

/-- Every command but POWER_ON_RESET keeps each ring named once, and a Live ring's entry free of staged changes (R19). -/
theorem exec_ringNameLaw {c : Instr} {s t : State} (h : exec c s = .next t) (hpor : c ≠ .powerOnReset) (law : s.RingNameLaw) :
    t.RingNameLaw := by
  by_cases hregion : c ∈ [Instr.putRegionNow, .putRegionBoundary, .freeRegionNow, .freeRegionBoundary]
  · simp only [List.mem_cons, List.not_mem_nil, or_false] at hregion
    rcases hregion with rfl | rfl | rfl | rfl <;> injection h with h <;> subst h <;>
      exact ringNameLaw_regions (by simp [regionServers]) law
  · exact ringNameLaw_of_kept ((exec_frames c h hpor).1 hregion) (exec_ringsOpened h hpor).live law

/-! ## Power-on reset -/

theorem reset_ringNameLaw : State.reset.RingNameLaw := by
  intro r _
  refine ⟨fun i _ j _ hn => ?_, fun h => ?_⟩
  · rw [reset_entry] at hn
    exact absurd hn (by simp [RegionEntry.names, RegionEntry.vacant])
  · rw [reset_ring] at h
    cases h

/-- The laws of the rings at power-on reset (R172). -/
theorem powerOn_ringLaws {s t : State} (h : exec .powerOnReset s = .next t) : t.RingLaw ∧ t.RingNameLaw := by
  injection h with h
  subst h
  exact ⟨reset_ringLaw, reset_ringNameLaw⟩

/-- Settles O8: the laws over every command, and a step is the command at the front of the queue. -/
theorem stepKeepsRingLaws : Obligations.StepKeepsRingLaws := by
  intro s t h
  unfold step at h
  split at h
  · injection h with h
    subst h
    exact ⟨fun law => ⟨law, fun _ r _ _ _ => ⟨Nat.le_refl _, Nat.le_refl _⟩⟩, id⟩
  · rename_i c rest hp
    by_cases hc : c = .powerOnReset
    · subst hc
      obtain ⟨hlaw, hnames⟩ := powerOn_ringLaws h
      exact ⟨fun _ => ⟨hlaw, fun hne => absurd (by rw [hp]; rfl) hne⟩, fun _ => hnames⟩
    · have hopened := exec_ringsOpened h hc
      refine ⟨fun law => ⟨hopened.law law, fun _ r hr hs ht => ?_⟩, fun law => exec_ringNameLaw h hc law⟩
      rcases hopened.rises r hr ht with ⟨-, hrises⟩ | ⟨hidle, -⟩
      · exact hrises
      · exact absurd (hidle.symm.trans hs) (by decide)

end Sys2Proof.Machine
end

section
/-! SUPPORT. The tests of a Live ring (R57, R58) and the settling of O30. -/

namespace Sys2Proof.Machine

/-- The lower end of a Live ring's window (R47). -/
theorem lower_of_live {q : Ring} (h : q.live = true) : q.lower = max q.floor (q.head - q.trail) := by
  rw [Ring.lower, h]
  rfl

/-- A write of the list that is not issued overwrites the range (R57). -/
theorem any_overwrites_iff (q : Ring) (v n : Nat) :
    (q.accesses.any fun a => a.write && !a.issued && overwrites q.span a.first a.count v (v + n)) = true ↔
      ∃ a ∈ q.accesses, a.write = true ∧ a.issued = false ∧ overwrites q.span a.first a.count v (v + n) = true := by
  simp only [List.any_eq_true, Bool.and_eq_true, Bool.not_eq_true', and_assoc]

/-- Settles O30: the tests in their order, read on a Live ring. -/
theorem ringAcceptanceTests : Obligations.RingAcceptanceTests := by
  refine ⟨overwrites_iff, fun q v n hlive _ => ⟨?_, ?_⟩⟩
  · unfold Ring.readFailure
    rw [lower_of_live hlive]
    simp only [any_overwrites_iff]
  · unfold Ring.writeFailure
    rw [lower_of_live hlive]

end Sys2Proof.Machine
end

section
/-! SUPPORT. The frames of the Ring Unit's requests read back, and the refusals and effects of SHAPE RING and OPEN RING; the
settling of O27. -/

namespace Sys2Proof.Machine

/-! ## The frames -/

/-- A ring number's byte reads back (Table 10-2). -/
theorem toNat_ringByte {r : Nat} (hr : r < 256) (rest : List Byte) : (byteAt ([BitVec.ofNat 8 r] ++ rest) 0).toNat = r := by
  rw [show byteAt ([BitVec.ofNat 8 r] ++ rest) 0 = BitVec.ofNat 8 r from byteAt_of_prefix (pre := []) rfl rfl, BitVec.toNat_ofNat]
  omega

theorem decodeFrame_shapeRing {r pb p w : Nat} (sequence : Byte) (h : (Request.shapeRing r pb p w).fits = true) :
    decodeFrame ((Request.shapeRing r pb p w).frame sequence) = .request (.shapeRing r pb p w) := by
  have hlen : (Request.shapeRing r pb p w).body.length = 25 := by simp [Request.body]
  simp only [Request.fits, Bool.and_eq_true, decide_eq_true_eq] at h
  obtain ⟨⟨⟨hr, hpb⟩, hp⟩, hw⟩ := h
  have hring : (byteAt (Request.shapeRing r pb p w).body 0).toNat = r := by
    simp only [Request.body, List.append_assoc]
    exact toNat_ringByte hr _
  have hbase : fieldAt (Request.shapeRing r pb p w).body 1 8 = pb := by
    rw [fieldAt_of_prefix (pre := [BitVec.ofNat 8 r]) (n := 8) (v := pb) (post := leBytes 8 p ++ leBytes 8 w) (off := 1)
      (by simp [Request.body]) rfl]
    omega
  have hspan : fieldAt (Request.shapeRing r pb p w).body 9 8 = p := by
    rw [fieldAt_of_prefix (pre := [BitVec.ofNat 8 r] ++ leBytes 8 pb) (n := 8) (v := p) (post := leBytes 8 w)
      (by simp [Request.body]) (by simp)]
    omega
  have htrail : fieldAt (Request.shapeRing r pb p w).body 17 8 = w := by
    rw [fieldAt_of_prefix (pre := [BitVec.ofNat 8 r] ++ leBytes 8 pb ++ leBytes 8 p) (n := 8) (v := w) (post := [])
      (by simp [Request.body]) (by simp)]
    omega
  rw [decodeFrame_frame _ sequence (by rw [hlen]; decide) rfl (by unfold bodyFits; rw [hlen]; rfl)]
  show Taken.request (.shapeRing (byteAt _ 0).toNat (fieldAt _ 1 8) (fieldAt _ 9 8) (fieldAt _ 17 8)) = _
  rw [hring, hbase, hspan, htrail]

/-- The id behind a ring number's byte reads back (Table 10-2). -/
theorem idAt_ringBody (r : Nat) (id : ProgId) : idAt ([BitVec.ofNat 8 r] ++ leBytes 4 id.toNat) 1 = id :=
  ofNat_fieldAt_of_prefix (pre := [BitVec.ofNat 8 r]) (post := []) (by simp) rfl rfl

theorem length_ringIdBody (r : Nat) (id : ProgId) : ([BitVec.ofNat 8 r] ++ leBytes 4 id.toNat).length = 5 := by simp

theorem decodeFrame_openRing {r : Nat} {id : ProgId} (sequence : Byte) (h : (Request.openRing r id).fits = true) :
    decodeFrame ((Request.openRing r id).frame sequence) = .request (.openRing r id) := by
  have hlen : (Request.openRing r id).body.length = 5 := length_ringIdBody r id
  have hr : r < 256 := by simpa [Request.fits] using h
  rw [decodeFrame_frame _ sequence (by rw [hlen]; decide) rfl (by unfold bodyFits; rw [hlen]; rfl)]
  show Taken.request (.openRing (byteAt ([BitVec.ofNat 8 r] ++ leBytes 4 id.toNat) 0).toNat
    (idAt ([BitVec.ofNat 8 r] ++ leBytes 4 id.toNat) 1)) = _
  rw [toNat_ringByte hr, idAt_ringBody]

theorem decodeFrame_switchRing {r : Nat} {id : ProgId} (sequence : Byte) (h : (Request.switchRing r id).fits = true) :
    decodeFrame ((Request.switchRing r id).frame sequence) = .request (.switchRing r id) := by
  have hlen : (Request.switchRing r id).body.length = 5 := length_ringIdBody r id
  have hr : r < 256 := by simpa [Request.fits] using h
  rw [decodeFrame_frame _ sequence (by rw [hlen]; decide) rfl (by unfold bodyFits; rw [hlen]; rfl)]
  show Taken.request (.switchRing (byteAt ([BitVec.ofNat 8 r] ++ leBytes 4 id.toNat) 0).toNat
    (idAt ([BitVec.ofNat 8 r] ++ leBytes 4 id.toNat) 1)) = _
  rw [toNat_ringByte hr, idAt_ringBody]

theorem decodeFrame_closeRing {r : Nat} (sequence : Byte) (h : (Request.closeRing r).fits = true) :
    decodeFrame ((Request.closeRing r).frame sequence) = .request (.closeRing r) := by
  have hr : r < 256 := by simpa [Request.fits] using h
  rw [decodeFrame_frame (.closeRing r) sequence (by simp [Request.body]) rfl rfl]
  show Taken.request (.closeRing (byteAt ([BitVec.ofNat 8 r] ++ []) 0).toNat) = _
  rw [toNat_ringByte hr]

/-! ## The step of each -/

theorem exec_shapeRing {sequence : Byte} {r pb p w : Nat} {s : State} (h : s.inProgress sequence (.shapeRing r pb p w)) :
    exec .shapeRing s = .next ((settle (shapeRingTo r pb p w s).1).answered sequence (shapeRingTo r pb p w s).2.status
      (shapeRingTo r pb p w s).2.body) :=
  congrArg Host.Outcome.next (takeRequest_of_inProgress h
    (rowOf_frame (.shapeRing r pb p w) sequence (by simp [Request.body])) (decodeFrame_shapeRing sequence h.2.2) serveShapeRing)

theorem exec_openRing {sequence : Byte} {r : Nat} {id : ProgId} {s : State} (h : s.inProgress sequence (.openRing r id)) :
    exec .openRing s = .next ((settle (openRingAt r id s).1).answered sequence (openRingAt r id s).2.status
      (openRingAt r id s).2.body) :=
  congrArg Host.Outcome.next (takeRequest_of_inProgress h
    (rowOf_frame (.openRing r id) sequence (by simp [Request.body])) (decodeFrame_openRing sequence h.2.2) serveOpenRing)

theorem exec_switchRing {sequence : Byte} {r : Nat} {id : ProgId} {s : State} (h : s.inProgress sequence (.switchRing r id)) :
    exec .switchRing s = .next ((settle (switchRingTo r id s).1).answered sequence (switchRingTo r id s).2.status
      (switchRingTo r id s).2.body) :=
  congrArg Host.Outcome.next (takeRequest_of_inProgress h
    (rowOf_frame (.switchRing r id) sequence (by simp [Request.body])) (decodeFrame_switchRing sequence h.2.2) serveSwitchRing)

theorem exec_closeRing {sequence : Byte} {r : Nat} {s : State} (h : s.inProgress sequence (.closeRing r)) :
    exec .closeRing s = .next ((settle (closeRingOf r s).1).answered sequence (closeRingOf r s).2.status
      (closeRingOf r s).2.body) :=
  congrArg Host.Outcome.next (takeRequest_of_inProgress h
    (rowOf_frame (.closeRing r) sequence (by simp [Request.body])) (decodeFrame_closeRing sequence h.2.2) serveCloseRing)

/-! ## SHAPE RING -/

/-- The arguments of SHAPE RING that its table refuses (R46, R50). -/
theorem not_shapeFits_iff (pb p w : Nat) : shapeFits pb p w = false ↔
    ¬ (p = 0 ∨ (p % 8 = 0 ∧ 131072 ≤ p ∧ p ≤ 2 ^ 32)) ∨ ¬ (if p = 0 then w = 0 else w % 8 = 0 ∧ 2048 ≤ w ∧ w ≤ p)
      ∨ 2 ^ 48 < pb + p ∨ (p = 0 ∧ (pb ≠ 0 ∨ w ≠ 0)) := by
  have hspace : Config.lbaSpace = 2 ^ 48 := rfl
  unfold shapeFits
  rw [hspace]
  by_cases hp : p = 0
  · rw [if_pos hp, if_pos hp, Bool.and_eq_false_iff, decide_eq_false_iff_not, decide_eq_false_iff_not]
    omega
  · rw [if_neg hp, if_neg hp]
    simp only [Bool.and_eq_false_iff, decide_eq_false_iff_not]
    omega

/-- A span that would meet another ring's (R50). -/
theorem meetsSpan_shape_iff (s : State) (r pb p : Nat) : (decide (p ≠ 0) && s.meetsSpan (some r) pb (pb + p)) = true ↔
    p ≠ 0 ∧ ∃ q < Config.ringCount,
      q ≠ r ∧ (s.ring q).span ≠ 0 ∧ pb < (s.ring q).base + (s.ring q).span ∧ (s.ring q).base < pb + p := by
  rw [Bool.and_eq_true, decide_eq_true_eq, meetsSpan_iff]
  refine and_congr_right fun hp => exists_congr fun q => and_congr_right fun _ => ?_
  constructor
  · rintro ⟨hne, c, h⟩
    exact ⟨fun hq => hne (hq ▸ rfl), by omega, by omega, by omega⟩
  · rintro ⟨hne, hspan, hlo, hhi⟩
    exact ⟨fun hq => hne (Option.some.inj hq).symm, max pb (s.ring q).base, by omega⟩

/-- SHAPE RING against its table (R50). -/
theorem shapeRingTo_eq (r pb p w : Nat) (s : State) : shapeRingTo r pb p w s = match s.shapeRefusal r pb p w with
    | some why => refused why s
    | none => done [] (s.withRing r { s.ring r with base := pb, span := p, trail := w }) := by
  unfold shapeRingTo State.shapeRefusal
  simp only [Bool.cond_eq_ite, Bool.not_eq_true', not_shapeFits_iff, meetsSpan_shape_iff]
  rw [← ite_or]
  split_ifs <;> rfl

/-! ## OPEN RING -/

theorem mappedRing_spelled (s : State) (r : Nat) : s.mappedRing r = true ↔
    ∃ i < Config.regionCount, ((s.entry i).active.bind fun d => d.kind.ring?) = some r ∧ (s.entry i).staged = none := by
  rw [mappedRing_iff]
  simp only [RegionEntry.maps, Option.bind_eq_some_iff, ring?_eq_some]

/-- OPEN RING against its table (R51). -/
theorem openRingAt_eq (r : Nat) (id : ProgId) (s : State) : openRingAt r id s = match s.openRefusal r id with
    | some why => refused why s
    | none => done [] (s.withRing r { s.ring r with
        live := true, claim := 0, head := 0, floor := 0, epochs := [{ start := 0, id := id }], accesses := [] }) := by
  unfold openRingAt State.openRefusal
  simp only [Bool.cond_eq_ite, Bool.not_eq_true', ← Bool.not_eq_true, mappedRing_spelled]
  split_ifs <;> rfl

/-- Settles O27: each request against its table. -/
theorem shapeAndOpenRing : Obligations.ShapeAndOpenRing := by
  refine ⟨fun sequence r pb p w s h => ?_, fun sequence r id s h => ?_⟩
  · rw [exec_shapeRing h, shapeRingTo_eq]
    cases s.shapeRefusal r pb p w <;> rfl
  · rw [exec_openRing h, openRingAt_eq]
    cases s.openRefusal r id <;> rfl

end Sys2Proof.Machine
end

section
/-! SUPPORT. SWITCH RING (R52, R53) and the settling of O28. -/

namespace Sys2Proof.Machine

/-- The newest epoch is renamed where it starts at the claim (R52). -/
theorem switchLive_renames {r : Nat} {s : State} {earlier : List Epoch} {newest : Epoch} (id : ProgId)
    (hes : (s.ring r).epochs = earlier ++ [newest]) (hstart : newest.start = (s.ring r).claim) :
    switchLive r id s = switched r { s.ring r with epochs := earlier ++ [{ start := (s.ring r).claim, id := id }] } s := by
  have hlast : ((s.ring r).epochs.getLast?.map Epoch.start == some (s.ring r).claim) = true := by
    rw [hes, List.getLast?_concat, Option.map_some, hstart, beq_self_eq_true]
  unfold switchLive
  dsimp only
  rw [hlast, cond_true, hes, List.dropLast_concat]

/-- A newest epoch that starts below the claim is not renamed (R52). -/
theorem not_renames {x : Ring} {earlier : List Epoch} {newest : Epoch} (hes : x.epochs = earlier ++ [newest])
    (hstart : newest.start < x.claim) : (x.epochs.getLast?.map Epoch.start == some x.claim) = false := by
  rw [hes, List.getLast?_concat, Option.map_some, beq_eq_false_iff_ne]
  exact fun h => Nat.ne_of_lt hstart (Option.some.inj h)

/-- Else a new epoch joins at the claim, where the list has a place (R52). -/
theorem switchLive_joins {r : Nat} {s : State} {earlier : List Epoch} {newest : Epoch} (id : ProgId)
    (hes : (s.ring r).epochs = earlier ++ [newest]) (hstart : newest.start < (s.ring r).claim)
    (hplace : (s.ring r).epochs.length < 4) : switchLive r id s =
      switched r { s.ring r with epochs := (s.ring r).epochs ++ [{ start := (s.ring r).claim, id := id }] } s := by
  unfold switchLive
  dsimp only
  rw [not_renames hes hstart, cond_false, if_pos hplace]

/-- A full list is refused while its second epoch starts above the head, and has its oldest epoch cut else (R53). -/
theorem switchLive_cuts {r : Nat} {s : State} {oldest second third newest : Epoch} (id : ProgId)
    (hes : (s.ring r).epochs = [oldest, second, third, newest]) (hstart : newest.start < (s.ring r).claim) :
    switchLive r id s = if (s.ring r).head < second.start then refused .full s
      else switched r { s.ring r with floor := second.start, epochs := [second, third, newest, { start := (s.ring r).claim, id := id }] }
        (latch .epochCut s) := by
  unfold switchLive
  dsimp only
  rw [not_renames (earlier := [oldest, second, third]) hes hstart, cond_false, if_neg (by rw [hes]; exact Nat.lt_irrefl 4), hes]
  rfl

/-- SWITCH RING on a Live ring goes by its epochs (R52). -/
theorem switchRingTo_of_live {r : Nat} {id : ProgId} {s : State} (hr : r < 4) (hid : id ≠ 0#32) (hlive : (s.ring r).live = true) :
    switchRingTo r id s = switchLive r id s := by
  unfold switchRingTo
  rw [if_neg (not_or.mpr ⟨Nat.not_le.mpr hr, hid⟩), hlive]
  rfl

/-- Settles O28, by the newest epoch and the length of the list. -/
theorem switchRing : Obligations.SwitchRing := by
  intro sequence r id s h
  have hexec := exec_switchRing h
  refine ⟨fun hbad => ?_, fun hr hid hidle => ?_, fun hr hid hlive earlier newest hes hstart => ?_,
    fun hr hid hlive earlier newest hes hstart hplace => ?_, fun hr hid hlive oldest second third newest hes hstart => ?_⟩
  · rw [hexec, switchRingTo, if_pos hbad]
    rfl
  · rw [hexec, switchRingTo, if_neg (not_or.mpr ⟨Nat.not_le.mpr hr, hid⟩), hidle]
    rfl
  · have hlength : (earlier ++ [({ start := (s.ring r).claim, id := id } : Epoch)]).length = (s.ring r).epochs.length := by
      rw [hes, List.length_append, List.length_append]
      rfl
    rw [hexec, switchRingTo_of_live hr hid hlive, switchLive_renames id hes hstart, ← hlength]
    rfl
  · have hlength : ((s.ring r).epochs ++ [({ start := (s.ring r).claim, id := id } : Epoch)]).length
        = (s.ring r).epochs.length + 1 := List.length_append
    rw [hexec, switchRingTo_of_live hr hid hlive, switchLive_joins id hes hstart hplace, ← hlength]
    rfl
  · rw [hexec, switchRingTo_of_live hr hid hlive, switchLive_cuts id hes hstart]
    split <;> rfl

end Sys2Proof.Machine
end

section
/-! SUPPORT. Keep jobs that end one after another, wherever they stand in the queue (R133, R147, R149, R150); CLOSE RING (R54) and
the settling of O29. -/

namespace Sys2Proof.Machine

/-! ## Jobs that end at once -/

/-- The jobs without those of the given ids. -/
def jobsLeft (queue : List Job) (ids : List Nat) : List Job := queue.filter fun x => decide (x.id ∉ ids)

theorem mem_jobsLeft {queue : List Job} {ids : List Nat} {x : Job} : x ∈ jobsLeft queue ids ↔ x ∈ queue ∧ x.id ∉ ids := by
  rw [jobsLeft, List.mem_filter, decide_eq_true_eq]

theorem jobsLeft_nil (queue : List Job) : jobsLeft queue [] = queue := List.filter_eq_self.mpr fun _ _ => by simp

theorem jobsLeft_jobsLeft (queue : List Job) (x : Nat) (ids : List Nat) :
    jobsLeft (jobsLeft queue [x]) ids = jobsLeft queue (x :: ids) := by
  unfold jobsLeft
  rw [List.filter_filter]
  refine List.filter_congr fun y _ => ?_
  by_cases hx : y.id = x <;> by_cases hi : y.id ∈ ids <;> simp [hx, hi]

theorem jobsLeft_sublist (queue : List Job) (ids : List Nat) : (jobsLeft queue ids).Sublist queue := List.filter_sublist

theorem jobsLeft_of_fresh {queue : List Job} {ids : List Nat} (h : ∀ x ∈ queue, x.id ∉ ids) : jobsLeft queue ids = queue :=
  List.filter_eq_self.mpr fun x hx => by simpa using h x hx

theorem jobsLeft_cons_of_fresh {a : Job} {rest : List Job} {ids : List Nat} (h : a.id ∉ ids) :
    jobsLeft (a :: rest) ids = a :: jobsLeft rest ids := List.filter_cons_of_pos (by simpa using h)

/-- A job of a queue without double ids is known by its id. -/
theorem eq_of_id {queue : List Job} (hnodup : (queue.map Job.id).Nodup) {x y : Job} (hx : x ∈ queue) (hy : y ∈ queue)
    (h : x.id = y.id) : x = y := List.inj_on_of_nodup_map hnodup hx hy h

/-- The job may end at once: it is not stopping, and if it is the Active one then neither a chunk in flight nor a buffer request
stands. -/
def endsAtOnce (v : State) (x : Job) : Prop :=
  x ∈ v.keep.queue ∧ x.stopOutcome = none ∧ (v.keep.queue.head? = some x → v.keep.chunk = none ∧ v.keep.request = none)

/-- An operation on a job by its id that ends a job that may end at once. -/
def EndsJobs (op : State → Nat → State) (o : JobOutcome) : Prop :=
  ∀ v x, (v.keep.queue.map Job.id).Nodup → endsAtOnce v x → op v x.id = jobsOver (jobsLeft v.keep.queue [x.id]) [x] o v

/-- The operation on one job after another. -/
theorem foldl_endsJobs {op : State → Nat → State} {o : JobOutcome} (hop : EndsJobs op o) {l : List Job} {v : State}
    (hsub : l.Sublist v.keep.queue) (hnodup : (v.keep.queue.map Job.id).Nodup) (hopen : ∀ x ∈ l, endsAtOnce v x)
    (hout : v.keep.outcomes.length ≤ Config.outcomePlaces) :
    (l.map Job.id).foldl op v = jobsOver (jobsLeft v.keep.queue (l.map Job.id)) l o v := by
  induction l generalizing v with
  | nil =>
    rw [List.map_nil, jobsLeft_nil, jobsOver_nil hout]
    rfl
  | cons x l ih =>
    obtain ⟨hx, hstop, hhead⟩ := hopen x List.mem_cons_self
    have hnodup' : ((jobsLeft v.keep.queue [x.id]).map Job.id).Nodup := hnodup.sublist ((jobsLeft_sublist _ _).map Job.id)
    have hfresh : ∀ y ∈ l, y.id ≠ x.id := fun y hy he =>
      (List.nodup_cons.mp (hnodup.sublist (hsub.map Job.id))).1 (he ▸ List.mem_map_of_mem hy)
    have hsub' : l.Sublist (jobsLeft v.keep.queue [x.id]) := by
      have h := ((List.sublist_cons_self x l).trans hsub).filter fun y => decide (y.id ∉ [x.id])
      rwa [List.filter_eq_self.mpr fun y hy => by simpa using hfresh y hy] at h
    have hone := hop v x hnodup ⟨hx, hstop, hhead⟩
    rw [List.map_cons, List.foldl_cons, hone, ih (v := jobsOver (jobsLeft v.keep.queue [x.id]) [x] o v) hsub' hnodup' (fun y hy => ?_)
      (List.length_take_le _ _), jobsOver_cons]
    · exact congrArg (fun q => jobsOver q (x :: l) o v) (jobsLeft_jobsLeft _ _ _)
    · obtain ⟨hmem, hopen', hhead'⟩ := hopen y (List.mem_cons_of_mem x hy)
      refine ⟨hsub'.subset hy, hopen', fun hy' => ?_⟩
      cases hq : v.keep.queue with
      | nil => rw [hq] at hx; cases hx
      | cons a rest =>
        rw [hq] at hhead hhead' hx hnodup
        by_cases ha : a.id = x.id
        · exact hhead (congrArg some (eq_of_id hnodup List.mem_cons_self hx ha))
        · have hy'' : (jobsLeft v.keep.queue [x.id]).head? = some y := hy'
          rw [hq, jobsLeft_cons_of_fresh (by simpa using ha)] at hy''
          exact hhead' hy''

/-- A job behind the Active one is found by its id. -/
theorem find?_of_tail {a x : Job} {rest : List Job} (hnodup : ((a :: rest).map Job.id).Nodup) (hx : x ∈ a :: rest) (hne : a.id ≠ x.id) :
    rest.find? (fun y => y.id == x.id) = some x := by
  have hmem : x ∈ rest := (List.mem_cons.mp hx).resolve_left fun h => hne (h ▸ rfl)
  cases hf : rest.find? fun y => y.id == x.id with
  | none => exact absurd (List.find?_eq_none.mp hf x hmem) (by simp)
  | some y =>
    have hid : y.id = x.id := by simpa using List.find?_some hf
    exact congrArg some (eq_of_id hnodup (List.mem_cons_of_mem a (List.mem_of_find?_eq_some hf)) hx hid)

theorem jobsLeft_eq_filter (queue : List Job) (x : Nat) : (queue.filter fun y => decide (y.id ≠ x)) = jobsLeft queue [x] :=
  List.filter_congr fun y _ => by simp

theorem endsJobs_stopJob (o : JobOutcome) : EndsJobs (stopJob o) o := by
  intro v x hnodup ⟨hx, hstop, hhead⟩
  have hend : endJob x o v = jobsOver (jobsLeft v.keep.queue [x.id]) [x] o v := endJob_eq (jobsLeft_eq_filter _ _) o
  cases hq : v.keep.queue with
  | nil => rw [hq] at hx; cases hx
  | cons a rest =>
    rw [hq] at hnodup hx hhead
    rw [← hq, ← hend]
    unfold stopJob
    rw [hq]
    dsimp only
    by_cases ha : a.id = x.id
    · obtain rfl := eq_of_id hnodup List.mem_cons_self hx ha
      obtain ⟨hchunk, hrequest⟩ := hhead rfl
      rw [beq_self_eq_true, cond_true, stopActive_of_quiet hq hstop hchunk hrequest]
    · rw [beq_eq_false_iff_ne.mpr ha, cond_false, find?_of_tail hnodup hx ha]

/-- A waiting job that is not the Active one may end at once. -/
theorem endsAtOnce_of_tail {v : State} {a : Job} {rest : List Job} (hq : v.keep.queue = a :: rest)
    (hnodup : (v.keep.queue.map Job.id).Nodup) {x : Job} (hx : x ∈ rest) (hstop : x.stopOutcome = none) : endsAtOnce v x := by
  refine ⟨by rw [hq]; exact List.mem_cons_of_mem a hx, hstop, fun h => ?_⟩
  rw [hq] at h hnodup
  cases h
  exact absurd (List.mem_map_of_mem hx) (List.nodup_cons.mp hnodup).1

/-- A job of a quiet queue may end at once. -/
theorem endsAtOnce_of_quiet {v : State} (hc : v.keep.chunk = none) (hr : v.keep.request = none) {x : Job} (hx : x ∈ v.keep.queue)
    (hstop : x.stopOutcome = none) : endsAtOnce v x := ⟨hx, hstop, fun _ => ⟨hc, hr⟩⟩

/-! ## The stop of the jobs of a ring (R149) -/

/-- What the stop of the jobs that satisfy a test leaves: which end, what stays, and what the Active one gives up. -/
structure JobsStopped (s u : State) (p : Job → Prop) (o : JobOutcome) (ended : List Job) : Prop where
  stops : ∀ j ∈ u.keep.queue, p j → s.stopsAs o j
  stays : ∀ j ∈ s.keep.queue, ¬ p j → j ∈ u.keep.queue
  enters : s.jobsEnded ended o 0x00#8 u
  once  : ∀ j ∈ s.keep.queue, j ∈ ended ↔ p j ∧ s.stopsAtOnce j
  gives : ∀ j, s.keep.queue.head? = some j → p j → s.stopGivesUp u j
  keys  : u.keys = s.keys
  sys   : u.sys = s.sys
  clock : u.clock = s.clock

section Stopped

variable {s : State} {a : Job} {rest : List Job} {p : Job → Bool}

/-- The latch of KeepEnded, and the jobs that are gone, in the line state. -/
theorem line_jobsOver (queue ended : List Job) (o : JobOutcome) (v : State) :
    (jobsOver queue ended o v).line = { v.line with latched := v.line.latched ||| 0x00#8 ||| if ended = [] then 0x00#8 else 0x04#8 } := by
  rw [show v.line.latched ||| 0x00#8 = v.line.latched from BitVec.or_zero]
  rfl

/-- The ids of the jobs of the tail that satisfy a test are not the Active job's. -/
theorem head_fresh (hnodup : ((a :: rest).map Job.id).Nodup) : a.id ∉ (rest.filter p).map Job.id := fun h =>
  (List.nodup_cons.mp hnodup).1 (List.filter_sublist.map Job.id |>.subset h)

theorem mem_filter_ids {queue : List Job} (hnodup : (queue.map Job.id).Nodup) {j : Job} (hj : j ∈ queue) :
    j.id ∈ (queue.filter p).map Job.id ↔ p j = true := by
  constructor
  · intro h
    obtain ⟨x, hx, hid⟩ := List.mem_map.mp h
    obtain ⟨hmem, hp⟩ := List.mem_filter.mp hx
    exact eq_of_id hnodup hmem hj hid ▸ hp
  · exact fun hp => List.mem_map_of_mem (List.mem_filter.mpr ⟨hj, hp⟩)

/-- The Active job does not satisfy the test: the waiting ones that do end. -/
theorem jobsStopped_behind (law : s.keep.Law) (hq : s.keep.queue = a :: rest) (hp : p a = false) (o : JobOutcome) :
    JobsStopped s (stopJobs p o s) (fun j => p j = true) o (rest.filter p) := by
  obtain ⟨-, hout, -⟩ := id law
  obtain ⟨-, -, hnodup, hwait⟩ := activeJob_of_law law hq
  have hfilter : s.keep.queue.filter p = rest.filter p := by rw [hq, List.filter_cons_of_neg (by rw [hp]; decide)]
  have hsub : (rest.filter p).Sublist s.keep.queue := hfilter ▸ List.filter_sublist
  have hopen : ∀ x ∈ rest.filter p, endsAtOnce s x := fun x hx =>
    endsAtOnce_of_tail hq hnodup (List.mem_filter.mp hx).1 (hwait x (List.mem_filter.mp hx).1).2.1
  have heq : stopJobs p o s = jobsOver (jobsLeft s.keep.queue ((rest.filter p).map Job.id)) (rest.filter p) o s := by
    unfold stopJobs
    rw [hfilter, foldl_endsJobs (endsJobs_stopJob o) hsub hnodup hopen hout]
  have hids : ∀ j ∈ s.keep.queue, j.id ∈ (rest.filter p).map Job.id ↔ p j = true := fun j hj => hfilter ▸ mem_filter_ids hnodup hj
  have hmem : ∀ j ∈ s.keep.queue, j ∈ rest.filter p ↔ p j = true := fun j hj => by
    rw [← hfilter, List.mem_filter]
    exact and_iff_right hj
  rw [heq]
  refine ⟨fun j hj hpj => ?_, fun j hj hpj => mem_jobsLeft.mpr ⟨hj, fun h => hpj ((hids j hj).mp h)⟩,
    ⟨hsub, fun j hj => ?_, rfl, line_jobsOver _ _ _ _⟩, fun j hj => ?_, fun j hj hpj => ?_, rfl, rfl, rfl⟩
  · obtain ⟨hmem', hnot⟩ := mem_jobsLeft.mp hj
    exact absurd ((hids j hmem').mpr hpj) hnot
  · rw [hmem j hj, ← hids j hj]
    constructor
    · exact fun h k hk he => (mem_jobsLeft.mp hk).2 (he ▸ h)
    · exact fun h => by_contra fun hn => h j (mem_jobsLeft.mpr ⟨hj, hn⟩) rfl
  · rw [hmem j hj]
    refine ⟨fun hpj => ⟨hpj, .inl fun hh => ?_⟩, And.left⟩
    rw [hq] at hh
    cases hh
    exact absurd (hp.symm.trans hpj) (by decide)
  · rw [hq] at hj
    cases hj
    exact absurd (hp.symm.trans hpj) (by decide)

/-- The waiting jobs that satisfy the test end one after another, behind an Active job that stays or with the queue quiet. -/
theorem foldl_behind {op : State → Nat → State} {o : JobOutcome} (hop : EndsJobs op o) {v : State} {pre : List Job}
    (hnodup : ((a :: rest).map Job.id).Nodup) (hwait : ∀ j ∈ rest, j.Waiting) (hpre : v.keep.queue = pre ++ rest)
    (hquiet : (pre = [] ∧ v.keep.chunk = none ∧ v.keep.request = none) ∨ ∃ b, pre = [b] ∧ b.id = a.id)
    (hout : v.keep.outcomes.length ≤ Config.outcomePlaces) : ((rest.filter p).map Job.id).foldl op v
      = jobsOver (pre ++ jobsLeft rest ((rest.filter p).map Job.id)) (rest.filter p) o v := by
  have hstop : ∀ x ∈ rest.filter p, x.stopOutcome = none := fun x hx => (hwait x (List.mem_filter.mp hx).1).2.1
  rcases hquiet with ⟨rfl, hc, hr⟩ | ⟨b, rfl, hid⟩
  · have hv : v.keep.queue = rest := hpre
    rw [foldl_endsJobs hop (hv ▸ List.filter_sublist) (hv ▸ (List.nodup_cons.mp hnodup).2)
      (fun x hx => endsAtOnce_of_quiet hc hr (hv ▸ (List.mem_filter.mp hx).1) (hstop x hx)) hout, hv]
    rfl
  · have hv : v.keep.queue = b :: rest := hpre
    have hb : ((b :: rest).map Job.id).Nodup := by rw [List.map_cons, hid]; exact hnodup
    rw [foldl_endsJobs hop (hv ▸ List.filter_sublist.trans (List.sublist_cons_self b rest)) (hv ▸ hb)
      (fun x hx => endsAtOnce_of_tail hv (hv ▸ hb) (List.mem_filter.mp hx).1 (hstop x hx)) hout, hv,
      jobsLeft_cons_of_fresh (head_fresh hb)]
    rfl

theorem mem_left_iff (hnodup : (rest.map Job.id).Nodup) {j : Job} (hj : j ∈ rest) :
    j ∈ jobsLeft rest ((rest.filter p).map Job.id) ↔ p j = false := by
  rw [mem_jobsLeft, mem_filter_ids hnodup hj, Bool.not_eq_true]
  exact and_iff_right hj

/-- A job of the tail ends where no job left behind has its id. -/
theorem mem_ended_iff (hnodup : (rest.map Job.id).Nodup) {j : Job} (hj : j ∈ rest) :
    j ∈ rest.filter p ↔ ∀ k ∈ jobsLeft rest ((rest.filter p).map Job.id), k.id ≠ j.id := by
  constructor
  · exact fun hmem k hk he => (mem_jobsLeft.mp hk).2 (he ▸ List.mem_map_of_mem hmem)
  · intro hn
    refine List.mem_filter.mpr ⟨hj, by_contra fun hp' => ?_⟩
    exact hn j ((mem_left_iff hnodup hj).mpr (Bool.not_eq_true _ ▸ hp')) rfl

/-- The Active job has ended, then the waiting ones that satisfy the test. -/
theorem jobsEnded_headEnds (hq : s.keep.queue = a :: rest) (hnodup : ((a :: rest).map Job.id).Nodup) {o : JobOutcome} {v : State}
    (hout : v.keep.outcomes = (a.entry o :: s.keep.outcomes).take 4)
    (hline : v.line = { s.line with latched := s.line.latched ||| 0x04#8 }) : s.jobsEnded (a :: rest.filter p) o 0x00#8
      (jobsOver (jobsLeft rest ((rest.filter p).map Job.id)) (rest.filter p) o v) := by
  obtain ⟨hfresh, hnodup'⟩ := List.nodup_cons.mp hnodup
  have hother : ∀ j ∈ rest, j.id ≠ a.id := fun j hj he => hfresh (he ▸ List.mem_map_of_mem hj)
  refine ⟨?_, fun j hj => ?_, ?_, ?_⟩
  · rw [hq]
    exact List.filter_sublist.cons_cons a
  · rw [hq] at hj
    rcases List.mem_cons.mp hj with rfl | hj
    · exact iff_of_true List.mem_cons_self fun k hk => hother k (mem_jobsLeft.mp hk).1
    · rw [List.mem_cons, or_iff_right fun h => hother j hj (congrArg Job.id h)]
      exact mem_ended_iff hnodup' hj
  · show (((rest.filter p).reverse.map fun j => j.entry o) ++ v.keep.outcomes).take 4 = _
    rw [hout, take_append_take, List.reverse_cons, List.map_append, List.append_assoc]
    rfl
  · rw [line_jobsOver, hline, if_neg (List.cons_ne_nil a _)]
    have hone : (0x04#8 : AlertSet) ||| 0x00#8 ||| (if rest.filter p = [] then 0x00#8 else 0x04#8) = 0x04#8 := by split <;> decide
    dsimp only
    rw [BitVec.or_assoc, BitVec.or_assoc, ← BitVec.or_assoc 0x04#8, hone, show s.line.latched ||| 0x00#8 = _ from BitVec.or_zero]

/-- The Active job stays, and the waiting ones that satisfy the test have ended. -/
theorem jobsEnded_headStays (hq : s.keep.queue = a :: rest) (hnodup : ((a :: rest).map Job.id).Nodup) {o : JobOutcome} {v : State}
    {b : Job} (hid : b.id = a.id) (hout : v.keep.outcomes = s.keep.outcomes) (hline : v.line = s.line) :
    s.jobsEnded (rest.filter p) o 0x00#8
      (jobsOver ([b] ++ jobsLeft rest ((rest.filter p).map Job.id)) (rest.filter p) o v) := by
  obtain ⟨hfresh, hnodup'⟩ := List.nodup_cons.mp hnodup
  have hother : ∀ j ∈ rest, j.id ≠ a.id := fun j hj he => hfresh (he ▸ List.mem_map_of_mem hj)
  refine ⟨?_, fun j hj => ?_, ?_, ?_⟩
  · rw [hq]
    exact List.filter_sublist.trans (List.sublist_cons_self a rest)
  · rw [hq] at hj
    rcases List.mem_cons.mp hj with rfl | hj
    · exact iff_of_false (fun h => hother j (List.mem_filter.mp h).1 rfl) fun h => h b List.mem_cons_self hid
    · rw [mem_ended_iff hnodup' hj]
      refine ⟨fun hn k hk => (List.mem_cons.mp hk).elim (fun h => ?_) (hn k), fun hn k hk => hn k (List.mem_cons_of_mem b hk)⟩
      rw [h, hid]
      exact (hother j hj).symm
  · show (((rest.filter p).reverse.map fun j => j.entry o) ++ v.keep.outcomes).take 4 = _
    rw [hout]
    rfl
  · rw [line_jobsOver, hline]

/-- The stop of the Active job, then of the waiting ones. -/
theorem stopJobs_of_head (hq : s.keep.queue = a :: rest) (hp : p a = true) (o : JobOutcome) :
    stopJobs p o s = ((rest.filter p).map Job.id).foldl (stopJob o) (stopActive o s) := by
  unfold stopJobs
  rw [hq, List.filter_cons_of_pos hp, List.map_cons, List.foldl_cons]
  unfold stopJob
  rw [hq]
  dsimp only
  rw [beq_self_eq_true, cond_true]

/-- The Active job satisfies the test. -/
theorem jobsStopped_head (law : s.keep.Law) (hq : s.keep.queue = a :: rest) (hp : p a = true) (o : JobOutcome) :
    ∃ ended, JobsStopped s (stopJobs p o s) (fun j => p j = true) o ended := by
  obtain ⟨-, hout, -⟩ := id law
  obtain ⟨-, -, hnodup, hwait⟩ := activeJob_of_law law hq
  rw [hq] at hnodup
  obtain ⟨hfresh, hnodup'⟩ := List.nodup_cons.mp hnodup
  have hspec := stopActive_spec law hq o
  have hother : ∀ j ∈ rest, j.id ≠ a.id := fun j hj he => hfresh (he ▸ List.mem_map_of_mem hj)
  have hhead : ∀ j ∈ rest, s.keep.queue.head? ≠ some j := fun j hj he => by
    rw [hq] at he
    exact hother j hj (congrArg Job.id (Option.some.inj he)).symm
  have hgives : ∀ {queue ended : List Job} (j : Job), s.keep.queue.head? = some j → p j = true →
      s.stopGivesUp (jobsOver queue ended o (stopActive o s)) j := fun {queue ended} j hj _ => by
    rw [hq] at hj
    cases hj
    exact stopGivesUp_of_same rfl rfl rfl rfl rfl rfl hspec.gives
  have hstays : ∀ {pre : List Job} (j : Job), j ∈ s.keep.queue → ¬ p j = true →
      j ∈ pre ++ jobsLeft rest ((rest.filter p).map Job.id) := fun {pre} j hj hpj => by
    rw [hq] at hj
    rcases List.mem_cons.mp hj with rfl | hj
    · exact absurd hp hpj
    · exact List.mem_append_right pre ((mem_left_iff hnodup' hj).mpr (Bool.not_eq_true _ ▸ hpj))
  have hgone : ∀ {j : Job}, j ∈ jobsLeft rest ((rest.filter p).map Job.id) → ¬ p j = true := fun hj hpj =>
    absurd (((mem_left_iff hnodup' (mem_jobsLeft.mp hj).1).mp hj).symm.trans hpj) (by decide)
  rw [stopJobs_of_head hq hp]
  by_cases hh : stopsHead s a
  · obtain ⟨hkeep, hline⟩ := hspec.ends hh
    rw [foldl_behind (endsJobs_stopJob o) hnodup hwait (pre := []) (by rw [hkeep]; rfl) (.inl ⟨rfl, by rw [hkeep], by rw [hkeep]⟩)
      (by rw [hkeep]; exact List.length_take_le _ _)]
    refine ⟨a :: rest.filter p, fun j hj hpj => absurd hpj (hgone hj), hstays, jobsEnded_headEnds hq hnodup (by rw [hkeep]) hline,
      fun j hj => ?_, hgives, hspec.keys, hspec.sys, hspec.clock⟩
    rw [hq] at hj
    rcases List.mem_cons.mp hj with rfl | hj
    · exact iff_of_true List.mem_cons_self ⟨hp, .inr hh⟩
    · rw [List.mem_cons, List.mem_filter]
      exact ⟨fun h => ⟨h.elim (fun he => he ▸ hp) And.right, .inl (hhead j hj)⟩, fun h => .inr ⟨hj, h.1⟩⟩
  · obtain ⟨hline, b, hkeep, hid, hsame, hnew⟩ := hspec.stays hh
    obtain ⟨hsome, htrans⟩ := not_or.mp hh
    rw [foldl_behind (endsJobs_stopJob o) hnodup hwait (pre := [b]) (by rw [hkeep]; rfl) (.inr ⟨b, rfl, hid⟩)
      (by rw [hkeep]; exact hout)]
    refine ⟨rest.filter p, fun j hj hpj => ?_, hstays, jobsEnded_headStays hq hnodup hid (by rw [hkeep]) hline,
      fun j hj => ?_, hgives, hspec.keys, hspec.sys, hspec.clock⟩
    · rcases List.mem_cons.mp hj with rfl | hj
      · exact ⟨a, by rw [hq]; rfl, hsome, hsame, hnew⟩
      · exact absurd hpj (hgone hj)
    · rw [hq] at hj
      rcases List.mem_cons.mp hj with rfl | hj
      · refine iff_of_false (fun h => hother j (List.mem_filter.mp h).1 rfl) ?_
        rintro ⟨-, h | h | h⟩
        · exact h (by rw [hq]; rfl)
        · exact hsome h
        · exact htrans h
      · rw [List.mem_filter]
        exact ⟨fun h => ⟨h.2, .inl (hhead j hj)⟩, fun h => ⟨hj, h.1⟩⟩

/-- The stop of the jobs that satisfy a test (R149). -/
theorem jobsStopped_stopJobs (law : s.keep.Law) (p : Job → Bool) (o : JobOutcome) :
    ∃ ended, JobsStopped s (stopJobs p o s) (fun j => p j = true) o ended := by
  obtain ⟨-, hout, -⟩ := id law
  cases hq : s.keep.queue with
  | nil =>
    have hnone : stopJobs p o s = s := by
      unfold stopJobs
      rw [hq]
      rfl
    have hempty : ∀ j, j ∉ s.keep.queue := fun j hj => by rw [hq] at hj; cases hj
    rw [hnone]
    refine ⟨[], fun j hj => absurd hj (hempty j), fun j hj => absurd hj (hempty j),
      ⟨List.nil_sublist _, fun j hj => absurd hj (hempty j), (List.take_of_length_le hout).symm, ?_⟩,
      fun j hj => absurd hj (hempty j), fun j hj => absurd (List.mem_of_mem_head? hj) (hempty j), rfl, rfl, rfl⟩
    rw [if_pos rfl, BitVec.or_zero, BitVec.or_zero]
  | cons a rest =>
    cases hp : p a
    · exact ⟨_, jobsStopped_behind law hq hp o⟩
    · exact jobsStopped_head law hq hp o

end Stopped

/-! ## CLOSE RING -/

/-- What is given up depends on the engine, the Keep Unit, the Drive Port, the in-flight counts and the user counts alone. -/
theorem stopGivesUp_of_source {s w u : State} {j : Job} (hengine : w.engine = s.engine) (hkeep : w.keep = s.keep)
    (hdrive : w.drive = s.drive) (hregions : w.regions = s.regions) (husers : ∀ r, (w.ring r).users = (s.ring r).users)
    (h : w.stopGivesUp u j) : s.stopGivesUp u j := by
  have hbuffer : ∀ i, w.buffer i = s.buffer i := fun i => by unfold State.buffer; rw [hengine]
  have hentry : ∀ i, w.entry i = s.entry i := fun i => by unfold State.entry; rw [hregions]
  unfold State.stopGivesUp State.chunkGivenUp State.released at h ⊢
  simp only [hbuffer, hentry, husers, hengine, hdrive, hkeep] at h
  exact h

theorem closeRingOf_of_live {r : Nat} {s : State} (hr : r < 4) (hlive : (s.ring r).live = true) :
    closeRingOf r s = done [] (stopJobs (fun j => j.ring == r) (.failed .ringStopped) (mapRing r Ring.closed s)) := by
  unfold closeRingOf
  rw [if_neg (Nat.not_le.mpr hr), hlive]
  rfl

/-- Settles O29: the ring closes, and its jobs are stopped. -/
theorem closeRing : Obligations.CloseRing := by
  intro sequence r s h law
  have hexec := exec_closeRing h
  refine ⟨fun hr => ?_, fun hr hidle => ?_, fun hr hlive => ?_⟩
  · rw [hexec, closeRingOf, if_pos hr]
    rfl
  · rw [hexec, closeRingOf, if_neg (Nat.not_le.mpr hr), hidle]
    rfl
  obtain ⟨w, hw⟩ : ∃ w, w = mapRing r Ring.closed s := ⟨_, rfl⟩
  have hring : ∀ q, w.ring q = if q = r ∧ r < 4 then (s.ring r).closed else s.ring q := fun q => by rw [hw, ring_mapRing]
  have hclosed : w.ring r = { s.ring r with live := false, epochs := [] } := by
    rw [hring, if_pos ⟨rfl, hr⟩, closed_eq, if_pos hlive]
  have husers : ∀ q, (w.ring q).users = (s.ring q).users := fun q => by
    by_cases hq : q = r
    · rw [hq, hclosed]
    · rw [hring, if_neg fun hc => hq hc.1]
  have hkeep : w.keep = s.keep := by rw [hw]; rfl
  have hline : w.line = s.line := by rw [hw]; rfl
  obtain ⟨ended, hstopped⟩ := jobsStopped_stopJobs (s := w) (by rw [hkeep]; exact law) (fun j => j.ring == r) (.failed .ringStopped)
  have hsame := ringsSame_stopJobs (fun j => j.ring == r) (.failed .ringStopped) w
  rw [closeRingOf_of_live hr hlive, ← hw] at hexec
  generalize stopJobs (fun j => j.ring == r) (.failed .ringStopped) w = u at hexec hstopped hsame
  obtain ⟨hstops, hstays, hended, honce, hgives, hkeys, hsys, hclock⟩ := hstopped
  unfold State.stopsAs at hstops
  unfold State.jobsEnded at hended
  unfold State.stopsAtOnce at honce
  rw [hkeep] at hstops hstays hended honce hgives
  rw [hline] at hended
  simp only [beq_iff_eq] at hstops hstays honce hgives
  refine ⟨u, ended, hexec, ?_, ?_, ?_, ?_, ?_, fun q hq => ?_, hstops, hstays, hended, honce, fun j hj hjr =>
    stopGivesUp_of_source (by rw [hw]; rfl) hkeep (by rw [hw]; rfl) (by rw [hw]; rfl) husers (hgives j hj hjr),
    by rw [hkeys, hw]; rfl, by rw [hclock, hw]; rfl, by rw [hsys, hw]; rfl⟩
  · rw [hsame, hclosed]
  · rw [hsame, hclosed]
  · rw [hsame, hclosed]
  · rw [hsame, hclosed]
  · rw [hsame, hclosed]
  · have h := hsame q
    rwa [hring, if_neg fun hc => hq hc.1] at h

end Sys2Proof.Machine
end

section
/-! SUPPORT. The issue of a record as its rings see it (R60, R61); the grant of a part tag, SoleWait's release and the second part;
the settling of O46. -/

namespace Sys2Proof.Machine

/-! ## The issue as a ring sees it -/

/-- The dropping of epochs ends at the last start that the bound has reached (R61). -/
theorem dropEpochs_reached (behind : Nat) {floor : Nat} {es : List Epoch} (hrise : (es.map Epoch.start).Pairwise (· < ·))
    (hfirst : es.head?.map Epoch.start = some floor) :
    (∀ e ∈ (dropEpochs behind floor es).2.tail, max (dropEpochs behind floor es).1 behind < e.start)
      ∧ ((dropEpochs behind floor es).2 = es ∨ (dropEpochs behind floor es).1 ≤ behind) := by
  induction es generalizing floor with
  | nil => cases hfirst
  | cons e es ih =>
    cases es with
    | nil => exact ⟨nofun, .inl rfl⟩
    | cons f rest =>
      obtain rfl : e.start = floor := by simpa using hfirst
      obtain ⟨hbelow, hrise'⟩ := List.pairwise_cons.mp hrise
      have hlt : e.start < f.start := hbelow f.start (List.mem_cons_self ..)
      by_cases hf : f.start ≤ max e.start behind
      · have heq : dropEpochs behind e.start (e :: f :: rest) = dropEpochs behind f.start (f :: rest) := by
          rw [dropEpochs, if_pos hf]
        rw [heq]
        obtain ⟨htail, hdropped⟩ := ih hrise' rfl
        refine ⟨htail, .inr ?_⟩
        have hle := dropEpochs_floor_le behind f.start (f :: rest)
        omega
      · have heq : dropEpochs behind e.start (e :: f :: rest) = (e.start, e :: f :: rest) := by
          rw [dropEpochs, if_neg hf]
        rw [heq]
        refine ⟨fun g hg => ?_, .inl rfl⟩
        rcases List.mem_cons.mp hg with rfl | hg
        · omega
        · have hfg : f.start < g.start := (List.pairwise_cons.mp hrise').1 g.start (List.mem_map_of_mem hg)
          show max e.start behind < g.start
          omega

/-- The head of a Live ring risen to the end of an access drops the epochs below the window (R61). -/
theorem raiseHead_droppedTo {r : Ring} (law : r.Law) (hlive : r.live = true) (upto : Nat) :
    r.droppedTo (r.raiseHead upto).head (r.raiseHead upto).floor (r.raiseHead upto).epochs := by
  obtain ⟨-, hfirst, hrise, -⟩ := law.1 hlive
  obtain ⟨hsuffix, -, hkept⟩ := dropEpochs_spec (max r.head upto - r.trail) r.floor r.epochs
  obtain ⟨htail, hdropped⟩ := dropEpochs_reached (max r.head upto - r.trail) hrise hfirst
  refine ⟨hsuffix, ?_, htail, hdropped⟩
  rcases hkept with ⟨hes, hf⟩ | hf
  · exact (congrArg (fun l : List Epoch => l.head?.map Epoch.start) hes).trans (hfirst.trans (congrArg some hf.symm))
  · exact hf

theorem marked_eq (k : RecordKey) (r : Ring) : r.marked k =
    { r with accesses := r.accesses.map fun a => if a.record = k then { a with issued := true } else a } := by
  unfold Ring.marked
  congr 1
  refine List.map_congr_left fun a _ => ?_
  by_cases h : a.record = k
  · rw [beq_iff_eq.mpr h, if_pos h]
    rfl
  · rw [beq_eq_false_iff_ne.mpr h, if_neg h]
    rfl

/-- The write accesses of a record whose one access on the ring is known. -/
theorem filter_writes_of_one {r : Ring} {k : RecordKey} {a : Access} (h : (r.accesses.filter fun a => decide (a.record = k)) = [a])
    (hw : a.write = true) : (r.accesses.filter fun a => a.record == k && a.write) = [a] := by
  have hsplit : (r.accesses.filter fun a => a.record == k && a.write)
      = (r.accesses.filter fun a => decide (a.record = k)).filter Access.write := by
    rw [List.filter_filter]
    refine List.filter_congr fun b _ => ?_
    rw [Bool.and_comm]
    rfl
  rw [hsplit, h]
  exact List.filter_cons_of_pos hw

/-- A record's issue, as its ring sees it (R60, R61). -/
theorem issuedBy_issueAccesses (k : RecordKey) (r : Ring) : r.issuedBy k (r.issueAccesses k) := by
  rw [issueAccesses_eq]
  have hfields : ∀ (b : Bool) (l : List Access), (bif b then (r.marked k).raiseHeads l else r.marked k) = { r.marked k with
      head := (bif b then (r.marked k).raiseHeads l else r.marked k).head
      floor := (bif b then (r.marked k).raiseHeads l else r.marked k).floor
      epochs := (bif b then (r.marked k).raiseHeads l else r.marked k).epochs } := fun b l => by
    cases b
    · rfl
    · exact raiseHeads_eq _ _
  refine ⟨(hfields _ _).trans (by rw [marked_eq]), fun h => ?_, fun a hlive law hone hwrite => ?_⟩
  · rcases h with h | h
    · rw [h]
      exact ⟨rfl, rfl, rfl⟩
    · have hnone : (r.accesses.filter fun a => a.record == k && a.write) = [] :=
        List.filter_eq_nil_iff.mpr fun a ha hc => by
          obtain ⟨hk, hw⟩ := Bool.and_eq_true _ _ ▸ hc
          exact absurd (h a ha (beq_iff_eq.mp hk)) (by rw [hw]; decide)
      rw [hnone]
      cases r.live <;> exact ⟨rfl, rfl, rfl⟩
  · rw [hlive, cond_true, filter_writes_of_one hone hwrite]
    exact ⟨rfl, raiseHead_droppedTo law hlive _⟩

theorem ring_stepIssue {k : RecordKey} {s : State} {r : Record} (h : s.record? k = some r) {q : Nat} (hq : q < Config.ringCount) :
    (stepIssue k s).ring q = (s.ring q).issueAccesses k := by
  unfold stepIssue
  rw [h]
  dsimp only
  have hrings : (takeHostTag k (mapRings (Ring.issueAccesses k)
      (mapRecord k (fun r => { r with state := .issued, part1 := .outstanding }) s))).rings
      = (mapRings (Ring.issueAccesses k) s).rings := by
    rw [takeHostTag_eq]
    rfl
  have hring := (ring_congr (t := handOver r.firstCommand (takeHostTag k _)) hrings q).trans (ring_mapRings _ s q)
  rwa [if_pos (show q < 4 from hq)] at hring

/-- The rings see the issue of a record (R60, R61). -/
theorem stepIssue_rings {k : RecordKey} {s : State} {r : Record} (h : s.record? k = some r) :
    ∀ q < Config.ringCount, (s.ring q).issuedBy k ((stepIssue k s).ring q) := fun q hq => by
  rw [ring_stepIssue h hq]
  exact issuedBy_issueAccesses k _

theorem tracker_takeHostTag (k : RecordKey) (s : State) : (takeHostTag k s).tracker = s.tracker := by rw [takeHostTag_eq]

/-- The issue leaves the orders of the holds. -/
theorem stepIssue_tracker (k : RecordKey) (s : State) :
    (stepIssue k s).tracker = { s.tracker with records := (stepIssue k s).tracker.records } := by
  unfold stepIssue
  split
  · rfl
  · unfold handOver
    dsimp only
    rw [tracker_takeHostTag]
    rfl

/-! ## TagWait's grant (R82, R99) -/

theorem exec_tagwaitGrant {s t : State} (h : tagwaitGrant? s = some t) : exec .tagwaitGrant s = .next (settle t) := by
  show Host.Outcome.next (settle ((tagwaitGrant? s).getD s)) = _
  rw [h]
  rfl

/-- The oldest waiting record is granted the lowest free part tag and issued. -/
theorem tagwaitGrant_issues {s : State} {h t : Nat} {rest : List RecordKey} (hwait : s.tracker.tagWait = .tag h :: rest)
    (htag : s.lowestPartTag t) : tagwaitGrant? s = some (stepIssue (.tag h) (grantPartTag (.tag h) t (endHold (.tag h) s))) := by
  unfold tagwaitGrant?
  rw [hwait, freePartTag_of_lowest htag]
  rfl

/-! ## The release of SoleWait (R100) -/

theorem exec_solewaitRelease {s : State} {x : Record} (hx : s.record? .sole = some x) (hstate : x.state = .soleWait)
    (hchunk : s.keep.chunk = none) : exec .solewaitRelease s = .next (settle (stepIssue .sole (endHold .sole s))) := by
  have h : solewaitRelease? s = some (stepIssue .sole (endHold .sole s)) := by
    unfold solewaitRelease?
    rw [hx, hchunk]
    dsimp only
    rw [hstate]
    rfl
  show Host.Outcome.next (settle ((solewaitRelease? s).getD s)) = _
  rw [h]
  rfl

/-! ## The second part (R105) -/

/-- A second part that is due is handed over. -/
theorem exec_secondPartIssue {k : RecordKey} {s : State} {x : Record} {p : Split} (hx : s.record? k = some x) (hp : x.split = some p)
    (hdue : x.secondDue = true) : exec (.secondPartIssue k) s
      = .next (settle (handOver (x.secondCommand p) (mapRecord k (fun r => { r with part2 := .outstanding }) s))) := by
  have h : secondPart? k s = some (handOver (x.secondCommand p) (mapRecord k (fun r => { r with part2 := .outstanding }) s)) := by
    unfold secondPart?
    rw [hx]
    dsimp only
    rw [hp, hdue]
    rfl
  show Host.Outcome.next (settle ((secondPart? k s).getD s)) = _
  rw [h]
  rfl

/-- When the second part of an issued split is due (R105). -/
theorem secondDue_of {k : RecordKey} {x : Record} {p : Split} (hkey : x.key = k) (hp : x.split = some p) (hstate : x.state = .issued)
    (hpart : x.part2 = .notIssued) (h : (k = .sole ∧ x.part1 = .good)
      ∨ (k ≠ .sole ∧ (x.part1 = .outstanding ∨ x.part1 = .good) ∧ p.host - x.host ≤ x.downCount)) : x.secondDue = true := by
  unfold Record.secondDue
  rw [hp]
  dsimp only
  rw [hstate, hpart, hkey]
  rcases h with ⟨rfl, hgood⟩ | ⟨hne, hpart1, hdown⟩
  · rw [hgood]
    rfl
  · rw [beq_eq_false_iff_ne.mpr hne, decide_eq_true hdown]
    rcases hpart1 with h | h <;> rw [h] <;> rfl

theorem secondCommand_eq {k : RecordKey} {x : Record} (hkey : x.key = k) (p : Split) : x.secondCommand p =
    freshCommand p.tag (.hostSecond k) (if x.kind.isWrite = true then .write else .read) p.disk p.count p.host [] := by
  subst hkey
  unfold Record.secondCommand freshCommand
  cases x.kind.isWrite <;> rfl

/-- A record's hold has ended with a part tag granted. -/
theorem record?_granted {k : RecordKey} {s : State} {x : Record} (hx : s.record? k = some x) (t : Nat) :
    (grantPartTag k t (endHold k s)).record? k = some { x with
      state := .classify, timer := none, awaited := [], waitsFor := [], split := x.split.map fun p => { p with tag := some t } } :=
  (grantPartTag_passes (record?_endHold hx) t).record

/-- Settles O46: the three steps, each with the record it leaves and the command it hands over. -/
theorem tagHoldsEnd : Obligations.TagHoldsEnd := by
  intro k x s hx
  refine ⟨fun h t rest hk hlt hwait htag => ?_, fun hk hstate hchunk => ?_, fun p hp hstate hpart hdue => ?_⟩
  · subst hk
    have hrec := record?_granted hx t
    have hwalk := stepIssue_walked hrec
    obtain ⟨hpart, ⟨c, horder, hissues⟩, hhost⟩ := hwalk.issued.1 rfl
    have hlow : 32 - s.line.profile.partTags ≤ t := htag.1
    have hcount : t < 32 := htag.2.1
    refine ⟨_, _, c, exec_tagwaitGrant (tagwaitGrant_issues hwait htag), hwalk.record, rfl, rfl, rfl, ?_, ?_, stepIssue_rings hrec, ?_,
      horder, hissues, rfl⟩
    · have htake : ∀ v : State, (takeHostTag (.tag h) v).tagUser t = v.tagUser t := fun v => by
        refine (tagUser_setTag h _ v t).trans (if_neg fun hc => ?_)
        omega
      have hset : (grantPartTag (.tag h) t (endHold (.tag h) s)).tagUser t = some (.hostSecond (.tag h)) :=
        (tagUser_setTag t _ _ t).trans (if_pos ⟨rfl, hcount⟩)
      unfold stepIssue
      rw [hrec]
      exact (htake _).trans hset
    · have hkey : x.key = .tag h := record?_key hx
      exact (hhost h (congrArg tagOf hkey) (show h < 32 by omega)).trans (congrArg (fun k => some (TagUser.hostFirst k)) hkey)
    · rw [stepIssue_tracker]
      show s.tracker.tagWait.filter (· != .tag h) = _
      rw [hwait, List.filter_cons_of_neg (by simp)]
      exact List.filter_congr fun y _ => by by_cases hy : y = .tag h <;> simp [hy]
  · subst hk
    have hrec := record?_endHold hx
    have hwalk := stepIssue_walked hrec
    obtain ⟨hpart, ⟨c, horder, hissues⟩, -⟩ := hwalk.issued.1 rfl
    exact ⟨_, _, c, exec_solewaitRelease hx hstate hchunk, hwalk.record, rfl, stepIssue_rings hrec, rfl, horder, hissues, rfl, rfl⟩
  · have hkey := record?_key hx
    refine ⟨_, exec_secondPartIssue hx hp (secondDue_of hkey hp hstate hpart hdue),
      record?_mapRecord_some (f := fun r => { r with part2 := .outstanding }) (fun _ e => e) hx, ?_⟩
    rw [secondCommand_eq hkey]
    rfl

end Sys2Proof.Machine
end

section
/-! SUPPORT. RingOrder and Overrun end (R66 to R69); the truncation of the jobs that hold a write (R150); the settling of O45. -/

namespace Sys2Proof.Machine

/-! ## A record goes on from the Overrun test -/

/-- Where a record that passes the Overrun test ends (R94): held in TagWait or SoleWait, or issued, as its rings see it. -/
structure Onward (k : RecordKey) (r : Record) (s u : State) (x : Record) : Prop where
  walked    : Walked k r s u x
  state     : x.state ∈ [RecordState.tagWait, .soleWait, .issued]
  rings     : ∀ q < Config.ringCount, if x.state = .issued then (s.ring q).issuedBy k (u.ring q) else u.ring q = s.ring q
  ringOrder : u.tracker.ringOrder = s.tracker.ringOrder
  overrun   : u.tracker.overrun = s.tracker.overrun

/-- A step before that leaves the rings and the orders of RingOrder and Overrun. -/
theorem Onward.after {k : RecordKey} {r x y : Record} {s t u : State} (g : Onward k x t u y) (h : Passes k r s t x)
    (hrings : t.rings = s.rings) (hring : t.tracker.ringOrder = s.tracker.ringOrder)
    (hover : t.tracker.overrun = s.tracker.overrun) : Onward k r s u y where
  walked := h.walked g.walked
  state := g.state
  rings q hq := by
    have hq' := g.rings q hq
    rwa [ring_congr hrings] at hq'
  ringOrder := g.ringOrder.trans hring
  overrun := g.overrun.trans hover

/-- The record is held in TagWait or in SoleWait. -/
theorem holdIn_onward {k : RecordKey} {s : State} {r : Record} (h : s.record? k = some r) {st : RecordState}
    (hst : st ∈ [RecordState.tagWait, .soleWait]) : Onward k r s (holdIn k st s) { r with state := st } := by
  have hin : st ∈ [RecordState.ringOrder, .overrun, .tagWait, .soleWait] ∧ st ∈ [RecordState.tagWait, .soleWait, .issued]
      ∧ st ≠ .issued := by
    simp only [List.mem_cons, List.not_mem_nil, or_false] at hst
    rcases hst with rfl | rfl <;> decide
  obtain ⟨hhold, hstate, hne⟩ := hin
  refine ⟨.of_hold (record?_mapRecord_some (f := fun r => { r with state := st }) (fun _ e => e) h)
    ⟨rfl, rfl, rfl, rfl, rfl, rfl, rfl, rfl, rfl, rfl⟩ hhold rfl rfl rfl rfl rfl rfl, hstate, fun q _ => ?_, rfl, rfl⟩
  rw [if_neg hne]
  rfl

theorem stepIssue_onward {k : RecordKey} {s : State} {r : Record} (h : s.record? k = some r) :
    Onward k r s (stepIssue k s) { r with state := .issued, part1 := .outstanding } where
  walked := stepIssue_walked h
  state := by simp
  rings q hq := by
    rw [if_pos rfl]
    exact stepIssue_rings h q hq
  ringOrder := by rw [stepIssue_tracker]
  overrun := by rw [stepIssue_tracker]

/-- The sole record is standing, the buffer request withdrawn (R100, R140). -/
theorem standing_passes {k : RecordKey} {s : State} {r : Record} (h : s.record? k = some r) :
    Passes k r s (withdrawRequest (mapRecord k (fun r => { r with standing := true }) s)) { r with standing := true } := by
  refine ⟨?_, ⟨rfl, rfl, rfl, rfl, rfl, rfl, rfl, rfl, rfl, rfl⟩, ?_, ?_, ?_, fun q => ?_, ?_, ?_⟩
  · exact (record?_congr (congrArg Tracker.records (withdrawRequest_tracker _)) k).trans
      (record?_mapRecord_some (f := fun r => { r with standing := true }) (fun _ e => e) h)
  · rw [withdrawRequest_regions]; rfl
  · rw [withdrawRequest_keys]; rfl
  · rw [withdrawRequest_line]; rfl
  · rw [ring_congr (withdrawRequest_rings _)]; rfl
  · rw [withdrawRequest_drive]; rfl
  · rw [withdrawRequest_sys]; rfl

theorem stepSoleWait_onward {k : RecordKey} {s : State} {r : Record} (h : s.record? k = some r) :
    ∃ x, Onward k r s (stepSoleWait k s) x := by
  unfold stepSoleWait
  cases hk : k == RecordKey.sole
  · exact ⟨_, stepIssue_onward h⟩
  have hpass := standing_passes h
  have hrings : (withdrawRequest (mapRecord k (fun r => { r with standing := true }) s)).rings = s.rings := withdrawRequest_rings _
  have htracker : (withdrawRequest (mapRecord k (fun r => { r with standing := true }) s)).tracker
      = (mapRecord k (fun r => { r with standing := true }) s).tracker := withdrawRequest_tracker _
  simp only [cond_true]
  generalize withdrawRequest (mapRecord k (fun r => { r with standing := true }) s) = t at hpass hrings htracker ⊢
  have hring : t.tracker.ringOrder = s.tracker.ringOrder := by rw [htracker]; rfl
  have hover : t.tracker.overrun = s.tracker.overrun := by rw [htracker]; rfl
  cases t.keep.chunk.isSome
  · exact ⟨_, (stepIssue_onward hpass.record).after hpass hrings hring hover⟩
  · exact ⟨_, (holdIn_onward hpass.record (by simp)).after hpass hrings hring hover⟩

theorem stepTagWait_onward {k : RecordKey} {s : State} {r : Record} (h : s.record? k = some r) :
    ∃ x, Onward k r s (stepTagWait k s) x := by
  unfold stepTagWait
  rw [h]
  dsimp only
  cases !(k == .sole) && r.split.isSome
  · exact stepSoleWait_onward h
  rw [cond_true]
  split
  next t _ _ =>
    have hpass := grantPartTag_passes h t
    obtain ⟨x, hx⟩ := stepSoleWait_onward hpass.record
    exact ⟨x, hx.after hpass rfl rfl rfl⟩
  next =>
    have hpass : Passes k r s { s with tracker := { s.tracker with tagWait := s.tracker.tagWait ++ [k] } } r :=
      ⟨h, .refl r, rfl, rfl, rfl, fun _ => rfl, rfl, rfl⟩
    exact ⟨_, (holdIn_onward hpass.record (by simp)).after hpass rfl rfl rfl⟩

/-- A write that a job has yet to copy from under is held in Overrun (R67). -/
theorem stepOverrun_held {k : RecordKey} {s : State} (hb : s.blocked k = true) : stepOverrun k s =
    { mapRecord k (fun r => { r with state := .overrun, timer := some (.overrun s.line.profile.overrunMs) }) s with
      tracker := { (mapRecord k (fun r => { r with state := .overrun, timer := some (.overrun s.line.profile.overrunMs) }) s).tracker with
        overrun := s.tracker.overrun ++ [k] } } := by
  unfold stepOverrun
  rw [hb]
  rfl

theorem stepOverrun_free {k : RecordKey} {s : State} (hb : s.blocked k = false) : stepOverrun k s = stepTagWait k s := by
  unfold stepOverrun
  rw [hb]
  rfl

/-! ## The releases -/

/-- A record's hold has ended: it keeps its command and leaves the orders of the holds. -/
theorem endHold_passes {k : RecordKey} {s : State} {x : Record} (hx : s.record? k = some x) :
    Passes k x s (endHold k s) { x with state := .classify, timer := none, awaited := [], waitsFor := [] } :=
  ⟨record?_endHold hx, ⟨rfl, rfl, rfl, rfl, rfl, rfl, rfl, rfl, rfl, rfl⟩, rfl, rfl, rfl, fun _ => rfl, rfl, rfl⟩

theorem not_mem_left (k : RecordKey) (l : List RecordKey) : k ∉ l.filter (· != k) := fun h => by
  simpa using (List.mem_filter.mp h).2

theorem filter_ne_eq (k : RecordKey) (l : List RecordKey) : l.filter (· != k) = l.filter (· ≠ k) :=
  List.filter_congr fun y _ => by by_cases hy : y = k <;> simp [hy]

theorem goesOn_of_walked {k : RecordKey} {x y : Record} {s u : State} (h : Walked k x s u y) : s.goesOn u x y :=
  ⟨h.alike.key, h.alike.kind, h.alike.host, h.alike.count, h.alike.frame, h.alike.image, h.alike.split, h.issued⟩

theorem exec_ringorderRelease {k : RecordKey} {s : State} {x : Record} (hx : s.record? k = some x) (hk : k ∈ s.tracker.ringOrder)
    (hw : x.waitsFor = []) : exec (.ringorderRelease k) s = .next (settle (stepOverrun k (endHold k s))) := by
  have h : ringorderRelease? k s = some (stepOverrun k (endHold k s)) := by
    unfold ringorderRelease?
    rw [hx]
    dsimp only
    rw [hw, List.contains_iff_mem.mpr hk]
    rfl
  show Host.Outcome.next (settle ((ringorderRelease? k s).getD s)) = _
  rw [h]
  rfl

theorem exec_overrunRelease {k : RecordKey} {s : State} {x : Record} (hx : s.record? k = some x) (hk : k ∈ s.tracker.overrun)
    (hfree : x.timer = none ∨ s.blocked k = false) : exec (.overrunRelease k) s = .next (settle (stepTagWait k (endHold k s))) := by
  have h : overrunRelease? k s = some (stepTagWait k (endHold k s)) := by
    have hor : (x.timer.isNone || !s.blocked k) = true := by
      rcases hfree with h | h <;> rw [h]
      · rfl
      · exact Bool.or_true _
    unfold overrunRelease?
    rw [hx]
    dsimp only
    rw [hor, List.contains_iff_mem.mpr hk]
    rfl
  show Host.Outcome.next (settle ((overrunRelease? k s).getD s)) = _
  rw [h]
  rfl

/-! ## Truncation (R150) -/

theorem lowerEnd_head {s : State} {a : Job} {rest : List Job} (hq : s.keep.queue = a :: rest)
    (hnodup : (s.keep.queue.map Job.id).Nodup) (n : Nat) :
    lowerEnd a.id n s = { s with keep := { s.keep with queue := { a with upto := min a.upto n } :: rest } } := by
  have hmap : (rest.map fun x => bif x.id == a.id then { x with upto := min x.upto n } else x) = rest := by
    refine (List.map_congr_left fun x hx => ?_).trans (List.map_id rest)
    rw [hq] at hnodup
    have hne : x.id ≠ a.id := fun he => (List.nodup_cons.mp hnodup).1 (he ▸ List.mem_map_of_mem hx)
    rw [beq_eq_false_iff_ne.mpr hne]
    rfl
  unfold lowerEnd
  rw [hq, List.map_cons, hmap, beq_self_eq_true, cond_true]

/-- The jobs left by an end, where the job that ends was lowered before. -/
theorem jobsLeft_lowerEnd (x n : Nat) (s : State) : jobsLeft (lowerEnd x n s).keep.queue [x] = jobsLeft s.keep.queue [x] := by
  unfold lowerEnd jobsLeft
  dsimp only
  induction s.keep.queue with
  | nil => rfl
  | cons y l ih =>
    rw [List.map_cons, List.filter_cons, List.filter_cons, ih]
    by_cases hy : y.id = x
    · rw [beq_iff_eq.mpr hy, cond_true]
      simp [hy]
    · rw [beq_eq_false_iff_ne.mpr hy, cond_false]

/-- A job that is lowered and ends leaves what its end leaves: its entry does not say its end. -/
theorem endJob_lowered {x y : Job} (hid : y.id = x.id) {o : JobOutcome} (hentry : y.entry o = x.entry o) (n : Nat) (s : State) :
    endJob y o (lowerEnd x.id n s) = jobsOver (jobsLeft s.keep.queue [x.id]) [x] o s := by
  rw [endJob_eq (queue := jobsLeft s.keep.queue [x.id]) (by rw [jobsLeft_eq_filter, hid, jobsLeft_lowerEnd])]
  unfold jobsOver
  simp only [List.reverse_singleton, List.map_singleton, hentry]
  rfl

/-- The truncation of an Active job that is not stopping, by its chunk and its phase. -/
theorem truncateJob_open {s : State} {a : Job} {rest : List Job} (hq : s.keep.queue = a :: rest) (h : a.stopOutcome = none) : truncateJob s a.id =
    match s.keep.chunk, a.phase with
    | some _, .reading => stopActive .truncated (lowerEnd a.id a.cursor s)
    | some c, .transforming => lowerEnd a.id (a.cursor + c.count) s
    | some c, .writing => lowerEnd a.id (a.cursor + c.count) s
    | _, _ => stopActive .truncated (lowerEnd a.id a.cursor s) := by
  unfold truncateJob
  rw [hq]
  dsimp only
  rw [beq_self_eq_true, cond_true, h]
  rfl

/-- A waiting job is truncated by its end. -/
theorem endsJobs_truncateJob : EndsJobs truncateJob .truncated := by
  intro v x hnodup ⟨hx, hstop, hhead⟩
  cases hq : v.keep.queue with
  | nil => rw [hq] at hx; cases hx
  | cons a rest =>
    rw [hq] at hx hhead
    rw [← hq]
    by_cases ha : a.id = x.id
    · obtain rfl := eq_of_id (hq ▸ hnodup) List.mem_cons_self hx ha
      obtain ⟨hchunk, hrequest⟩ := hhead rfl
      have hlow := lowerEnd_head hq hnodup a.cursor
      have hend := endJob_lowered (y := { a with upto := min a.upto a.cursor }) (x := a) rfl (o := .truncated) rfl a.cursor v
      have heq : truncateJob v a.id = stopActive .truncated (lowerEnd a.id a.cursor v) := by rw [truncateJob_open hq hstop, hchunk]
      rw [heq]
      generalize lowerEnd a.id a.cursor v = w at hlow hend ⊢
      exact (stopActive_of_quiet (a := { a with upto := min a.upto a.cursor }) (rest := rest) (by rw [hlow]) hstop
        (by rw [hlow]; exact hchunk) (by rw [hlow]; exact hrequest) .truncated).trans hend
    · unfold truncateJob
      rw [hq]
      dsimp only
      rw [beq_eq_false_iff_ne.mpr ha, cond_false, find?_of_tail (hq ▸ hnodup) hx ha, ← hq]
      exact endJob_lowered rfl rfl x.start v

/-- What the truncation of the Active job leaves. -/
structure HeadTruncated (s v : State) (a : Job) (rest : List Job) : Prop where
  tracker : v.tracker = s.tracker
  ends    : s.keep.chunk = none → v.keep.queue = rest ∧ v.keep.outcomes = (a.entry .truncated :: s.keep.outcomes).take 4
    ∧ v.keep.chunk = none ∧ v.keep.request = none ∧ v.line = { s.line with latched := s.line.latched ||| 0x04#8 }
  stays   : ∀ c, s.keep.chunk = some c → v.keep.outcomes = s.keep.outcomes ∧ v.line = s.line ∧ ∃ b, v.keep.queue = b :: rest
    ∧ b.id = a.id ∧ (a.stopOutcome ≠ none → b = a)
    ∧ (a.stopOutcome = none → a.phase = .reading → b = { a with upto := a.cursor, stopOutcome := some .truncated })
    ∧ (a.stopOutcome = none → a.phase ≠ .reading → b = { a with upto := a.cursor + c.count })

section Truncation

variable {s : State} {a : Job} {rest : List Job}

theorem truncateJob_stopping (hq : s.keep.queue = a :: rest) (h : a.stopOutcome ≠ none) : truncateJob s a.id = s := by
  unfold truncateJob
  rw [hq]
  dsimp only
  rw [beq_self_eq_true, cond_true, Option.isSome_iff_ne_none.mpr h, cond_true]

/-- With no chunk in flight the Active job ends. -/
theorem headTruncated_unchunked (hq : s.keep.queue = a :: rest) (hnodup : (s.keep.queue.map Job.id).Nodup)
    (hstop : a.stopOutcome = none) (hc : s.keep.chunk = none) : HeadTruncated s (truncateJob s a.id) a rest := by
  have hlow := lowerEnd_head hq hnodup a.cursor
  have heq : truncateJob s a.id = stopActive .truncated (lowerEnd a.id a.cursor s) := by rw [truncateJob_open hq hstop, hc]
  generalize lowerEnd a.id a.cursor s = w at hlow heq
  have hwq : w.keep.queue = { a with upto := min a.upto a.cursor } :: rest := by rw [hlow]
  have hwc : w.keep.chunk = none := by rw [hlow]; exact hc
  have hids : (w.keep.queue.map Job.id).Nodup := by
    rw [hwq]
    rw [hq] at hnodup
    exact hnodup
  have hkeep : (withdrawRequest w).keep = { w.keep with request := none } := by rw [withdrawRequest_eq]
  have hend : truncateJob s a.id = { withdrawRequest w with
      keep := { w.keep with
        queue := rest, outcomes := (a.entry .truncated :: w.keep.outcomes).take 4, request := none }
      line := { w.line with latched := w.line.latched ||| 0x04#8 } } := by
    rw [heq, stopActive_of_open hwq hstop, hwc]
    exact endActive_of_keep hkeep (withdrawRequest_line w) hwq hids .truncated
  rw [hend]
  refine ⟨(withdrawRequest_tracker w).trans (by rw [hlow]), fun _ => ⟨rfl, ?_, hwc, rfl, ?_⟩, fun c h => ?_⟩
  · show (a.entry .truncated :: w.keep.outcomes).take 4 = _
    rw [hlow]
  · show ({ w.line with latched := w.line.latched ||| 0x04#8 } : Line) = _
    rw [hlow]
  · rw [hc] at h
    cases h

/-- A job that reads is stopped; its end is its cursor. -/
theorem headTruncated_reading (hq : s.keep.queue = a :: rest) (hnodup : (s.keep.queue.map Job.id).Nodup)
    (hstop : a.stopOutcome = none) (hle : a.cursor ≤ a.upto) {c : Chunk} (hc : s.keep.chunk = some c) (hp : a.phase = .reading) :
    HeadTruncated s (truncateJob s a.id) a rest := by
  have hlow := lowerEnd_head hq hnodup a.cursor
  have heq : truncateJob s a.id = stopActive .truncated (lowerEnd a.id a.cursor s) := by rw [truncateJob_open hq hstop, hc, hp]
  rw [Nat.min_eq_right hle] at hlow
  generalize lowerEnd a.id a.cursor s = w at hlow heq
  have hwq : w.keep.queue = { a with upto := a.cursor } :: rest := by rw [hlow]
  have hwc : w.keep.chunk = some c := by rw [hlow]; exact hc
  have hopen := stopActive_of_open (a := { a with upto := a.cursor }) hwq hstop .truncated
  have hactive := mapActive_eq hwq fun j => { j with stopOutcome := some .truncated }
  have honly := engineOnly_releaseOwner .keep (mapActive (fun j => { j with stopOutcome := some .truncated }) w)
  rw [hwc, hp] at hopen
  rw [heq, hopen]
  rw [hactive] at honly ⊢
  dsimp only at honly ⊢
  generalize releaseOwner .keep _ = t at honly ⊢
  have hkeep : t.keep = { w.keep with queue := { a with upto := a.cursor, stopOutcome := some .truncated } :: rest } := by rw [honly]
  have hline : t.line = w.line := by rw [honly]
  have htracker : t.tracker = w.tracker := by rw [honly]
  refine ⟨htracker.trans (by rw [hlow]), fun h => absurd (hc.symm.trans h) nofun, fun d hd => ⟨?_, hline.trans (by rw [hlow]),
    _, congrArg KeepUnit.queue hkeep, rfl, fun h => absurd hstop h, fun _ _ => rfl, fun _ h => absurd hp h⟩⟩
  exact (congrArg KeepUnit.outcomes hkeep).trans (by rw [hlow])

/-- A job that transforms or writes goes on to the end of its chunk. -/
theorem headTruncated_onward (hq : s.keep.queue = a :: rest) (hnodup : (s.keep.queue.map Job.id).Nodup)
    (hstop : a.stopOutcome = none) {c : Chunk} (hc : s.keep.chunk = some c) (hle : a.cursor + c.count ≤ a.upto)
    (hp : a.phase = .transforming ∨ a.phase = .writing) : HeadTruncated s (truncateJob s a.id) a rest := by
  have hlow := lowerEnd_head hq hnodup (a.cursor + c.count)
  have heq : truncateJob s a.id = lowerEnd a.id (a.cursor + c.count) s := by
    rw [truncateJob_open hq hstop, hc]
    rcases hp with hp | hp <;> rw [hp]
  rw [Nat.min_eq_right hle] at hlow
  rw [heq, hlow]
  refine ⟨rfl, fun h => absurd (hc.symm.trans h) nofun, fun d hd => ⟨rfl, rfl, _, rfl, rfl, fun h => absurd hstop h, fun _ h => ?_,
    fun _ _ => ?_⟩⟩
  · rcases hp with hp | hp <;> exact absurd (hp.symm.trans h) (by decide)
  · cases hc.symm.trans hd
    rfl

theorem headTruncated (law : s.keep.Law) (hq : s.keep.queue = a :: rest) : HeadTruncated s (truncateJob s a.id) a rest := by
  obtain ⟨-, -, -, -, hnodup, hjobs, -, -, hhead⟩ := law
  obtain ⟨⟨hnone, hsome⟩, -⟩ := hhead a (by rw [hq]; rfl)
  obtain ⟨-, -, -, hle, -⟩ := hjobs a (by rw [hq]; exact List.mem_cons_self)
  cases hc : s.keep.chunk with
  | none => exact headTruncated_unchunked hq hnodup (hnone hc).2 hc
  | some c =>
    obtain ⟨hidle, hfits⟩ := hsome c hc
    by_cases hstop : a.stopOutcome = none
    · have hend : a.phase ≠ .reading → a.cursor + c.count ≤ a.upto := fun hp => hfits.resolve_right fun h => hp h.1
      cases hp : a.phase with
      | idle => exact absurd hp hidle
      | reading => exact headTruncated_reading hq hnodup hstop hle hc hp
      | transforming => exact headTruncated_onward hq hnodup hstop hc (hend (by rw [hp]; decide)) (.inl hp)
      | writing => exact headTruncated_onward hq hnodup hstop hc (hend (by rw [hp]; decide)) (.inr hp)
    · rw [truncateJob_stopping hq hstop]
      exact ⟨rfl, fun h => absurd (hc.symm.trans h) nofun, fun _ _ => ⟨rfl, rfl, a, hq, rfl, fun _ => rfl,
        fun h => absurd h hstop, fun h => absurd h hstop⟩⟩

end Truncation

/-- What the truncation of the jobs that satisfy a test leaves (R150, R151). -/
structure JobsTruncated (s u : State) (p : Job → Prop) (ended : List Job) : Prop where
  tracker : u.tracker = s.tracker
  stays   : ∀ j ∈ s.keep.queue, ¬ p j → j ∈ u.keep.queue
  enters  : s.jobsEnded ended .truncated 0x00#8 u
  only    : ∀ j ∈ ended, p j
  active  : ∀ j ∈ u.keep.queue, ∀ b ∈ s.keep.queue, b.id = j.id → p b → ∃ c, s.keep.chunk = some c ∧ s.keep.queue.head? = some b
    ∧ (b.stopOutcome ≠ none → j = b)
    ∧ (b.stopOutcome = none → b.phase = .reading → j = { b with upto := b.cursor, stopOutcome := some .truncated })
    ∧ (b.stopOutcome = none → b.phase ≠ .reading → j = { b with upto := b.cursor + c.count })

section Truncated

variable {s : State} {a : Job} {rest : List Job} {p : Job → Bool}

/-- The Active job does not satisfy the test. -/
theorem jobsTruncated_behind (law : s.keep.Law) (hq : s.keep.queue = a :: rest) (hp : p a = false) :
    JobsTruncated s (((s.keep.queue.filter p).map Job.id).foldl truncateJob s) (fun j => p j = true) (rest.filter p) := by
  obtain ⟨-, hout, -⟩ := id law
  obtain ⟨-, -, hnodup, hwait⟩ := activeJob_of_law law hq
  have hfilter : s.keep.queue.filter p = rest.filter p := by rw [hq, List.filter_cons_of_neg (by rw [hp]; decide)]
  have hids := hq ▸ hnodup
  rw [hfilter, foldl_behind endsJobs_truncateJob hids hwait (pre := [a]) hq (.inr ⟨a, rfl, rfl⟩) hout]
  have hleft : ∀ j ∈ rest, j ∈ jobsLeft rest ((rest.filter p).map Job.id) ↔ p j = false := fun j =>
    mem_left_iff (List.nodup_cons.mp hids).2
  refine ⟨rfl, fun j hj hpj => ?_, jobsEnded_headStays hq hids rfl rfl rfl, fun j hj => (List.mem_filter.mp hj).2,
    fun j hj b hb hid hpb => ?_⟩
  · rw [hq] at hj
    rcases List.mem_cons.mp hj with rfl | hj
    · exact List.mem_cons_self
    · exact List.mem_cons_of_mem a ((hleft j hj).mpr (Bool.not_eq_true _ ▸ hpj))
  · have hpj : p j = false ∧ j ∈ s.keep.queue := by
      rw [hq]
      rcases List.mem_cons.mp hj with rfl | hj
      · exact ⟨hp, List.mem_cons_self⟩
      · have hmem := (mem_jobsLeft.mp hj).1
        exact ⟨(hleft j hmem).mp hj, List.mem_cons_of_mem a hmem⟩
    rw [eq_of_id hnodup hb hpj.2 hid] at hpb
    exact absurd (hpj.1.symm.trans hpb) (by decide)

/-- The Active job satisfies the test. -/
theorem jobsTruncated_head (law : s.keep.Law) (hq : s.keep.queue = a :: rest) (hp : p a = true) :
    ∃ ended, JobsTruncated s (((s.keep.queue.filter p).map Job.id).foldl truncateJob s) (fun j => p j = true) ended := by
  obtain ⟨-, hout, -⟩ := id law
  obtain ⟨-, -, hnodup, hwait⟩ := activeJob_of_law law hq
  have hids := hq ▸ hnodup
  obtain ⟨htracker, hends, hstays⟩ := headTruncated law hq
  have hfilter : s.keep.queue.filter p = a :: rest.filter p := by rw [hq, List.filter_cons_of_pos hp]
  rw [hfilter, List.map_cons, List.foldl_cons]
  generalize truncateJob s a.id = v at htracker hends hstays ⊢
  have hleft : ∀ j ∈ rest, j ∈ jobsLeft rest ((rest.filter p).map Job.id) ↔ p j = false := fun j =>
    mem_left_iff (List.nodup_cons.mp hids).2
  have hbehind : ∀ {pre : List Job} (j : Job), j ∈ s.keep.queue → ¬ p j = true →
      j ∈ pre ++ jobsLeft rest ((rest.filter p).map Job.id) := fun {pre} j hj hpj => by
    rw [hq] at hj
    rcases List.mem_cons.mp hj with rfl | hj
    · exact absurd hp hpj
    · exact List.mem_append_right pre ((hleft j hj).mpr (Bool.not_eq_true _ ▸ hpj))
  have hkept : ∀ j ∈ jobsLeft rest ((rest.filter p).map Job.id), ∀ b ∈ s.keep.queue, b.id = j.id → ¬ p b = true :=
    fun j hj b hb hid hpb => by
    have hmem := (mem_jobsLeft.mp hj).1
    have hpj := (hleft j hmem).mp hj
    rw [eq_of_id hnodup hb (hq ▸ List.mem_cons_of_mem a hmem) hid] at hpb
    exact absurd (hpj.symm.trans hpb) (by decide)
  cases hc : s.keep.chunk with
  | none =>
    obtain ⟨hvq, hvo, hvc, hvr, hline⟩ := hends hc
    rw [foldl_behind endsJobs_truncateJob hids hwait (pre := []) hvq (.inl ⟨rfl, hvc, hvr⟩) (by rw [hvo]; exact List.length_take_le _ _)]
    refine ⟨a :: rest.filter p, htracker, hbehind, jobsEnded_headEnds hq hids hvo hline, fun j hj => ?_,
      fun j hj b hb hid hpb => absurd hpb (hkept j hj b hb hid)⟩
    rcases List.mem_cons.mp hj with rfl | hj
    · exact hp
    · exact (List.mem_filter.mp hj).2
  | some c =>
    obtain ⟨hvo, hline, b, hvq, hid, hstopping, hreading, hgoing⟩ := hstays c hc
    rw [foldl_behind endsJobs_truncateJob hids hwait (pre := [b]) hvq (.inr ⟨b, rfl, hid⟩) (by rw [hvo]; exact hout)]
    refine ⟨rest.filter p, htracker, hbehind, jobsEnded_headStays hq hids hid hvo hline, fun j hj => (List.mem_filter.mp hj).2,
      fun j hj x hx hxid hpx => ?_⟩
    rcases List.mem_cons.mp hj with rfl | hj
    · obtain rfl := eq_of_id hnodup hx (hq ▸ List.mem_cons_self) (hxid.trans hid)
      exact ⟨c, hc, by rw [hq]; rfl, hstopping, hreading, hgoing⟩
    · exact absurd hpx (hkept j hj x hx hxid)

theorem jobsTruncated (law : s.keep.Law) (p : Job → Bool) :
    ∃ ended, JobsTruncated s (((s.keep.queue.filter p).map Job.id).foldl truncateJob s) (fun j => p j = true) ended := by
  obtain ⟨-, hout, -⟩ := id law
  cases hq : s.keep.queue with
  | nil =>
    have hempty : ∀ j, j ∉ s.keep.queue := fun j hj => by rw [hq] at hj; cases hj
    refine ⟨[], rfl, fun j hj => absurd hj (hempty j),
      ⟨List.nil_sublist _, fun j hj => absurd hj (hempty j), (List.take_of_length_le hout).symm, ?_⟩, nofun,
      fun j _ b hb => absurd hb (hempty b)⟩
    rw [if_pos rfl, BitVec.or_zero, BitVec.or_zero]
    rfl
  | cons a rest =>
    rw [← hq]
    cases hp : p a
    · exact ⟨_, jobsTruncated_behind law hq hp⟩
    · exact jobsTruncated_head law hq hp

end Truncated

theorem exec_overrunTimerExpiry {k : RecordKey} {s : State} {x : Record} (hx : s.record? k = some x) (hk : k ∈ s.tracker.overrun)
    (ht : x.timer ≠ none) : exec (.overrunTimerExpiry k) s = .next (settle (mapRecord k (fun r => { r with timer := none })
      (((s.keep.queue.filter (s.blocks k)).map Job.id).foldl truncateJob s))) := by
  have h : overrunExpired? k s = some (mapRecord k (fun r => { r with timer := none }) ((s.blockingJobs k).foldl truncateJob s)) := by
    unfold overrunExpired?
    rw [hx]
    dsimp only
    rw [Option.isSome_iff_ne_none.mpr ht, List.contains_iff_mem.mpr hk]
    rfl
  show Host.Outcome.next (settle ((overrunExpired? k s).getD s)) = _
  rw [h]
  rfl

/-! ## The statement -/

theorem claim_of_issuedBy {k : RecordKey} {r q : Ring} (h : r.issuedBy k q) : q.claim = r.claim := by rw [h.1]

/-- Settles O45: the steps that end the holds, and the truncation of the jobs. -/
theorem ringHoldsEnd : Obligations.RingHoldsEnd := by
  intro k x s hx
  have hpass := endHold_passes hx
  have hblocked : (endHold k s).blocked k = s.blocked k := rfl
  refine ⟨fun hk hw => ?_, fun hk hfree => ?_, fun hk ht law => ?_⟩
  · have hexec := exec_ringorderRelease hx hk hw
    have hline : (endHold k s).line.profile = s.line.profile := rfl
    cases hb : s.blocked k
    · rw [stepOverrun_free (hblocked.trans hb)] at hexec
      obtain ⟨y, hy⟩ := stepTagWait_onward hpass.record
      have hnone : ¬ ∃ j ∈ s.keep.queue, s.heldByJob k j := fun h => absurd (hb.symm.trans ((blocked_iff s k).mpr h)) (by decide)
      refine ⟨_, y, hexec, hy.walked.record, goesOn_of_walked (hpass.walked hy.walked), ?_, fun r hr => ?_, hy.rings,
        fun h => absurd h hnone, fun _ => hy.state⟩
      · rw [hy.ringOrder]
        exact not_mem_left k _
      · have h := hy.rings r hr
        split at h
        · exact claim_of_issuedBy h
        · rw [h]
          rfl
    · have hu := stepOverrun_held (hblocked.trans hb)
      have hrec := record?_mapRecord_some
        (f := fun r => { r with state := .overrun, timer := some (.overrun s.line.profile.overrunMs) }) (fun _ e => e) hpass.record
      rw [hu] at hexec
      have hheld : ∃ j ∈ s.keep.queue, s.heldByJob k j := (blocked_iff s k).mp hb
      refine ⟨_, _, hexec, hrec, ⟨rfl, rfl, rfl, rfl, rfl, rfl, rfl, nofun, fun _ => rfl⟩, not_mem_left k _, fun _ _ => rfl,
        fun r _ => ?_, fun _ => ⟨rfl, rfl, ?_⟩, fun h => ?_⟩
      · rw [if_neg nofun]
        rfl
      · show s.tracker.overrun.filter (· != k) ++ [k] = _
        rw [filter_ne_eq]
      · obtain ⟨j, hj, hh⟩ := hheld
        exact absurd hh (h j hj)
  · have hb : x.timer = none ∨ s.blocked k = false := hfree.imp id fun h => Bool.eq_false_iff.mpr fun hb => by
      obtain ⟨j, hj, hh⟩ := (blocked_iff s k).mp hb
      exact h j hj hh
    obtain ⟨y, hy⟩ := stepTagWait_onward hpass.record
    refine ⟨_, y, exec_overrunRelease hx hk hb, hy.walked.record, ?_, goesOn_of_walked (hpass.walked hy.walked), hy.rings, hy.state⟩
    rw [hy.overrun]
    exact not_mem_left k _
  · obtain ⟨ended, htracker, hstays, henters, honly, hactive⟩ := jobsTruncated law (s.blocks k)
    have hexec := exec_overrunTimerExpiry hx hk ht
    generalize ((s.keep.queue.filter (s.blocks k)).map Job.id).foldl truncateJob s = u at htracker hstays henters hactive hexec
    simp only [blocks_iff] at hstays honly hactive
    exact ⟨_, ended, hexec, record?_mapRecord_some (f := fun r => { r with timer := none }) (fun _ e => e)
      ((record?_congr (congrArg Tracker.records htracker) k).trans hx), hstays, henters, honly, hactive⟩

end Sys2Proof.Machine
end

section
/-! SUPPORT. The accesses of a command: what its runs on one ring make of the sectors of its range (R56), and what ring acceptance
finds (R56 to R58). -/

namespace Sys2Proof.Machine

/-! ## Sectors bound to a ring -/

/-- A sector bound to a ring has a virtual offset, and a disk LBA where the ring is Live (R10, R48). -/
theorem classOf_of_ring {s : State} {y q : Nat} (h : (s.classOf y).ring = some q) :
    (∃ v, (s.classOf y).virt = some v) ∧ ((s.classOf y).disk = none ↔ (s.ring q).live = false) := by
  cases hb : s.binding y with
  | none => rw [classOf_unmapped hb] at h; cases h
  | some e =>
    obtain ⟨i, d⟩ := e
    cases hk : d.kind with
    | clear t => rw [classOf_clear hb hk] at h; cases h
    | programme t id => rw [classOf_programme hb hk] at h; cases h
    | barred => rw [classOf_barred hb hk] at h; cases h
    | overlay => exact absurd hk (binding_not_overlay hb)
    | ring r =>
      rw [classOf_ring hb hk] at h ⊢
      cases hl : (s.ring r).live
      · rw [ringSector_idle hl] at h ⊢
        cases h
        exact ⟨⟨_, rfl⟩, iff_of_true rfl hl⟩
      · rw [ringSector_live hl] at h ⊢
        cases h
        exact ⟨⟨_, rfl⟩, iff_of_false nofun fun hc => absurd (hl.symm.trans hc) (by decide)⟩

/-- A sector of the range is bound to the ring. -/
def State.onRing (s : State) (q y : Nat) : Bool := (s.classOf y).ring == some q

/-- The runs of a list tell of each of their sectors which ring it is bound to. -/
def RingRuns (s : State) (l : List Run) : Prop :=
  ∀ r ∈ l, ∀ y, r.first ≤ y → y < r.first + r.count → (s.classOf y).ring = r.ring

theorem ringRuns_classify (s : State) (x : Nat) {n : Nat} (hn : 0 < n) : RingRuns s (s.classify x n) := by
  intro r hr y hlo hhi
  obtain ⟨k, rfl⟩ := Nat.exists_eq_add_of_le hlo
  exact ring_of_run hn hr (by omega)

/-- The sectors of the runs of a ring are the sectors of the range that are bound to it (R56). -/
theorem sectorsOf_ring {s : State} {q x stop : Nat} {l : List Run} (htiles : Tiles Run.first Run.count x stop l)
    (hruns : RingRuns s l) : sectorsOf (l.filter fun r => r.ring == some q) = (List.range' x (stop - x)).countP (s.onRing q) := by
  induction l generalizing x with
  | nil =>
    have hx : x = stop := htiles
    rw [hx, Nat.sub_self]
    rfl
  | cons r rest ih =>
    obtain ⟨hfirst, hpos, htail⟩ := htiles
    have hle := htail.le
    have hsplit : List.range' x (stop - x) = List.range' x r.count ++ List.range' (x + r.count) (stop - (x + r.count)) := by
      rw [List.range'_append_1]
      congr 1
      omega
    have hown : ∀ y ∈ List.range' x r.count, (s.classOf y).ring = r.ring := fun y hy => by
      obtain ⟨hlo, hhi⟩ := List.mem_range'_1.mp hy
      exact hruns r List.mem_cons_self y (by omega) (by omega)
    have hrest := ih htail fun t ht => hruns t (List.mem_cons_of_mem r ht)
    rw [hsplit, List.countP_append, ← hrest]
    by_cases hq : r.ring = some q
    · have hall : (List.range' x r.count).countP (s.onRing q) = r.count :=
        (List.countP_eq_length.mpr fun y hy => beq_iff_eq.mpr ((hown y hy).trans hq)).trans List.length_range'
      rw [hall, List.filter_cons_of_pos (by rw [hq]; exact beq_self_eq_true _)]
      exact List.sum_cons
    · have hnone : (List.range' x r.count).countP (s.onRing q) = 0 :=
        List.countP_eq_zero.mpr fun y hy hc => hq ((hown y hy).symm.trans (beq_iff_eq.mp hc))
      rw [hnone, Nat.zero_add, List.filter_cons_of_neg (by simpa using hq)]

/-- The first run of a ring begins with the first sector that is bound to it (R56). -/
theorem find?_ring {s : State} {q x stop : Nat} {l : List Run} (htiles : Tiles Run.first Run.count x stop l) (hruns : RingRuns s l)
    {r : Run} (hr : l.find? (fun r => r.ring == some q) = some r) : ∀ z, x ≤ z → z < r.first → (s.classOf z).ring ≠ some q := by
  induction l generalizing x with
  | nil => cases hr
  | cons p rest ih =>
    obtain ⟨hfirst, hpos, htail⟩ := htiles
    intro z hlo hhi
    by_cases hq : p.ring = some q
    · rw [List.find?_cons_of_pos (by rw [hq]; exact beq_self_eq_true _)] at hr
      cases hr
      omega
    · rw [List.find?_cons_of_neg (by simpa using hq)] at hr
      by_cases hz : z < x + p.count
      · rw [hruns p List.mem_cons_self z (by omega) (by omega)]
        exact hq
      · exact ih htail (fun t ht => hruns t (List.mem_cons_of_mem p ht)) hr z (by omega) hhi

section Accesses

variable {s : State} {x n q y v m : Nat} (hn : 0 < n)
include hn

theorem mem_rings_iff : q ∈ (s.classify x n).filterMap Run.ring ↔ ∃ z, x ≤ z ∧ z < x + n ∧ (s.classOf z).ring = some q := by
  rw [List.mem_filterMap]
  constructor
  · rintro ⟨r, hr, hq⟩
    obtain ⟨hpos, hlo, hhi⟩ := (tiles_classify s x hn).of_mem hr
    exact ⟨r.first, hlo, by omega, (ringRuns_classify s x hn r hr r.first (Nat.le_refl _) (by omega)).trans hq⟩
  · rintro ⟨z, hlo, hhi, hq⟩
    obtain ⟨r, hr, hrlo, hrhi⟩ := (tiles_classify s x hn).covers hlo hhi
    exact ⟨r, hr, (ringRuns_classify s x hn r hr z hrlo hrhi).symm.trans hq⟩

/-- The first run of a ring that a sector is bound to, and the access that it begins (R56). -/
theorem accessOf_first (hq : q ∈ (s.classify x n).filterMap Run.ring) : ∃ r v, (s.classify x n).find? (fun r => r.ring == some q) = some r
    ∧ r.virt = some v ∧ s.accessOf x n q r.first v (sectorsOf ((s.classify x n).filter fun r => r.ring == some q)) := by
  have htiles := tiles_classify s x hn
  have hruns := ringRuns_classify s x hn
  obtain ⟨r, hr⟩ : ∃ r, (s.classify x n).find? (fun r => r.ring == some q) = some r := by
    obtain ⟨r, hr, hrq⟩ := List.mem_filterMap.mp hq
    refine Option.ne_none_iff_exists'.mp fun hnone => ?_
    exact absurd (List.find?_eq_none.mp hnone r hr) (by rw [hrq]; simp)
  have hmem := List.mem_of_find?_eq_some hr
  obtain ⟨hpos, hlo, hhi⟩ := htiles.of_mem hmem
  have hring : (s.classOf r.first).ring = some q :=
    (hruns r hmem r.first (Nat.le_refl _) (by omega)).trans (by simpa using List.find?_some hr)
  obtain ⟨⟨v, hv⟩, -⟩ := classOf_of_ring hring
  obtain ⟨-, -, -, hvirt, -⟩ := classify_mem hn hmem
  refine ⟨r, v, hr, hvirt.trans hv, hlo, by omega, hring, hv, find?_ring htiles hruns hr, ?_⟩
  rw [sectorsOf_ring htiles hruns, show x + n - x = n by omega, List.range'_eq_map_range, List.countP_map]
  rfl

omit hn in
/-- A command has one access on a ring (R56). -/
theorem accessOf_unique {y' v' m' : Nat} (h : s.accessOf x n q y v m) (h' : s.accessOf x n q y' v' m') : y = y' ∧ v = v' ∧ m = m' := by
  obtain ⟨hlo, -, hring, hvirt, hfirst, rfl⟩ := h
  obtain ⟨hlo', -, hring', hvirt', hfirst', rfl⟩ := h'
  have hy : y = y' := by
    rcases Nat.lt_trichotomy y y' with hlt | heq | hlt
    · exact absurd hring (hfirst' y hlo hlt)
    · exact heq
    · exact absurd hring' (hfirst y' hlo' hlt)
  subst hy
  exact ⟨rfl, Option.some.inj (hvirt.symm.trans hvirt'), rfl⟩

theorem mem_rings_of_accessOf (h : s.accessOf x n q y v m) : q ∈ (s.classify x n).filterMap Run.ring := by
  obtain ⟨hlo, hhi, hring, -⟩ := h
  exact (mem_rings_iff hn).mpr ⟨y, hlo, hhi, hring⟩

/-- The access of a command on a ring, as its runs have it (R56). -/
theorem accessOn_eq (h : s.accessOf x n q y v m) :
    (accessOn (s.classify x n) q).first = v ∧ (accessOn (s.classify x n) q).count = m
      ∧ (accessOn (s.classify x n) q).idle = !(s.ring q).live
      ∧ ((accessOn (s.classify x n) q).stale = true ↔
        ∃ z, x ≤ z ∧ z < x + n ∧ (s.classOf z).ring = some q ∧ (s.classOf z).epochStart = none) := by
  have htiles := tiles_classify s x hn
  have hruns := ringRuns_classify s x hn
  obtain ⟨r, w, hr, hvirt, hacc⟩ := accessOf_first hn (mem_rings_of_accessOf hn h)
  obtain ⟨-, rfl, rfl⟩ := accessOf_unique h hacc
  have hmem := List.mem_of_find?_eq_some hr
  have hrq : r.ring = some q := by simpa using List.find?_some hr
  have hdisk : ∀ p ∈ s.classify x n, p.ring = some q → (p.disk = none ↔ (s.ring q).live = false) := fun p hp hpq => by
    obtain ⟨hpos, -, -⟩ := htiles.of_mem hp
    obtain ⟨-, hd, hring, -⟩ := classify_mem hn hp
    rw [hd]
    exact (classOf_of_ring (hring.symm.trans hpq)).2
  refine ⟨?_, rfl, ?_, ?_⟩
  · show (((s.classify x n).filter fun r => r.ring == some q).head?.bind Run.virt).getD 0 = v
    rw [List.head?_filter, hr, Option.bind_some, hvirt]
    rfl
  · show (((s.classify x n).filter fun r => r.ring == some q).any fun r => r.disk.isNone) = _
    cases hl : (s.ring q).live
    · refine List.any_eq_true.mpr ⟨r, List.mem_filter.mpr ⟨hmem, beq_iff_eq.mpr hrq⟩, ?_⟩
      rw [(hdisk r hmem hrq).mpr hl]
      rfl
    · refine List.any_eq_false.mpr fun p hp hnone => ?_
      obtain ⟨hp, hpq⟩ := List.mem_filter.mp hp
      have := (hdisk p hp (beq_iff_eq.mp hpq)).mp (Option.isNone_iff_eq_none.mp hnone)
      exact absurd (hl.symm.trans this) (by decide)
  · show (((s.classify x n).filter fun r => r.ring == some q).any fun r => r.epochStart.isNone) = true ↔ _
    rw [List.any_eq_true]
    constructor
    · rintro ⟨p, hp, hnone⟩
      obtain ⟨hp, hpq⟩ := List.mem_filter.mp hp
      obtain ⟨hpos, hlo, hhi⟩ := htiles.of_mem hp
      obtain ⟨-, -, hring, -, hsame⟩ := classify_mem hn hp
      exact ⟨p.first, hlo, by omega, hring.symm.trans (beq_iff_eq.mp hpq),
        ((hsame p.first (Nat.le_refl _) (by omega)).2.2.2).trans (Option.isNone_iff_eq_none.mp hnone)⟩
    · rintro ⟨z, hlo, hhi, hzq, hnone⟩
      obtain ⟨p, hp, hplo, hphi⟩ := htiles.covers hlo hhi
      obtain ⟨-, -, -, -, hsame⟩ := classify_mem hn hp
      refine ⟨p, List.mem_filter.mpr ⟨hp, beq_iff_eq.mpr ((hruns p hp z hplo hphi).symm.trans hzq)⟩, ?_⟩
      rw [← (hsame z hplo hphi).2.2.2, hnone]
      rfl

/-! ## The tests of one access -/

omit hn in
theorem overwrites_iff_overwritten (span first count c d : Nat) :
    overwrites span first count c (c + d) = true ↔ overwritten span first count c d := overwrites_iff span first count c (c + d)

omit hn in
theorem read_stale_iff (r : Ring) (write : Bool) (hw : write = false) (v m : Nat) :
    (r.accesses.any fun a => a.write && !a.issued && overwrites r.span a.first a.count v (v + m)) = true ↔
      write = false ∧ ∃ a ∈ r.accesses, a.write = true ∧ a.issued = false ∧ overwritten r.span a.first a.count v m := by
  rw [any_overwrites_iff, and_iff_right hw]
  simp only [overwrites_iff_overwritten]

/-- The tests of an access by their table (R56 to R58). -/
theorem accessFailure_table (write : Bool) (h : s.accessOf x n q y v m) :
    FirstReason (s.accessTable write x n q v m) (s.accessFailure write (accessOn (s.classify x n) q)) := by
  obtain ⟨hfirst, hcount, hidle, hstale⟩ := accessOn_eq hn h
  have hring : (accessOn (s.classify x n) q).ring = q := rfl
  unfold State.accessFailure State.accessTable
  rw [hring, hfirst, hcount, hidle]
  dsimp only
  cases hl : (s.ring q).live
  · exact .here rfl
  refine .later (by decide) ?_
  rw [if_neg (by decide)]
  by_cases hst : (accessOn (s.classify x n) q).stale = true
  · rw [if_pos hst]
    exact .here (hstale.mp hst)
  rw [if_neg hst]
  refine .later (mt hstale.mpr hst) ?_
  unfold Ring.writeFailure Ring.readFailure
  rw [lower_of_live hl]
  by_cases hlow : v < max (s.ring q).floor ((s.ring q).head - (s.ring q).trail)
  · rw [if_pos hlow, if_pos hlow]
    cases write <;> exact .here hlow
  rw [if_neg hlow, if_neg hlow]
  refine .later hlow ?_
  cases write
  · rw [cond_false]
    refine .later (fun h => nomatch h.1) ?_
    by_cases hahead : (s.ring q).head < v + m
    · rw [if_pos hahead]
      exact .here ⟨rfl, hahead⟩
    rw [if_neg hahead]
    refine .later (fun h => hahead h.2) ?_
    have hover := read_stale_iff (s.ring q) false rfl v m
    split
    · rename_i ho
      exact .here (hover.mp ho)
    · rename_i ho
      exact .later (mt hover.mpr ho) .passed
  · rw [cond_true]
    by_cases hgap : (s.ring q).claim < v
    · rw [if_pos hgap]
      exact .here ⟨rfl, hgap⟩
    · rw [if_neg hgap]
      exact .later (fun h => hgap h.2) (.later (fun h => nomatch h.1) (.later (fun h => nomatch h.1) .passed))

omit hn in
theorem firstReason_unique {ρ : Type} {l : List (Prop × ρ)} {v w : Option ρ} (h : FirstReason l v) (h' : FirstReason l w) : v = w := by
  induction h with
  | passed => cases h'; rfl
  | here hp =>
    rcases firstReason_cons h' with ⟨-, rfl⟩ | ⟨hn, -⟩
    · rfl
    · exact absurd hp hn
  | later hnot _ ih =>
    rcases firstReason_cons h' with ⟨hp, -⟩ | ⟨-, ht⟩
    · exact absurd hp hnot
    · exact ih ht

/-! ## The order of the accesses -/

/-- A ring that the command's runs name before another is accessed at a lower host LBA (R56). -/
theorem accessOf_lt {p y' v' m' : Nat} (h : s.accessOf x n q y v m) (h' : s.accessOf x n p y' v' m')
    (hmet : ∃ pre post, (s.classify x n).filterMap Run.ring = pre ++ q :: post ∧ p ∉ pre ∧ p ≠ q) : y < y' := by
  obtain ⟨pre, post, hsplit, hpre, hne⟩ := hmet
  obtain ⟨l, l', hl, hbefore, hafter⟩ := List.filterMap_eq_append_iff.mp hsplit
  obtain ⟨m₁, r, m₂, rfl, hm₁, hr, -⟩ := List.filterMap_eq_cons_iff.mp hafter
  rw [← List.append_assoc] at hl
  have htiles := tiles_classify s x hn
  have hruns := ringRuns_classify s x hn
  rw [hl] at htiles hruns
  obtain ⟨hpos, hrlo, -⟩ := htiles.of_mem (List.mem_append_right _ List.mem_cons_self)
  have hring := hruns r (List.mem_append_right _ List.mem_cons_self) r.first (Nat.le_refl _) (by omega)
  obtain ⟨-, -, -, -, hfirst, -⟩ := h
  obtain ⟨hlo', -, hring', -⟩ := h'
  have hle : y ≤ r.first := by
    by_contra hlt
    exact hfirst r.first hrlo (Nat.not_le.mp hlt) (hring.trans hr)
  have hlt : r.first < y' := by
    by_contra hnot
    rcases Nat.lt_or_eq_of_le (Nat.not_lt.mp hnot) with hlt | rfl
    · obtain ⟨t, ht, htlo, hthi⟩ := htiles.left.covers hlo' hlt
      have htring : t.ring = some p := (hruns t (List.mem_append_left _ ht) y' htlo hthi).symm.trans hring'
      rcases List.mem_append.mp ht with ht | ht
      · exact hpre (hbefore ▸ List.mem_filterMap.mpr ⟨t, ht, htring⟩)
      · exact absurd ((hm₁ t ht).symm.trans htring) nofun
    · exact hne (Option.some.inj (hring'.symm.trans (hring.trans hr)))
  omega

/-! ## Ring acceptance -/

omit hn in
theorem mem_accessesOf {runs : List Run} {e : AccessRequest} :
    e ∈ accessesOf runs ↔ ∃ q ∈ runs.filterMap Run.ring, accessOn runs q = e := by
  unfold accessesOf
  simp only [List.mem_map, mem_distinct]

/-- Every access of a command passes its tests where its verdict is none. -/
theorem accepted_of_verdict {write : Bool} (h : AcceptVerdict s write x n none) :
    ∀ e ∈ accessesOf (s.classify x n), s.accessFailure write e = none := by
  cases h with
  | accepted hall =>
    intro e he
    obtain ⟨q, hq, rfl⟩ := mem_accessesOf.mp he
    obtain ⟨r, v, -, -, hacc⟩ := accessOf_first hn hq
    exact firstReason_unique (accessFailure_table hn write hacc) (hall q _ v _ hacc)

/-- The first access that fails gives the reason (R56). -/
theorem refused_of_verdict {write : Bool} {why : HostReason} (h : AcceptVerdict s write x n (some why)) :
    (accessesOf (s.classify x n)).findSome? (s.accessFailure write) = some why := by
  cases h with
  | refused _ q y v m hacc hfail hearlier =>
    have hmem := (mem_distinct _ q).mpr (mem_rings_of_accessOf hn hacc)
    obtain ⟨before, after, hsplit⟩ := List.append_of_mem hmem
    have horder := distinct_pairwise ((s.classify x n).filterMap Run.ring)
    rw [hsplit] at horder
    unfold accessesOf
    rw [hsplit, List.map_append, List.map_cons]
    refine List.findSome?_eq_some_iff.mpr ⟨before.map (accessOn (s.classify x n)), _, _, rfl,
      firstReason_unique (accessFailure_table hn write hacc) hfail, fun e he => ?_⟩
    obtain ⟨p, hp, rfl⟩ := List.mem_map.mp he
    have hpring : p ∈ (s.classify x n).filterMap Run.ring :=
      (mem_distinct _ p).mp (hsplit ▸ List.mem_append_left _ hp)
    obtain ⟨r, w, -, -, hacc'⟩ := accessOf_first hn hpring
    have hmet := (List.pairwise_append.mp horder).2.2 p hp q List.mem_cons_self
    exact firstReason_unique (accessFailure_table hn write hacc') (hearlier p _ w _ hacc' (accessOf_lt hn hacc' hacc hmet))

end Accesses

end Sys2Proof.Machine
end

section
/-! SUPPORT. Ring acceptance and the ordering guards of an arriving command (R56 to R69); the settling of O42. -/

namespace Sys2Proof.Machine

/-! ## Where a record goes from RingOrder on -/

/-- Where the walk of a record from step 5 on ends: held in RingOrder or Overrun, or gone on (R64 to R69). -/
structure Ordered (k : RecordKey) (s u : State) (x : Record) : Prop where
  record  : u.record? k = some x
  state   : x.state ∈ [RecordState.ringOrder, .overrun, .tagWait, .soleWait, .issued]
  rings   : ∀ q < Config.ringCount, (x.state = .issued → (s.ring q).issuedBy k (u.ring q)) ∧ (x.state ≠ .issued → u.ring q = s.ring q)
  waits   : x.state = .ringOrder ↔ s.conflictsOf k ≠ []
  waiting : x.state = .ringOrder → u.tracker.ringOrder = s.tracker.ringOrder ++ [k] ∧ x.waitsFor = s.conflictsOf k
  held    : x.state ≠ .ringOrder → (x.state = .overrun ↔ ∃ j ∈ s.keep.queue, s.heldByJob k j)
  holding : x.state = .overrun → x.timer = some (.overrun s.line.profile.overrunMs) ∧ u.tracker.overrun = s.tracker.overrun ++ [k]

section Order

variable {k : RecordKey} {s : State} {r : Record} (h : s.record? k = some r)
include h

theorem stepRingOrder_waits (hc : s.conflictsOf k ≠ []) : ∃ x, Ordered k s (stepRingOrder k s) x := by
  have heq : stepRingOrder k s =
      { mapRecord k (fun r => { r with state := .ringOrder, waitsFor := s.conflictsOf k }) s with
        tracker := { (mapRecord k (fun r => { r with state := .ringOrder, waitsFor := s.conflictsOf k }) s).tracker with
          ringOrder := s.tracker.ringOrder ++ [k] } } := by
    unfold stepRingOrder
    split
    · rename_i hnil
      exact absurd hnil hc
    · rfl
  rw [heq]
  exact ⟨_, record?_mapRecord_some (f := fun r => { r with state := .ringOrder, waitsFor := s.conflictsOf k }) (fun _ e => e) h,
    by simp, fun q _ => ⟨nofun, fun _ => rfl⟩, iff_of_true rfl hc, fun _ => ⟨rfl, rfl⟩, fun hne => absurd rfl hne, nofun⟩

theorem stepOverrun_ordered (hc : s.conflictsOf k = []) : ∃ x, Ordered k s (stepOverrun k s) x := by
  cases hb : s.blocked k
  · have hfree : ¬ ∃ j ∈ s.keep.queue, s.heldByJob k j := fun hh => absurd (hb.symm.trans ((blocked_iff s k).mpr hh)) (by decide)
    rw [stepOverrun_free hb]
    obtain ⟨x, hx⟩ := stepTagWait_onward h
    have hstate := hx.state
    have hring : x.state ≠ .ringOrder := fun hr => by rw [hr] at hstate; simp at hstate
    have hover : x.state ≠ .overrun := fun hr => by rw [hr] at hstate; simp at hstate
    refine ⟨x, hx.walked.record, List.mem_cons_of_mem _ (List.mem_cons_of_mem _ hstate), fun q hq => ?_,
      iff_of_false hring fun hn => hn hc, fun hr => absurd hr hring, fun _ => iff_of_false hover hfree, fun hr => absurd hr hover⟩
    have hq := hx.rings q hq
    split at hq
    · rename_i hissued
      exact ⟨fun _ => hq, fun hne => absurd hissued hne⟩
    · rename_i hissued
      exact ⟨fun hi => absurd hi hissued, fun _ => hq⟩
  · rw [stepOverrun_held hb]
    exact ⟨_, record?_mapRecord_some
      (f := fun r => { r with state := .overrun, timer := some (.overrun s.line.profile.overrunMs) }) (fun _ e => e) h,
      by simp, fun q _ => ⟨nofun, fun _ => rfl⟩, iff_of_false nofun fun hn => hn hc, nofun,
      fun _ => iff_of_true rfl ((blocked_iff s k).mp hb), fun _ => ⟨rfl, rfl⟩⟩

theorem stepRingOrder_ordered : ∃ x, Ordered k s (stepRingOrder k s) x := by
  by_cases hc : s.conflictsOf k = []
  · have heq : stepRingOrder k s = stepOverrun k s := by
      unfold stepRingOrder
      rw [hc]
    rw [heq]
    exact stepOverrun_ordered h hc
  · exact stepRingOrder_waits h hc

end Order

/-- The walk from step 5 on leaves the user counts of the rings. -/
theorem Ordered.users {k : RecordKey} {s u : State} {x : Record} (h : Ordered k s u x) {q : Nat} (hq : q < Config.ringCount) :
    (u.ring q).users = (s.ring q).users := by
  obtain ⟨hissued, hother⟩ := h.rings q hq
  by_cases hs : x.state = .issued
  · rw [(hissued hs).1]
  · rw [hother hs]

/-! ## The accesses that a record waits for (R64, R65) -/

/-- An access that the record's own access on the same ring must wait for. -/
theorem conflicts_iff (span : Nat) (own other : Access) :
    conflicts span own other = true ↔ mustWait own.write span own.first own.count other := by
  unfold conflicts mustWait
  cases own.write
  · rw [cond_false, if_neg (by decide), Bool.and_eq_true, rangesMeet_iff_shareSector]
  · rw [cond_true, if_pos rfl, overwrites_iff_overwritten]

theorem mem_ringConflicts {k j : RecordKey} {r : Ring} : j ∈ r.conflictsOf k ↔ ∃ o ∈ r.accesses, o.record = j ∧ o.record ≠ k
    ∧ ∃ a ∈ r.accesses, a.record = k ∧ mustWait a.write r.span a.first a.count o := by
  unfold Ring.conflictsOf
  simp only [List.mem_map, List.mem_filter, Bool.and_eq_true, Bool.not_eq_true', beq_eq_false_iff_ne, List.any_eq_true, beq_iff_eq,
    conflicts_iff]
  constructor
  · rintro ⟨o, ⟨ho, hne, hw⟩, rfl⟩
    exact ⟨o, ho, rfl, hne, hw⟩
  · rintro ⟨o, ho, rfl, hne, hw⟩
    exact ⟨o, ⟨ho, hne, hw⟩, rfl⟩

theorem mem_conflictsOf {k j : RecordKey} {s : State} : j ∈ s.conflictsOf k ↔ ∃ q < Config.ringCount, j ∈ (s.ring q).conflictsOf k := by
  unfold State.conflictsOf
  rw [mem_distinct, rings_toList, List.flatMap_map, List.mem_flatMap]
  simp only [List.mem_range]

/-! ## A command before ring acceptance -/

/-- The state `w`, with the record `r`, in which an arriving command whose keys are captured stands before ring acceptance. -/
structure AtAcceptance (s : State) (a : Arrival) (w : State) (r : Record) : Prop where
  record    : w.record? a.key = some r
  write     : r.kind.isWrite = a.kind.isWrite
  accesses  : accessesOf r.runs = accessesOf (s.classify a.host a.count)
  rings     : RingsSame s w
  queue     : w.keep.queue = s.keep.queue
  line      : w.line = s.line
  ringOrder : w.tracker.ringOrder = s.tracker.ringOrder.filter (· ≠ a.key)
  overrun   : w.tracker.overrun = s.tracker.overrun.filter (· ≠ a.key)

/-- The captures of a command's runs do not enter into its accesses. -/
theorem accessesOf_uncaptured (l : List Run) : accessesOf (l.map Run.uncaptured) = accessesOf l := by
  have hon : ∀ q, accessOn (l.map Run.uncaptured) q = accessOn l q := fun q => by
    have hown : (l.map Run.uncaptured).filter (fun r => r.ring == some q) = (l.filter fun r => r.ring == some q).map Run.uncaptured :=
      List.filter_map
    unfold accessOn sectorsOf
    rw [hown]
    dsimp only
    rw [List.any_map, List.any_map, List.map_map]
    cases l.filter fun r => r.ring == some q <;> rfl
  unfold accessesOf
  rw [List.filterMap_map]
  exact List.map_congr_left fun q _ => hon q

theorem accessesOf_captureRuns (t : State) (l : List Run) : accessesOf (t.captureRuns l) = accessesOf l := by
  rw [← accessesOf_uncaptured, captureRuns_uncaptured, accessesOf_uncaptured]

theorem ringsSame_afterClassify (k : RecordKey) (r : Record) (s : State) : RingsSame s (s.afterClassify k r) :=
  .after (ringsSame_usersUp _ _) (.after (ringsSame_countUp _ _) (.of_eq rfl))

/-- An arriving data command whose keys are all Live reaches ring acceptance. -/
theorem exec_atAcceptance {c : Instr} {a : Arrival} {s : State} (harr : arrivalOf c = some a) (hlink : s.sys.link = .ready)
    (hv : ArrivalVerdict s a none) (hdata : a.kind.isData = true) (hlim : a.count ≤ 65536) (law : s.RingLaw) (keyLaw : s.KeyTableLaw)
    (hdrain : ¬ s.drains a.host a.count) (hfirst : FirstReason (s.classifyTable a.kind.isWrite a.host a.count) none)
    (hlive : ∀ id, s.needs a.host a.count id → ∃ p, s.liveAs id p) :
    ∃ w r, AtAcceptance s a w r ∧ exec c s = .next (settle (stepAccept a.key w)) := by
  have hn := arrival_count_pos harr hdata
  have hexec := exec_accepted harr hlink hv
  rw [startSteps_passed hv hdata hdrain (classifyFailure_of_table hn hlim law hfirst)] at hexec
  have hrec := record?_arrivalClassified hv
  have hrings := ringsSame_afterClassify a.key (s.arrivalRecord a) (s.withArrival a)
  have hkeys := afterClassify_keys (s.withArrival a) a.key (s.arrivalRecord a)
  have hline := afterClassify_line (s.withArrival a) a.key (s.arrivalRecord a)
  have hkeep := afterClassify_keep (s.withArrival a) a.key (s.arrivalRecord a)
  have htracker := afterClassify_tracker (s.withArrival a) a.key (s.arrivalRecord a)
  generalize (s.withArrival a).afterClassify a.key (s.arrivalRecord a) = t at hexec hrec hrings hkeys hline hkeep htracker
  have hcaptured : t.lookupRuns (s.arrivalClassified a).runs = .captured :=
    (lookupRuns_congr (s := s) hkeys _).trans (lookupRuns_captured fun p hp => by
      obtain ⟨q, hq⟩ := hlive p ((mem_protectedIds_classify hn).mp hp)
      exact ⟨q, lookup_eq_captured_of_liveAs keyLaw hq⟩)
  rw [stepLookup_of_captured hrec hcaptured] at hexec
  refine ⟨_, _, ⟨(captured_passes hrec).record, rfl, accessesOf_captureRuns t _, 
    .and (hrings.after (.of_eq rfl)) rfl, (congrArg KeepUnit.queue hkeep).trans rfl, hline,
    ?_, ?_⟩, hexec⟩
  · rw [← filter_ne_eq]
    show t.tracker.ringOrder.filter (· != a.key) = _
    rw [htracker]
    rfl
  · rw [← filter_ne_eq]
    show t.tracker.overrun.filter (· != a.key) = _
    rw [htracker]
    rfl

/-! ## The rings after acceptance -/

/-- The rings of a state with the accesses of an arriving command on their lists (R56, R58). -/
def State.withAccesses (s w : State) (a : Arrival) : State :=
  (accessesOf (s.classify a.host a.count)).foldl (acceptAccess a.key a.kind.isWrite) w

/-- Acceptance changes the rings only. -/
theorem withAccesses_eq (s w : State) (a : Arrival) : s.withAccesses w a = { w with rings := (s.withAccesses w a).rings } := by
  unfold State.withAccesses
  induction accessesOf (s.classify a.host a.count) generalizing w with
  | nil => rfl
  | cons e l ih => exact ih (acceptAccess a.key a.kind.isWrite w e)

theorem accessFailure_congr {s w : State} (h : RingsSame s w) (write : Bool) (e : AccessRequest) :
    w.accessFailure write e = s.accessFailure write e := by
  unfold State.accessFailure
  rw [h e.ring]
  rfl

section Accepted

variable {s w : State} {a : Arrival} {q : Nat} (hn : 0 < a.count) (hrings : RingsSame s w)
include hn hrings

/-- A ring that the command has no sector on stays as it is. -/
theorem ring_withAccesses_none (hq : q < Config.ringCount) (hnone : ∀ y v m, ¬ s.accessOf a.host a.count q y v m) :
    (s.withAccesses w a).ring q = { s.ring q with users := (w.ring q).users } := by
  unfold State.withAccesses
  have hfind : ((accessesOf (s.classify a.host a.count)).find? fun e => e.ring == q) = none :=
    List.find?_eq_none.mpr fun e he heq => by
      obtain ⟨p, hp, rfl⟩ := mem_accessesOf.mp he
      obtain rfl : p = q := beq_iff_eq.mp heq
      obtain ⟨r, v, -, -, hacc⟩ := accessOf_first hn hp
      exact hnone _ _ _ hacc
  rw [ring_acceptAccesses _ _ (accessesOf_rings_nodup _) w hq, hfind]
  exact hrings q

/-- The command's access joins the list of its ring, a write's end the claim (R56, R58). -/
theorem ring_withAccesses (hq : q < Config.ringCount) {y v m : Nat} (hacc : s.accessOf a.host a.count q y v m) :
    (s.withAccesses w a).ring q = { s.ring q with
      users := (w.ring q).users
      claim := if a.kind.isWrite then max (s.ring q).claim (v + m) else (s.ring q).claim
      accesses := (s.ring q).accesses ++
        [{ record := a.key, write := a.kind.isWrite, first := v, count := m, issued := false }] } := by
  unfold State.withAccesses
  obtain ⟨hfirst, hcount, -, -⟩ := accessOn_eq hn hacc
  have hmem : accessOn (s.classify a.host a.count) q ∈ accessesOf (s.classify a.host a.count) :=
    mem_accessesOf.mpr ⟨q, mem_rings_of_accessOf hn hacc, rfl⟩
  obtain ⟨e, he⟩ : ∃ e, ((accessesOf (s.classify a.host a.count)).find? fun e => e.ring == q) = some e :=
    Option.isSome_iff_exists.mp (List.find?_isSome.mpr ⟨_, hmem, beq_self_eq_true q⟩)
  have hering : e.ring = q := by simpa using List.find?_some he
  obtain rfl : e = accessOn (s.classify a.host a.count) q := by
    obtain ⟨p, hp, rfl⟩ := mem_accessesOf.mp (List.mem_of_find?_eq_some he)
    rw [show p = q from hering]
  rw [ring_acceptAccesses _ _ (accessesOf_rings_nodup _) w hq, he]
  dsimp only
  unfold Ring.accepted
  rw [hfirst, hcount, hrings q]
  cases a.kind.isWrite <;> rfl

theorem span_withAccesses (hq : q < Config.ringCount) : ((s.withAccesses w a).ring q).span = (s.ring q).span := by
  by_cases hacc : ∃ y v m, s.accessOf a.host a.count q y v m
  · obtain ⟨y, v, m, hacc⟩ := hacc
    rw [ring_withAccesses hn hrings hq hacc]
  · rw [ring_withAccesses_none hn hrings hq fun y v m h => hacc ⟨y, v, m, h⟩]

variable (hnew : ∀ o ∈ (s.ring q).accesses, o.record ≠ a.key)
include hnew

/-- The accesses of the other records stay as they were. -/
theorem mem_withAccesses_old (hq : q < Config.ringCount) {o : Access} :
    o ∈ ((s.withAccesses w a).ring q).accesses ∧ o.record ≠ a.key ↔ o ∈ (s.ring q).accesses := by
  by_cases hacc : ∃ y v m, s.accessOf a.host a.count q y v m
  · obtain ⟨y, v, m, hacc⟩ := hacc
    rw [ring_withAccesses hn hrings hq hacc, List.mem_append]
    constructor
    · rintro ⟨ho | ho, hne⟩
      · exact ho
      · exact absurd (congrArg Access.record (List.mem_singleton.mp ho)) hne
    · exact fun ho => ⟨.inl ho, hnew o ho⟩
  · rw [ring_withAccesses_none hn hrings hq fun y v m h => hacc ⟨y, v, m, h⟩]
    exact ⟨fun h => h.1, fun ho => ⟨ho, hnew o ho⟩⟩

/-- The command has the one access on a ring. -/
theorem mem_withAccesses_own (hq : q < Config.ringCount) {o : Access} :
    o ∈ ((s.withAccesses w a).ring q).accesses ∧ o.record = a.key ↔ ∃ y v m, s.accessOf a.host a.count q y v m
      ∧ o = { record := a.key, write := a.kind.isWrite, first := v, count := m, issued := false } := by
  by_cases hacc : ∃ y v m, s.accessOf a.host a.count q y v m
  · obtain ⟨y, v, m, hacc⟩ := hacc
    rw [ring_withAccesses hn hrings hq hacc, List.mem_append, List.mem_singleton]
    constructor
    · rintro ⟨ho | ho, heq⟩
      · exact absurd heq (hnew o ho)
      · exact ⟨y, v, m, hacc, ho⟩
    · rintro ⟨y', v', m', hacc', rfl⟩
      obtain ⟨-, rfl, rfl⟩ := accessOf_unique hacc hacc'
      exact ⟨.inr rfl, rfl⟩
  · rw [ring_withAccesses_none hn hrings hq fun y v m h => hacc ⟨y, v, m, h⟩]
    exact ⟨fun h => absurd h.2 (hnew o h.1), fun ⟨y, v, m, h, _⟩ => absurd ⟨y, v, m, h⟩ hacc⟩

/-- What the command waits for on a ring (R64, R65). -/
theorem mem_conflicts_withAccesses (hq : q < Config.ringCount) {j : RecordKey} :
    j ∈ ((s.withAccesses w a).ring q).conflictsOf a.key ↔ ∃ y v m, s.accessOf a.host a.count q y v m
      ∧ ∃ o ∈ (s.ring q).accesses, o.record = j ∧ mustWait a.kind.isWrite (s.ring q).span v m o := by
  rw [mem_ringConflicts, span_withAccesses hn hrings hq]
  constructor
  · rintro ⟨o, ho, hj, hne, b, hb, hkey, hwait⟩
    obtain ⟨y, v, m, hacc, rfl⟩ := (mem_withAccesses_own hn hrings hnew hq).mp ⟨hb, hkey⟩
    exact ⟨y, v, m, hacc, o, (mem_withAccesses_old hn hrings hnew hq).mp ⟨ho, hne⟩, hj, hwait⟩
  · rintro ⟨y, v, m, hacc, o, ho, hj, hwait⟩
    obtain ⟨ho, hne⟩ := (mem_withAccesses_old hn hrings hnew hq).mpr ho
    obtain ⟨hb, hkey⟩ := (mem_withAccesses_own hn hrings hnew hq).mpr ⟨y, v, m, hacc, rfl⟩
    exact ⟨o, ho, hj, hne, _, hb, hkey, hwait⟩

omit hnew in
/-- A job holds the command where it has yet to copy what the command overwrites (R67). -/
theorem heldByJob_withAccesses {j : Job} (hnew : ∀ o ∈ (s.ring j.ring).accesses, o.record ≠ a.key)
    (hbound : ∀ p y v m, s.accessOf a.host a.count p y v m → p < Config.ringCount) :
    (s.withAccesses w a).heldByJob a.key j ↔ a.kind.isWrite = true ∧ ∃ y v m, s.accessOf a.host a.count j.ring y v m
      ∧ overwritten (s.ring j.ring).span v m j.cursor (j.upto - j.cursor) := by
  unfold State.heldByJob overwritten
  by_cases hq : j.ring < Config.ringCount
  · rw [span_withAccesses hn hrings hq]
    constructor
    · rintro ⟨b, hb, hkey, hwrite, o, hlo, hhi, hover⟩
      obtain ⟨y, v, m, hacc, rfl⟩ := (mem_withAccesses_own hn hrings hnew hq).mp ⟨hb, hkey⟩
      exact ⟨hwrite, y, v, m, hacc, o, hlo, by omega, hover⟩
    · rintro ⟨hwrite, y, v, m, hacc, o, hlo, hhi, hover⟩
      obtain ⟨hb, hkey⟩ := (mem_withAccesses_own hn hrings hnew hq).mpr ⟨y, v, m, hacc, rfl⟩
      exact ⟨_, hb, hkey, hwrite, o, hlo, by omega, hover⟩
  · rw [ring_of_le _ (Nat.not_lt.mp hq)]
    exact iff_of_false (fun ⟨b, hb, _⟩ => nomatch hb) fun ⟨_, y, v, m, hacc, _⟩ => hq (hbound _ y v m hacc)

end Accepted

/-! ## The statement -/

/-- The first test of an access finds its ring Live. -/
theorem live_of_verdict {s : State} {write : Bool} {x n q y v m : Nat} (h : AcceptVerdict s write x n none)
    (hacc : s.accessOf x n q y v m) : (s.ring q).live = true := by
  cases h with
  | accepted hall =>
    rcases firstReason_cons (hall q y v m hacc) with ⟨-, h⟩ | ⟨hlive, -⟩
    · cases h
    · exact (Bool.not_eq_false _).mp hlive

/-- No access of a ring belongs to a command that arrives. -/
theorem not_accessed_of_accepted {s : State} {a : Arrival} (law : s.RingLaw) (hv : ArrivalVerdict s a none) (q : Nat) :
    ∀ o ∈ (s.ring q).accesses, o.record ≠ a.key := by
  intro o ho heq
  by_cases hq : q < Config.ringCount
  · have hsome := (law q hq).2.2 o ho
    rw [heq, (record?_eq_none_iff s a.key).mpr (not_occupied_of_accepted hv)] at hsome
    cases hsome
  · rw [ring_of_le s (Nat.not_lt.mp hq)] at ho
    cases ho

theorem stepAccept_refused {k : RecordKey} {w : State} {r : Record} (h : w.record? k = some r) {why : HostReason}
    (hf : (accessesOf r.runs).findSome? (w.accessFailure r.kind.isWrite) = some why) : stepAccept k w = refuse k why w := by
  unfold stepAccept
  rw [h]
  dsimp only
  rw [hf]

theorem stepAccept_passed {s w : State} {a : Arrival} {r : Record} (h : AtAcceptance s a w r)
    (hpass : ∀ e ∈ accessesOf (s.classify a.host a.count), s.accessFailure a.kind.isWrite e = none) :
    stepAccept a.key w = stepRingOrder a.key (s.withAccesses w a) := by
  have hnone : (accessesOf (s.classify a.host a.count)).findSome? (w.accessFailure a.kind.isWrite) = none :=
    List.findSome?_eq_none_iff.mpr fun e he => (accessFailure_congr h.rings _ e).trans (hpass e he)
  unfold stepAccept
  rw [h.record]
  dsimp only
  rw [h.accesses, h.write, hnone]
  rfl

/-- Settles O42: the command reaches ring acceptance with its accesses, and goes on from RingOrder with them on its rings. -/
theorem ringAcceptedAndOrdered : Obligations.RingAcceptedAndOrdered := by
  intro c a s v harr hlink hv hdata hlim law keyLaw hdrain hfirst hlive hverdict
  have hn := arrival_count_pos harr hdata
  obtain ⟨w, r, hw, hexec⟩ := exec_atAcceptance harr hlink hv hdata hlim law keyLaw hdrain hfirst hlive
  cases v with
  | some why =>
    have hrefused := stepAccept_refused (why := why) hw.record (by
      rw [hw.accesses, hw.write, funext (accessFailure_congr hw.rings a.kind.isWrite)]
      exact refused_of_verdict hn hverdict)
    rw [hrefused] at hexec
    refine ⟨_, _, hexec, record?_refuse hw.record, fun why' h => ?_, nofun⟩
    cases h
    exact ⟨rfl, rfl, fun q _ => hw.rings q⟩
  | none =>
    rw [stepAccept_passed hw (accepted_of_verdict hn hverdict)] at hexec
    have hbound : ∀ p y v m, s.accessOf a.host a.count p y v m → p < Config.ringCount := fun p y v m h =>
      ring_lt_of_live (live_of_verdict hverdict h)
    have hnew := not_accessed_of_accepted law hv
    have heq := withAccesses_eq s w a
    have hwait {j : RecordKey} : j ∈ (s.withAccesses w a).conflictsOf a.key ↔ ∃ q < Config.ringCount, ∃ y v m,
        s.accessOf a.host a.count q y v m
          ∧ ∃ o ∈ (s.ring q).accesses, o.record = j ∧ mustWait a.kind.isWrite (s.ring q).span v m o := by
      rw [mem_conflictsOf]
      exact exists_congr fun q => and_congr_right fun hq => mem_conflicts_withAccesses hn hw.rings (hnew q) hq
    have hheld {j : Job} := heldByJob_withAccesses (j := j) hn hw.rings (hnew j.ring) hbound
    have hring {q : Nat} (hq : q < Config.ringCount) {y v m : Nat} := ring_withAccesses hn hw.rings hq (y := y) (v := v) (m := m)
    have hring' {q : Nat} (hq : q < Config.ringCount) := ring_withAccesses_none hn hw.rings hq
    have hrec : (s.withAccesses w a).record? a.key = some r := by
      rw [heq]
      exact hw.record
    have hkeep : (s.withAccesses w a).keep = w.keep := by rw [heq]
    have hline : (s.withAccesses w a).line = w.line := by rw [heq]
    have htracker : (s.withAccesses w a).tracker = w.tracker := by rw [heq]
    generalize s.withAccesses w a = z at *
    obtain ⟨x, hx⟩ := stepRingOrder_ordered hrec
    have husers : ∀ q < Config.ringCount, ((stepRingOrder a.key z).ring q).users = (w.ring q).users := fun q hq => by
      refine (hx.users hq).trans ?_
      by_cases hacc : ∃ y v m, s.accessOf a.host a.count q y v m
      · obtain ⟨y, v, m, hacc⟩ := hacc
        rw [hring hq hacc]
      · rw [hring' hq fun y v m h => hacc ⟨y, v, m, h⟩]
    refine ⟨_, x, hexec, hx.record, nofun, fun _ => ⟨fun q hq => ⟨z.ring q, fun y v m hacc => ?_, fun hnone => ?_, hx.rings q hq⟩,
      hx.waits.trans ?_, fun hs => ⟨?_, fun k => ?_⟩, fun hs => (hx.held hs).trans ?_, fun hs => ⟨?_, ?_⟩, hx.state⟩⟩
    · rw [husers q hq]
      exact hring hq hacc
    · rw [husers q hq]
      exact hring' hq hnone
    · constructor
      · intro hne
        obtain ⟨j, hj⟩ := List.exists_mem_of_ne_nil _ hne
        obtain ⟨q, hq, y, v, m, hacc, o, ho, -, hmust⟩ := hwait.mp hj
        exact ⟨q, hq, y, v, m, hacc, o, ho, hmust⟩
      · rintro ⟨q, hq, y, v, m, hacc, o, ho, hmust⟩
        exact List.ne_nil_of_mem (hwait.mpr ⟨q, hq, y, v, m, hacc, o, ho, rfl, hmust⟩)
    · rw [(hx.waiting hs).1, htracker, hw.ringOrder]
    · rw [(hx.waiting hs).2]
      exact hwait
    · rw [hkeep, hw.queue]
      constructor
      · rintro ⟨j, hj, hh⟩
        obtain ⟨hwrite, h⟩ := hheld.mp hh
        exact ⟨hwrite, j, hj, h⟩
      · rintro ⟨hwrite, j, hj, h⟩
        exact ⟨j, hj, hheld.mpr ⟨hwrite, h⟩⟩
    · rw [(hx.holding hs).1, hline, hw.line]
    · rw [(hx.holding hs).2, htracker, hw.overrun]

end Sys2Proof.Machine
end

section
/-! SUPPORT. The frame of SUBMIT KEEP read back, the step that takes it, and the id and the source base of an accepted job
(R132, R136). -/

namespace Sys2Proof.Machine

/-! ## The frame -/

theorem length_extentBytes (es : List (Nat × Nat)) : (extentBytes es).length = 9 * es.length := by
  induction es with
  | nil => rfl
  | cons e es ih =>
    simp only [extentBytes, List.length_append, leBytes_length, ih, List.length_cons]
    omega

/-- Extents behind the first bytes of a body read back, where they fit their fields (Table 10-2). -/
theorem extentsAt_of_prefix {es : List (Nat × Nat)} (hfit : ∀ e ∈ es, e.1 < 2 ^ 48 ∧ 1 ≤ e.2 ∧ e.2 ≤ 2 ^ 24) {body pre : List Byte}
    {off : Nat} (h : body = pre ++ extentBytes es) (hoff : pre.length = off) : extentsAt body off es.length = es := by
  induction es generalizing pre off with
  | nil => rfl
  | cons e es ih =>
    obtain ⟨⟨hlba, hpos, hcount⟩, hrest⟩ := List.forall_mem_cons.mp hfit
    have hfirst : fieldAt body off 6 = e.1 := by
      rw [fieldAt_of_prefix (pre := pre) (n := 6) (v := e.1) (post := leBytes 3 (e.2 - 1) ++ extentBytes es)
        (by rw [h]; simp [extentBytes]) hoff]
      omega
    have hsecond : fieldAt body (off + 6) 3 = e.2 - 1 := by
      rw [fieldAt_of_prefix (pre := pre ++ leBytes 6 e.1) (n := 3) (v := e.2 - 1) (post := extentBytes es)
        (by rw [h]; simp [extentBytes]) (by simp [hoff])]
      omega
    have htail := ih hrest (pre := pre ++ leBytes 6 e.1 ++ leBytes 3 (e.2 - 1)) (off := off + 9)
      (by rw [h]; simp [extentBytes]) (by simp [hoff])
    rw [List.length_cons, extentsAt, hfirst, hsecond, htail]
    exact congrArg (· :: es) (Prod.ext rfl (by dsimp only; omega))

/-- The ring and the policy in one byte read back, and no other bit of it is set (Table 10-2). -/
theorem ringPolicy_byte {r : Nat} (hr : r < 4) (policy : ErrorPolicy) :
    (BitVec.ofNat 8 (r + 16 * policy.code.toNat)).toNat % 4 = r
      ∧ (bif (BitVec.ofNat 8 (r + 16 * policy.code.toNat)).getLsbD 4 then ErrorPolicy.skip else .halt) = policy
      ∧ onlyBits (BitVec.ofNat 8 (r + 16 * policy.code.toNat)) 0x13#8 = true := by
  cases policy <;> interval_cases r <;> decide

/-- The body of SUBMIT KEEP. -/
theorem body_submitKeep (r a n : Nat) (policy : ErrorPolicy) (es : List (Nat × Nat)) : (Request.submitKeep r policy a n es).body =
    [BitVec.ofNat 8 (r + 16 * policy.code.toNat), BitVec.ofNat 8 es.length] ++ leBytes 6 a ++ leBytes 4 n ++ extentBytes es := rfl

theorem length_submitKeep (r a n : Nat) (policy : ErrorPolicy) (es : List (Nat × Nat)) :
    (Request.submitKeep r policy a n es).body.length = 12 + 9 * es.length := by
  rw [body_submitKeep]
  simp only [List.length_append, leBytes_length, length_extentBytes, List.length_cons, List.length_nil]

/-- What the fields of a SUBMIT KEEP hold (Table 10-2). -/
theorem fits_submitKeep {r a n : Nat} {policy : ErrorPolicy} {es : List (Nat × Nat)} (h : (Request.submitKeep r policy a n es).fits = true) :
    r < 4 ∧ a < 2 ^ 48 ∧ n < 2 ^ 32 ∧ 1 ≤ es.length ∧ es.length ≤ 4 ∧ ∀ e ∈ es, e.1 < 2 ^ 48 ∧ 1 ≤ e.2 ∧ e.2 ≤ 2 ^ 24 := by
  simpa [Request.fits, and_assoc] using h

section Frame

variable {r a n : Nat} {policy : ErrorPolicy} {es : List (Nat × Nat)} (h : (Request.submitKeep r policy a n es).fits = true)
include h

theorem firstBytes_submitKeep : byteAt (Request.submitKeep r policy a n es).body 0 = BitVec.ofNat 8 (r + 16 * policy.code.toNat)
    ∧ (byteAt (Request.submitKeep r policy a n es).body 1).toNat = es.length := by
  obtain ⟨-, -, -, -, hle, -⟩ := fits_submitKeep h
  have hone : byteAt (Request.submitKeep r policy a n es).body 1 = BitVec.ofNat 8 es.length := rfl
  refine ⟨rfl, ?_⟩
  rw [hone, BitVec.toNat_ofNat]
  omega

theorem decodeBody_submitKeep : decodeBody 12 (Request.submitKeep r policy a n es).body = .submitKeep r policy a n es := by
  obtain ⟨hr, ha, hn, -, hle, hes⟩ := fits_submitKeep h
  obtain ⟨hring, hpolicy, -⟩ := ringPolicy_byte hr policy
  obtain ⟨hzero, hone⟩ := firstBytes_submitKeep h
  have hbody := body_submitKeep r a n policy es
  generalize (Request.submitKeep r policy a n es).body = body at hzero hone hbody ⊢
  have hstart : fieldAt body 2 6 = a := by
    rw [fieldAt_of_prefix (off := 2) (pre := [BitVec.ofNat 8 (r + 16 * policy.code.toNat), BitVec.ofNat 8 es.length]) (n := 6)
      (v := a) (post := leBytes 4 n ++ extentBytes es) (by rw [hbody]; simp only [List.append_assoc]) rfl]
    omega
  have hlength : fieldAt body 8 4 = n := by
    rw [fieldAt_of_prefix (pre := [BitVec.ofNat 8 (r + 16 * policy.code.toNat), BitVec.ofNat 8 es.length] ++ leBytes 6 a) (n := 4)
      (v := n) (post := extentBytes es) (by rw [hbody]; simp only [List.append_assoc]) (by simp)]
    omega
  have hextents : extentsAt body 12 es.length = es := extentsAt_of_prefix hes hbody (by simp)
  show Request.submitKeep ((byteAt body 0).toNat % 4) (bif (byteAt body 0).getLsbD 4 then .skip else .halt) (fieldAt body 2 6)
    (fieldAt body 8 4) (extentsAt body 12 (byteAt body 1).toNat) = _
  rw [hzero, hone, hring, hpolicy, hstart, hlength, hextents]

theorem bodyFits_submitKeep : bodyFits 12 (Request.submitKeep r policy a n es).body = true := by
  obtain ⟨hr, -, -, hge, hle, -⟩ := fits_submitKeep h
  obtain ⟨-, -, hbits⟩ := ringPolicy_byte hr policy
  have hlen := length_submitKeep r a n policy es
  obtain ⟨hzero, hone⟩ := firstBytes_submitKeep h
  generalize (Request.submitKeep r policy a n es).body = body at hzero hone hlen ⊢
  show (decide (body.length = 12 + 9 * (byteAt body 1).toNat) && (onlyBits (byteAt body 0) 0x13#8
    && decide (1 ≤ (byteAt body 1).toNat) && decide ((byteAt body 1).toNat ≤ 4))) = true
  rw [hzero, hone, hbits, decide_eq_true hlen, decide_eq_true hge, decide_eq_true hle]
  rfl

theorem decodeFrame_submitKeep (sequence : Byte) :
    decodeFrame ((Request.submitKeep r policy a n es).frame sequence) = .request (.submitKeep r policy a n es) := by
  obtain ⟨-, -, -, -, hle, -⟩ := fits_submitKeep h
  have hlen := length_submitKeep r a n policy es
  rw [decodeFrame_frame _ sequence (by omega) rfl (bodyFits_submitKeep h)]
  exact congrArg Taken.request (decodeBody_submitKeep h)

end Frame

theorem exec_submitKeep {sequence : Byte} {r a n : Nat} {policy : ErrorPolicy} {es : List (Nat × Nat)} {s : State}
    (h : s.inProgress sequence (.submitKeep r policy a n es)) :
    exec .submitKeep s = .next ((settle (submitKeepOf r policy a n es s).1).answered sequence (submitKeepOf r policy a n es s).2.status
      (submitKeepOf r policy a n es s).2.body) := by
  have hlen := length_submitKeep r a n policy es
  obtain ⟨-, -, -, -, hle, -⟩ := fits_submitKeep h.2.2
  exact congrArg Host.Outcome.next (takeRequest_of_inProgress h
    (rowOf_frame (.submitKeep r policy a n es) sequence (by omega)) (decodeFrame_submitKeep h.2.2 sequence) serveSubmitKeep)

/-! ## The id of the job (R132) -/

/-- The id that stands `k` places after one, 1 after 255 (R132). -/
def idFrom (start k : Nat) : Nat := (start - 1 + k) % 255 + 1

theorem idAfter_idFrom (start k : Nat) : idAfter (idFrom start k) = idFrom start (k + 1) := by
  unfold idAfter idFrom
  split <;> omega

theorem idFrom_zero {start : Nat} (hlo : 1 ≤ start) (hhi : start ≤ 255) : idFrom start 0 = start := by
  unfold idFrom
  omega

/-- The search for an id ends at the first that no job holds, or at its last step (R132). -/
theorem freeId_spec (queue : List Job) (start fuel m : Nat) : ∃ k ≤ fuel, freeId queue fuel (idFrom start m) = idFrom start (m + k)
    ∧ (∀ i < k, ∃ x ∈ queue, x.id = idFrom start (m + i)) ∧ (k < fuel → ∀ x ∈ queue, x.id ≠ idFrom start (m + k)) := by
  induction fuel generalizing m with
  | zero => exact ⟨0, Nat.le_refl _, rfl, nofun, nofun⟩
  | succ fuel ih =>
    by_cases hheld : queue.any (fun j => j.id == idFrom start m) = true
    · obtain ⟨k, hk, heq, hbefore, hfree⟩ := ih (m + 1)
      refine ⟨k + 1, Nat.succ_le_succ hk, ?_, fun i hi => ?_, fun hlt => ?_⟩
      · rw [freeId, if_pos hheld, idAfter_idFrom, heq, show m + 1 + k = m + (k + 1) by omega]
      · cases i with
        | zero =>
          obtain ⟨x, hx, hid⟩ := List.any_eq_true.mp hheld
          exact ⟨x, hx, beq_iff_eq.mp hid⟩
        | succ i =>
          obtain ⟨x, hx, hid⟩ := hbefore i (Nat.lt_of_succ_lt_succ hi)
          exact ⟨x, hx, by rw [hid, show m + 1 + i = m + (i + 1) by omega]⟩
      · rw [show m + (k + 1) = m + 1 + k by omega]
        exact hfree (Nat.lt_of_succ_lt_succ hlt)
    · refine ⟨0, Nat.zero_le _, by rw [freeId, if_neg hheld, Nat.add_zero], nofun, fun _ x hx hid => hheld ?_⟩
      exact List.any_eq_true.mpr ⟨x, hx, beq_iff_eq.mpr hid⟩

/-- Fewer than four jobs do not hold four ids in a row. -/
theorem exists_free {queue : List Job} (start : Nat) (hlen : queue.length < 4) : ¬ ∀ i < 4, ∃ x ∈ queue, x.id = idFrom start i := by
  intro h
  have hnodup : ((List.range 4).map (idFrom start)).Nodup := by
    refine List.Nodup.map_on (fun i hi j hj heq => ?_) List.nodup_range
    have hi := List.mem_range.mp hi
    have hj := List.mem_range.mp hj
    unfold idFrom at heq
    omega
  have hsub : (List.range 4).map (idFrom start) ⊆ queue.map Job.id := fun id hid => by
    obtain ⟨i, hi, rfl⟩ := List.mem_map.mp hid
    obtain ⟨x, hx, heq⟩ := h i (List.mem_range.mp hi)
    exact heq ▸ List.mem_map_of_mem hx
  have hle := (hnodup.subperm hsub).length_le
  rw [List.length_map, List.length_map, List.length_range] at hle
  omega

/-- The id of an accepted job (R132). -/
theorem jobId_spec {s : State} (hlo : 1 ≤ s.keep.nextId) (hhi : s.keep.nextId ≤ 255) (hlen : s.keep.queue.length < 4) :
    (∀ x ∈ s.keep.queue, x.id ≠ s.jobId) ∧ ∃ k ≤ 3, s.jobId = idFrom s.keep.nextId k
      ∧ ∀ m < k, ∃ x ∈ s.keep.queue, x.id = idFrom s.keep.nextId m := by
  obtain ⟨k, hk, heq, hbefore, hfree⟩ := freeId_spec s.keep.queue s.keep.nextId 4 0
  rw [idFrom_zero hlo hhi] at heq
  simp only [Nat.zero_add] at heq hbefore hfree
  have hlt : k < 4 := by
    refine Nat.lt_of_le_of_ne hk fun h => exists_free s.keep.nextId hlen fun i hi => hbefore i (by omega)
  have hid : s.jobId = idFrom s.keep.nextId k := heq
  exact ⟨hid ▸ hfree hlt, k, by omega, hid, hbefore⟩

/-! ## The source base (R136) -/

/-- The source base of a job is that of the first entry that names its ring. -/
theorem ringEntryBase_eq {s : State} {r i : Nat} {d : Definition} (hi : i < Config.regionCount) (hd : (s.entry i).active = some d)
    (hr : d.kind = .ring r) (hfirst : ∀ m < i, ∀ e, (s.entry m).active = some e → e.kind ≠ .ring r) : s.ringEntryBase r = d.base := by
  have hmem : (i, d) ∈ s.activeDefs := mem_activeDefs.mpr ⟨hi, hd⟩
  obtain ⟨⟨m, e⟩, he⟩ := Option.isSome_iff_exists.mp (List.find?_isSome (p := fun e : Nat × Definition => e.2.kind.ring? == some r).mpr
    ⟨(i, d), hmem, beq_iff_eq.mpr (ring?_eq_some.mpr hr)⟩)
  have hname : e.kind = .ring r := ring?_eq_some.mp (by simpa using List.find?_some he)
  have hactive := (mem_activeDefs.mp (List.mem_of_find?_eq_some he)).2
  obtain ⟨-, before, after, hsplit, hnot⟩ := List.find?_eq_some_iff_append.mp he
  have hle : m ≤ i := by
    have horder := activeDefs_pairwise s
    rw [hsplit] at horder hmem
    rcases List.mem_append.mp hmem with h | h
    · exact absurd (beq_iff_eq.mpr (ring?_eq_some.mpr hr)) (by simpa using hnot _ h)
    · rcases List.mem_cons.mp h with h | h
      · exact Nat.le_of_eq (congrArg Prod.fst h).symm
      · exact Nat.le_of_lt ((List.pairwise_cons.mp (List.pairwise_append.mp horder).2.1).1 _ h)
  obtain rfl : m = i := Nat.le_antisymm hle (Nat.not_lt.mp fun hlt => hfirst m hlt e hactive hname)
  obtain rfl : e = d := Option.some.inj (hactive.symm.trans hd)
  unfold State.ringEntryBase
  rw [he]
  rfl

end Sys2Proof.Machine
end

section
/-! SUPPORT. The source segments and the destination of SUBMIT KEEP (R70, R134 to R136). -/

namespace Sys2Proof.Machine

/-! ## The keep query at submission (R42, R134) -/

theorem keepAllowed_iff {s : State} (law : s.KeyTableLaw) (id : ProgId) : s.keepAllowed id = true ↔ s.liveForKeep id := by
  constructor
  · intro h
    unfold State.keepAllowed State.keepQuery at h
    split at h
    · rename_i hquery
      split at hquery
      · rename_i i x hslot
        obtain ⟨hi, rfl, hid⟩ := slotOf_eq_some hslot
        split at hquery
        · rename_i p key cls d hc
          obtain rfl : cls = .keepAllowed := by cases hquery; rfl
          obtain rfl : p = id := by rw [hc] at hid; exact Option.some.inj hid
          exact ⟨i, hi, key, d, hc⟩
        · cases hquery
      · cases hquery
    · cases h
  · rintro ⟨i, hi, key, d, hc⟩
    unfold State.keepAllowed State.keepQuery
    rw [slotOf_eq_of_law law hi (by rw [hc]; rfl)]
    dsimp only
    rw [hc]

/-! ## The source segments (R70) -/

/-- The latest of the epochs whose start is at or below an offset (R48). -/
def latestAt (l : List Epoch) (v : Nat) : Option Epoch := (l.filter fun e => decide (e.start ≤ v)).getLast?

theorem epochAt_eq_latestAt (r : Ring) (v : Nat) : r.epochAt v = latestAt r.epochs v := rfl

theorem latestAt_cons_of_le {e : Epoch} {v : Nat} (h : e.start ≤ v) (l : List Epoch) :
    latestAt (e :: l) v = (latestAt l v).or (some e) := by
  unfold latestAt
  rw [List.filter_cons_of_pos (by simpa using h), List.getLast?_cons]
  cases (l.filter fun e => decide (e.start ≤ v)).getLast? <;> rfl

theorem latestAt_cons_of_lt {e : Epoch} {v : Nat} (h : v < e.start) (l : List Epoch) : latestAt (e :: l) v = latestAt l v := by
  unfold latestAt
  rw [List.filter_cons_of_neg (by simpa using h)]

theorem latestAt_eq_none {l : List Epoch} {v : Nat} (h : ∀ e ∈ l, v < e.start) : latestAt l v = none := by
  unfold latestAt
  rw [List.filter_eq_nil_iff.mpr fun e he hle => absurd (of_decide_eq_true hle) (Nat.not_le.mpr (h e he))]
  rfl

theorem mem_of_latestAt {l : List Epoch} {v : Nat} {e : Epoch} (h : latestAt l v = some e) : e ∈ l ∧ e.start ≤ v := by
  obtain ⟨hmem, hle⟩ := List.mem_filter.mp (List.mem_of_getLast? h)
  exact ⟨hmem, of_decide_eq_true hle⟩

theorem latestAt_ne_none {l : List Epoch} {v : Nat} {e : Epoch} (he : e ∈ l) (h : e.start ≤ v) : latestAt l v ≠ none := fun hnone =>
  absurd (List.getLast?_eq_none_iff.mp hnone) (List.ne_nil_of_mem (List.mem_filter.mpr ⟨he, decide_eq_true h⟩))

section Segments

variable {u n : Nat} (hn : 0 < n)
include hn

/-- The segments of a range have the latest epoch of each of its offsets. -/
theorem latestAt_segmentsHolding (l : List Epoch) {v : Nat} (hlo : u ≤ v) (hhi : v < u + n) :
    latestAt (segmentsHolding u n l) v = latestAt l v := by
  induction l with
  | nil => rfl
  | cons e l ih =>
    by_cases hholds : holdsAt u n (e :: l) 0 e
    · rw [segmentsHolding_cons_of_holds hholds]
      by_cases hle : e.start ≤ v
      · rw [latestAt_cons_of_le hle, latestAt_cons_of_le hle, ih]
      · rw [latestAt_cons_of_lt (Nat.not_le.mp hle), latestAt_cons_of_lt (Nat.not_le.mp hle), ih]
    · rw [segmentsHolding_cons_of_not_holds hn hholds, ih]
      by_cases hle : e.start ≤ v
      · cases l with
        | nil => exact absurd ⟨rfl, v, hlo, hhi, hle, nofun⟩ hholds
        | cons f l =>
          have hnext : f.start ≤ v := by
            by_contra hlt
            exact hholds ⟨rfl, v, hlo, hhi, hle, fun g hg => Option.some.inj hg ▸ Nat.not_le.mp hlt⟩
          obtain ⟨g, hg⟩ := Option.ne_none_iff_exists'.mp (latestAt_ne_none (l := f :: l) List.mem_cons_self hnext)
          rw [latestAt_cons_of_le hle, hg]
          rfl
      · rw [latestAt_cons_of_lt (Nat.not_le.mp hle)]

theorem segmentsHolding_sublist (l : List Epoch) : (segmentsHolding u n l).Sublist l := by
  induction l with
  | nil => exact List.Sublist.slnil
  | cons e l ih =>
    by_cases hholds : holdsAt u n (e :: l) 0 e
    · rw [segmentsHolding_cons_of_holds hholds]
      exact ih.cons_cons e
    · rw [segmentsHolding_cons_of_not_holds hn hholds]
      exact ih.cons e

/-- The segments of a range are the epochs of its offsets. -/
theorem mem_segmentsHolding {l : List Epoch} (hrise : (l.map Epoch.start).Pairwise (· < ·)) {e : Epoch} :
    e ∈ segmentsHolding u n l ↔ ∃ v, u ≤ v ∧ v < u + n ∧ latestAt l v = some e := by
  constructor
  · intro he
    induction l with
    | nil => cases he
    | cons f l ih =>
      obtain ⟨hbelow, hrest⟩ := List.pairwise_cons.mp hrise
      have hlater : ∀ {v : Nat}, latestAt l v = some e → latestAt (f :: l) v = some e := fun {v} hv => by
        obtain ⟨hmem, hle⟩ := mem_of_latestAt hv
        have hlt := hbelow e.start (List.mem_map_of_mem hmem)
        rw [latestAt_cons_of_le (by omega), hv]
        rfl
      by_cases hholds : holdsAt u n (f :: l) 0 f
      · rw [segmentsHolding_cons_of_holds hholds] at he
        rcases List.mem_cons.mp he with rfl | he
        · obtain ⟨-, v, hlo, hhi, hstart, hnext⟩ := hholds
          refine ⟨v, hlo, hhi, ?_⟩
          have hnone : latestAt l v = none := latestAt_eq_none fun g hg => by
            cases l with
            | nil => cases hg
            | cons f' l =>
              have hv := hnext f' rfl
              rcases List.mem_cons.mp hg with rfl | hg
              · exact hv
              · exact hv.trans ((List.pairwise_cons.mp hrest).1 g.start (List.mem_map_of_mem hg))
          rw [latestAt_cons_of_le hstart, hnone]
          rfl
        · obtain ⟨v, hlo, hhi, hv⟩ := ih hrest he
          exact ⟨v, hlo, hhi, hlater hv⟩
      · rw [segmentsHolding_cons_of_not_holds hn hholds] at he
        obtain ⟨v, hlo, hhi, hv⟩ := ih hrest he
        exact ⟨v, hlo, hhi, hlater hv⟩
  · rintro ⟨v, hlo, hhi, hv⟩
    rw [← latestAt_segmentsHolding hn l hlo hhi] at hv
    exact (mem_of_latestAt hv).1

/-- The programmes of a source, by its offsets (R134, order 6). -/
theorem any_segments_iff {r : Ring} (hrise : (r.epochs.map Epoch.start).Pairwise (· < ·)) (p : ProgId → Bool) :
    ((r.segments u n).any fun e => p e.id) = true ↔ ∃ v, u ≤ v ∧ v < u + n ∧ ∃ e, r.epochAt v = some e ∧ p e.id = true := by
  have hany : ((r.segments u n).any fun e => p e.id) = (segmentsHolding u n r.epochs).any fun e => p e.id := by
    unfold Ring.segments
    cases segmentsHolding u n r.epochs <;> rfl
  rw [hany, List.any_eq_true]
  constructor
  · rintro ⟨e, he, hp⟩
    obtain ⟨v, hlo, hhi, hv⟩ := (mem_segmentsHolding hn hrise).mp he
    exact ⟨v, hlo, hhi, e, hv, hp⟩
  · rintro ⟨v, hlo, hhi, e, hv, hp⟩
    exact ⟨e, (mem_segmentsHolding hn hrise).mpr ⟨v, hlo, hhi, hv⟩, hp⟩

/-- The segments of a source that lies above the ring's floor begin with it and name the programme of each of its offsets (R70). -/
theorem segments_spec {r : Ring} (law : r.Law) (hlive : r.live = true) (hfloor : r.floor ≤ u) :
    (r.segments u n).head?.map Epoch.start = some u ∧ ∀ v, u ≤ v → v < u + n →
      (latestAt (r.segments u n) v).map Epoch.id = (r.epochAt v).map Epoch.id := by
  obtain ⟨-, hfirst, hrise, -⟩ := law.1 hlive
  obtain ⟨e₀, he₀, hstart⟩ := Option.map_eq_some_iff.mp hfirst
  have hnone := latestAt_ne_none (l := r.epochs) (v := u) (List.mem_of_head? he₀) (by omega)
  rw [← latestAt_segmentsHolding hn r.epochs (Nat.le_refl u) (by omega)] at hnone
  obtain ⟨g, hg⟩ := Option.ne_none_iff_exists'.mp hnone
  obtain ⟨hgmem, hgle⟩ := mem_of_latestAt hg
  have hlatest := fun v hlo hhi => latestAt_segmentsHolding hn r.epochs (u := u) (v := v) hlo hhi
  have hsorted := hrise.sublist ((segmentsHolding_sublist hn (u := u) r.epochs).map Epoch.start)
  unfold Ring.segments
  cases hsegs : segmentsHolding u n r.epochs with
  | nil => rw [hsegs] at hgmem; cases hgmem
  | cons e rest =>
    rw [hsegs] at hgmem hsorted
    have hle : e.start ≤ u := by
      rcases List.mem_cons.mp hgmem with rfl | hgmem
      · exact hgle
      · have hlt := (List.pairwise_cons.mp hsorted).1 g.start (List.mem_map_of_mem hgmem)
        omega
    refine ⟨rfl, fun v hlo hhi => ?_⟩
    have hv := hlatest v hlo hhi
    rw [hsegs, latestAt_cons_of_le (by omega)] at hv
    rw [epochAt_eq_latestAt, ← hv]
    dsimp only
    rw [latestAt_cons_of_le hlo]
    cases latestAt rest v <;> rfl

end Segments

/-! ## The destination (R135) -/

section Destination

variable {s : State} {id : ProgId}

/-- The extent that the destination test finds is allowed at the disk LBA it finds. -/
theorem extentDisk_eq_some {e : Nat × Nat} (hpos : 1 ≤ e.2) {x : Extent} : s.extentDisk id e = some x ↔
    x.host = e.1 ∧ x.count = e.2 ∧ s.extentAllowed id e x.disk := by
  unfold State.extentDisk
  constructor
  · intro h
    split at h
    · rename_i d hd
      cases hfits : s.destinationFits id e.1 e.2 d
      · rw [hfits] at h
        cases h
      · rw [hfits] at h
        cases h
        exact ⟨rfl, rfl, (destinationFits_iff s id e.1 hpos d).mp hfits⟩
    · cases h
  · obtain ⟨host, count, disk⟩ := x
    rintro ⟨rfl, rfl, hallowed⟩
    obtain ⟨-, -, -, hdisk, -⟩ := hallowed e.1 (Nat.le_refl _) (by omega)
    rw [Nat.sub_self, Nat.add_zero] at hdisk
    rw [hdisk]
    dsimp only
    rw [(destinationFits_iff s id e.1 hpos disk).mpr hallowed]
    rfl

theorem extents_of_mapM {es : List (Nat × Nat)} (hpos : ∀ e ∈ es, 1 ≤ e.2) {xs : List Extent} (h : es.mapM (s.extentDisk id) = some xs) :
    xs.map (fun x => (x.host, x.count)) = es ∧ ∀ x ∈ xs, s.extentAllowed id (x.host, x.count) x.disk := by
  induction es generalizing xs with
  | nil =>
    cases h
    exact ⟨rfl, nofun⟩
  | cons e es ih =>
    obtain ⟨he, hes⟩ := List.forall_mem_cons.mp hpos
    rw [List.mapM_cons] at h
    obtain ⟨x, hx, h⟩ := Option.bind_eq_some_iff.mp h
    obtain ⟨ys, hys, h⟩ := Option.bind_eq_some_iff.mp h
    cases h
    obtain ⟨hhost, hcount, hallowed⟩ := (extentDisk_eq_some he).mp hx
    obtain ⟨hmap, hall⟩ := ih hes hys
    have hpair : (x.host, x.count) = e := Prod.ext hhost hcount
    refine ⟨by rw [List.map_cons, hmap, hpair], List.forall_mem_cons.mpr ⟨?_, hall⟩⟩
    rw [hpair]
    exact hallowed

theorem mapM_of_extents {es : List (Nat × Nat)} (hpos : ∀ e ∈ es, 1 ≤ e.2) (h : ∀ e ∈ es, ∃ d, s.extentAllowed id e d) :
    ∃ xs, es.mapM (s.extentDisk id) = some xs := by
  induction es with
  | nil => exact ⟨[], rfl⟩
  | cons e es ih =>
    obtain ⟨he, hes⟩ := List.forall_mem_cons.mp hpos
    obtain ⟨⟨d, hd⟩, hrest⟩ := List.forall_mem_cons.mp h
    obtain ⟨xs, hxs⟩ := ih hes hrest
    have hx : s.extentDisk id e = some { host := e.1, count := e.2, disk := d } := (extentDisk_eq_some he).mpr ⟨rfl, rfl, hd⟩
    refine ⟨{ host := e.1, count := e.2, disk := d } :: xs, ?_⟩
    rw [List.mapM_cons, hx, hxs]
    rfl

variable {n : Nat} {es : List (Nat × Nat)} (hpos : ∀ e ∈ es, 1 ≤ e.2)
include hpos

/-- The destination test passes for the programme it names (R135). -/
theorem destinationAllowed_of_destination {xs : List Extent} (h : s.destination n es = some (id, xs)) : s.destinationAllowed id n es
    ∧ xs.map (fun x => (x.host, x.count)) = es ∧ ∀ x ∈ xs, s.extentAllowed id (x.host, x.count) x.disk := by
  unfold State.destination at h
  split at h
  · cases h
  rename_i hsum
  split at h
  · obtain ⟨ys, hys, heq⟩ := Option.map_eq_some_iff.mp h
    cases heq
    obtain ⟨hmap, hall⟩ := extents_of_mapM hpos hys
    refine ⟨⟨not_not.mp hsum, fun e he => ?_⟩, hmap, hall⟩
    rw [← hmap] at he
    obtain ⟨x, hx, rfl⟩ := List.mem_map.mp he
    exact ⟨x.disk, hall x hx⟩
  · cases h

/-- A programme whose destination test passes is the one that the test names (R135). -/
theorem destination_of_allowed (hne : es ≠ []) (h : s.destinationAllowed id n es) : ∃ xs, s.destination n es = some (id, xs) := by
  obtain ⟨hsum, hall⟩ := h
  obtain ⟨xs, hxs⟩ := mapM_of_extents hpos hall
  obtain ⟨e, rest, rfl⟩ := List.exists_cons_of_ne_nil hne
  obtain ⟨d, hd⟩ := hall e List.mem_cons_self
  have hlast := hpos e List.mem_cons_self
  obtain ⟨-, hid, -⟩ := hd e.1 (Nat.le_refl _) (by omega)
  refine ⟨xs, ?_⟩
  unfold State.destination
  rw [if_neg (not_not.mpr hsum), List.head?_cons, Option.bind_some, hid]
  dsimp only
  rw [hxs]
  rfl

end Destination

end Sys2Proof.Machine
end

section
/-! SUPPORT. SUBMIT KEEP against its table (R134); the settling of O59. -/

namespace Sys2Proof.Machine

/-! ## Tables of reasons -/

theorem FirstReason.of_bif {ρ : Type} {b : Bool} {p : Prop} {why : ρ} {rest : List (Prop × ρ)} {v : Option ρ} (h : b = true ↔ p)
    (hrest : ¬ p → FirstReason rest v) : FirstReason ((p, why) :: rest) (bif b then some why else v) := by
  cases b
  · have hp := mt h.mpr (by decide)
    exact .later hp (hrest hp)
  · exact .here (h.mp rfl)

theorem FirstReason.of_ite {ρ : Type} {p : Prop} [Decidable p] {why : ρ} {rest : List (Prop × ρ)} {v : Option ρ}
    (hrest : ¬ p → FirstReason rest v) : FirstReason ((p, why) :: rest) (if p then some why else v) := by
  split
  · rename_i hp
    exact .here hp
  · rename_i hp
    exact .later hp (hrest hp)

/-- A table in two parts. -/
theorem FirstReason.append {ρ : Type} {l l' : List (Prop × ρ)} {v v' : Option ρ} (h : FirstReason l v)
    (h' : v = none → FirstReason l' v') : FirstReason (l ++ l') (v.or v') := by
  induction h with
  | passed => exact h' rfl
  | here hp => exact .here hp
  | later hp _ ih => exact .later hp (ih h')

/-- No test of a table that gives no reason applies. -/
theorem FirstReason.none_applies {ρ : Type} {l : List (Prop × ρ)} {v : Option ρ} (h : FirstReason l v) (hv : v = none) :
    ∀ p ∈ l, ¬ p.1 := by
  induction h with
  | passed => exact nofun
  | here hp => cases hv
  | later hp _ ih => exact List.forall_mem_cons.mpr ⟨hp, ih hv⟩

theorem shareSector_comm {a n b m : Nat} : shareSector a n b m ↔ shareSector b m a n :=
  exists_congr fun _ => by omega

/-! ## The arguments and the source (R134, orders 1 to 6) -/

/-- The extents whose values R134 refuses. -/
theorem not_extentsFit_iff (es : List (Nat × Nat)) : extentsFit es = false ↔
    es.length = 0 ∨ 4 < es.length ∨ ∃ e ∈ es, e.2 = 0 ∨ 16777216 < e.2 ∨ 2 ^ 48 < e.1 + e.2 := by
  have hspace : Config.lbaSpace = 2 ^ 48 := rfl
  unfold extentsFit
  rw [hspace, Bool.and_eq_false_iff, Bool.and_eq_false_iff, decide_eq_false_iff_not, decide_eq_false_iff_not, List.all_eq_false,
    or_assoc]
  refine or_congr (by omega) (or_congr (by omega) (exists_congr fun e => and_congr_right fun _ => ?_))
  simp only [Bool.and_eq_true, decide_eq_true_eq]
  omega

theorem badArgument_iff (r n : Nat) (es : List (Nat × Nat)) :
    (decide (Config.ringCount ≤ r) || !extentsFit es || decide (n = 0) || decide (2 ^ 26 < n)) = true ↔
      4 ≤ r ∨ es.length = 0 ∨ 4 < es.length ∨ (∃ e ∈ es, e.2 = 0 ∨ 16777216 < e.2 ∨ 2 ^ 48 < e.1 + e.2) ∨ n = 0 ∨ 2 ^ 26 < n := by
  simp only [Bool.or_eq_true, decide_eq_true_eq, Bool.not_eq_true', not_extentsFit_iff, or_assoc]

/-- What a SUBMIT KEEP holds whose arguments pass. -/
theorem arguments_of_passed {r n : Nat} {es : List (Nat × Nat)}
    (h : ¬ (4 ≤ r ∨ es.length = 0 ∨ 4 < es.length ∨ (∃ e ∈ es, e.2 = 0 ∨ 16777216 < e.2 ∨ 2 ^ 48 < e.1 + e.2) ∨ n = 0 ∨ 2 ^ 26 < n)) :
    r < Config.ringCount ∧ es ≠ [] ∧ (∀ e ∈ es, 1 ≤ e.2) ∧ 0 < n := by
  simp only [not_or, not_exists, not_and] at h
  obtain ⟨hr, hlen, -, hes, hn, -⟩ := h
  exact ⟨Nat.not_le.mp hr, fun hnil => hlen (by rw [hnil]; rfl), fun e he => Nat.pos_of_ne_zero (hes e he).1, Nat.pos_of_ne_zero hn⟩

theorem inWindow_iff {r : Ring} (hlive : r.live = true) (a n : Nat) :
    r.inWindow a n = true ↔ max r.floor (r.head - r.trail) ≤ a ∧ a + n ≤ r.head := by
  unfold Ring.inWindow
  rw [lower_of_live hlive, Bool.and_eq_true, decide_eq_true_eq, decide_eq_true_eq]

/-- The reason for which the destination and the extents refuse SUBMIT KEEP (R134, orders 7 to 10). -/
def State.targetRefusal (s : State) (n : Nat) (es : List (Nat × Nat)) : Option LineReason :=
  match s.destination n es with
  | none => some .mismatch
  | some (id, _) => s.targetFailure id es

/-- The reason for which SUBMIT KEEP is refused, if any. -/
def State.submitRefusal (s : State) (r a n : Nat) (es : List (Nat × Nat)) : Option LineReason :=
  (s.sourceFailure r a n es).or (s.targetRefusal n es)

section Table

variable {s : State} {r a n : Nat} {es : List (Nat × Nat)} (keyLaw : s.KeyTableLaw)
include keyLaw

theorem not_keepAllowed_iff (id : ProgId) : (!s.keepAllowed id) = true ↔ ¬ s.liveForKeep id := by
  rw [Bool.not_eq_true', ← Bool.not_eq_true, keepAllowed_iff keyLaw]

/-- The first part of the table. -/
theorem sourceFailure_table (law : s.RingLaw) : FirstReason ((s.submitTable r a n es).take 6) (s.sourceFailure r a n es) := by
  refine .of_bif Iff.rfl fun _ => .of_ite fun _ => .of_bif (badArgument_iff r n es) fun hargs => ?_
  obtain ⟨hr, -, -, hn⟩ := arguments_of_passed hargs
  refine .of_bif (Iff.of_eq (Bool.not_eq_true' _)) fun hlive => ?_
  have hlive : (s.ring r).live = true := (Bool.not_eq_false _).mp hlive
  obtain ⟨-, -, hrise, -⟩ := (law r hr).1.1 hlive
  refine .of_bif ?_ fun _ => .of_bif ?_ fun _ => .passed
  · rw [Bool.not_eq_true', ← Bool.not_eq_true, inWindow_iff hlive]
  · rw [any_segments_iff hn hrise fun id => !s.keepAllowed id]
    simp only [not_keepAllowed_iff keyLaw]

/-- What the first part of the table leaves. -/
structure SourcePassed (s : State) (r a n : Nat) (es : List (Nat × Nat)) : Prop where
  room     : s.keep.queue.length < 4
  ring     : r < Config.ringCount
  nonempty : es ≠ []
  positive : ∀ e ∈ es, 1 ≤ e.2
  sectors  : 0 < n
  live     : (s.ring r).live = true
  floor    : (s.ring r).floor ≤ a

theorem sourcePassed (law : s.RingLaw) (h : s.sourceFailure r a n es = none) : SourcePassed s r a n es := by
  have hnot := (sourceFailure_table (r := r) (a := a) (n := n) (es := es) keyLaw law).none_applies h
  simp only [State.submitTable, List.take_succ_cons, List.forall_mem_cons] at hnot
  obtain ⟨-, hroom, hargs, hlive, hwindow, -⟩ := hnot
  obtain ⟨hr, hne, hpos, hn⟩ := arguments_of_passed hargs
  obtain ⟨hfloor, -⟩ := not_not.mp hwindow
  exact ⟨Nat.not_le.mp hroom, hr, hne, hpos, hn, (Bool.not_eq_false _).mp hlive, (Nat.le_max_left _ _).trans hfloor⟩

/-! ## The destination and the extents (R134, orders 7 to 10) -/

omit keyLaw in
theorem extentsMeet_iff (es : List (Nat × Nat)) : extentsMeet es = true ↔
    ∃ i j : Nat, ∃ x y : Nat × Nat, i < j ∧ es[i]? = some x ∧ es[j]? = some y ∧ shareSector x.1 x.2 y.1 y.2 := by
  induction es with
  | nil => exact iff_of_false (by decide) fun ⟨_, _, _, _, _, h, _⟩ => nomatch h
  | cons e es ih =>
    unfold extentsMeet
    rw [Bool.or_eq_true, ih, List.any_eq_true]
    simp only [rangesMeet_iff_shareSector]
    constructor
    · rintro (⟨y, hy, hshare⟩ | ⟨i, j, x, y, hlt, hx, hy, hshare⟩)
      · obtain ⟨j, hj⟩ := List.mem_iff_getElem?.mp hy
        exact ⟨0, j + 1, e, y, Nat.succ_pos j, rfl, hj, hshare⟩
      · exact ⟨i + 1, j + 1, x, y, Nat.succ_lt_succ hlt, hx, hy, hshare⟩
    · rintro ⟨i, j, x, y, hlt, hx, hy, hshare⟩
      obtain ⟨j, rfl⟩ := Nat.exists_eq_add_one_of_ne_zero (Nat.ne_zero_of_lt hlt)
      cases i with
      | zero =>
        obtain rfl : e = x := Option.some.inj hx
        exact .inl ⟨y, List.mem_iff_getElem?.mpr ⟨j, hy⟩, hshare⟩
      | succ i => exact .inr ⟨i, j, x, y, Nat.lt_of_succ_lt_succ hlt, hx, hy, hshare⟩

omit keyLaw in
theorem overlap_iff : (extentsMeet es || es.any fun e => s.busyRange e.1 e.2) = true ↔
    (∃ i j : Nat, ∃ x y : Nat × Nat, i < j ∧ es[i]? = some x ∧ es[j]? = some y ∧ shareSector x.1 x.2 y.1 y.2)
      ∨ ∃ e ∈ es, ∃ j ∈ s.keep.queue, ∃ x ∈ j.extents, shareSector e.1 e.2 x.host x.count := by
  rw [Bool.or_eq_true, extentsMeet_iff, List.any_eq_true]
  simp only [busyRange_iff, shareSector_comm (a := Extent.host _)]

omit keyLaw in
theorem recordMeets_iff : es.any s.recordMeets = true ↔
    ∃ e ∈ es, ∃ x ∈ s.tracker.records, x.kind.isData = true ∧ shareSector e.1 e.2 x.host x.count := by
  simp only [List.any_eq_true, State.recordMeets, Bool.and_eq_true, rangesMeet_iff_shareSector, shareSector_comm (a := Record.host _)]

/-- The second part of the table. -/
theorem targetRefusal_table (hne : es ≠ []) (hpos : ∀ e ∈ es, 1 ≤ e.2) :
    FirstReason ((s.submitTable r a n es).drop 6) (s.targetRefusal n es) := by
  unfold State.targetRefusal
  cases hd : s.destination n es with
  | none =>
    refine .here fun ⟨id, hid⟩ => ?_
    obtain ⟨xs, hxs⟩ := destination_of_allowed hpos hne hid
    rw [hd] at hxs
    cases hxs
  | some found =>
    obtain ⟨id, xs⟩ := found
    obtain ⟨hallowed, -⟩ := destinationAllowed_of_destination hpos hd
    have hlive : s.liveForKeep id ↔ ∃ id, s.destinationAllowed id n es ∧ s.liveForKeep id := by
      refine ⟨fun h => ⟨id, hallowed, h⟩, fun ⟨id', h', hlive⟩ => ?_⟩
      obtain ⟨ys, hys⟩ := destination_of_allowed hpos hne h'
      rw [hd] at hys
      cases hys
      exact hlive
    exact .later (not_not_intro ⟨id, hallowed⟩) <| .of_bif ((not_keepAllowed_iff keyLaw id).trans (not_congr hlive)) fun _ =>
      .of_bif overlap_iff fun _ => .of_bif recordMeets_iff fun _ => .passed

/-! ## The request -/

/-- SUBMIT KEEP's reason is the first of its table (R134). -/
theorem submitRefusal_table (law : s.RingLaw) : FirstReason (s.submitTable r a n es) (s.submitRefusal r a n es) := by
  rw [← List.take_append_drop 6 (s.submitTable r a n es)]
  refine (sourceFailure_table keyLaw law).append fun hnone => ?_
  obtain ⟨-, -, hne, hpos, -⟩ := sourcePassed keyLaw law hnone
  exact targetRefusal_table keyLaw hne hpos

end Table

theorem submitKeepOf_refused {s : State} {r a n : Nat} {policy : ErrorPolicy} {es : List (Nat × Nat)} {why : LineReason}
    (h : s.submitRefusal r a n es = some why) : submitKeepOf r policy a n es s = refused why s := by
  unfold State.submitRefusal State.targetRefusal at h
  unfold submitKeepOf
  cases hsource : s.sourceFailure r a n es with
  | some w =>
    rw [hsource] at h
    cases h
    rfl
  | none =>
    rw [hsource, Option.none_or] at h
    dsimp only
    cases hd : s.destination n es with
    | none =>
      rw [hd] at h
      cases h
      rfl
    | some found =>
      rw [hd] at h
      dsimp only at h ⊢
      rw [h]

theorem submitKeepOf_accepted {s : State} {r a n : Nat} {policy : ErrorPolicy} {es : List (Nat × Nat)}
    (h : s.submitRefusal r a n es = none) : s.sourceFailure r a n es = none ∧ ∃ id xs, s.destination n es = some (id, xs)
      ∧ submitKeepOf r policy a n es s = acceptJob (s.newJob r policy a n id xs) s := by
  unfold State.submitRefusal State.targetRefusal at h
  obtain ⟨hsource, htarget⟩ := Option.or_eq_none_iff.mp h
  refine ⟨hsource, ?_⟩
  unfold submitKeepOf
  rw [hsource]
  dsimp only
  cases hd : s.destination n es with
  | none =>
    rw [hd] at htarget
    cases htarget
  | some found =>
    rw [hd] at htarget
    dsimp only at htarget ⊢
    rw [htarget]
    exact ⟨found.1, found.2, rfl, rfl⟩

/-- Settles O59: the request against its table, and the job that joins the queue. -/
theorem submitKeep : Obligations.SubmitKeep := by
  intro sequence r a n policy es s v hprogress keyLaw law keepLaw hfirst
  have hrefusal : v = s.submitRefusal r a n es := firstReason_unique hfirst (submitRefusal_table keyLaw law)
  rw [exec_submitKeep hprogress]
  refine ⟨fun why hv => ?_, fun hv => ?_⟩
  · rw [submitKeepOf_refused (hrefusal.symm.trans hv)]
    rfl
  · obtain ⟨hsource, id, xs, hd, heq⟩ := submitKeepOf_accepted (policy := policy) (hrefusal.symm.trans hv)
    obtain ⟨hroom, hr, -, hpos, hn, hlive, hfloor⟩ := sourcePassed keyLaw law hsource
    obtain ⟨hallowed, hextents, hdisks⟩ := destinationAllowed_of_destination hpos hd
    obtain ⟨-, -, hlo, hhi, -⟩ := keepLaw
    obtain ⟨hfree, k, hk, hid, hheld⟩ := jobId_spec hlo hhi hroom
    obtain ⟨hstart, hnames⟩ := segments_spec hn (law r hr).1 hlive hfloor
    have hbounds : 1 ≤ s.jobId ∧ s.jobId ≤ 255 := by
      rw [hid]
      unfold idFrom
      omega
    have hnext : idAfter s.jobId = if s.jobId = 255 then 1 else s.jobId + 1 := by
      unfold idAfter
      split_ifs <;> omega
    refine ⟨s.newJob r policy a n id xs, idAfter s.jobId, ?_, hnext, hfree, hbounds.1, hbounds.2, fun hnone => ?_,
      ⟨k, hk, hid, hheld⟩, fun i d hi hactive hkind hfirst => ringEntryBase_eq hi hactive hkind hfirst, rfl, rfl, rfl, rfl, rfl, rfl,
      rfl, rfl, rfl, hallowed, hextents, hdisks, hstart, hnames⟩
    · rw [heq]
      rfl
    · cases k with
      | zero => exact hid.trans (idFrom_zero hlo hhi)
      | succ k =>
        obtain ⟨x, hx, heq⟩ := hheld 0 (Nat.succ_pos k)
        exact absurd (heq.trans (idFrom_zero hlo hhi)) (hnone x hx)

end Sys2Proof.Machine
end
